-- ==== Sys2Proof/Word.lean ====
section
/-!
DEFINITION. Word types and their plainest arithmetic: bytes, 32-bit and 64-bit words, bit fields of a
natural number (00 R2: bits are numbered from 0 at the least significant bit), the floor and ceiling of a
quotient and two's complement readings (00 R6).
-/
namespace Sys2Proof

/-- A byte of memory. -/
abbrev Byte := BitVec 8
/-- A word of the result queue and of the frame registers (08 R189, R195). -/
abbrev Word := BitVec 32
/-- A 64-bit register, address or instruction word (11 R281). -/
abbrev DWord := BitVec 64

/-- `len` bits of `x` from bit `lo` upward (00 R2). -/
def bits (x lo len : Nat) : Nat := x / 2 ^ lo % 2 ^ len

/-- Bit `i` of `x`. -/
def bitAt (x i : Nat) : Bool := x / 2 ^ i % 2 == 1

/-- `x` with its `len` bits from bit `lo` upward replaced by the low `len` bits of `v`. -/
def setBits (x lo len v : Nat) : Nat :=
  x - bits x lo len * 2 ^ lo + (v % 2 ^ len) * 2 ^ lo

/-- `x` with bit `i` set. -/
def setBit (x i : Nat) : Nat := setBits x i 1 1

/-- `x` with bit `i` cleared. -/
def clearBit (x i : Nat) : Nat := setBits x i 1 0

/-- The quotient of `a` by `b` rounded up. -/
def ceilDiv (a b : Nat) : Nat := (a + b - 1) / b

/-- `sext(x, n)` of 00 R6: the `n`-bit value `x` read as two's complement. -/
def sextInt (x n : Nat) : Int :=
  let y := x % 2 ^ n
  if 2 ^ (n - 1) ≤ y ∧ 0 < n then (y : Int) - (2 ^ n : Nat) else (y : Int)

/-- `trunc(x, n)` of 00 R6: an integer reduced modulo `2^n`. -/
def truncInt (x : Int) (n : Nat) : Nat := (x % ((2 ^ n : Nat) : Int)).toNat

/-- 1 for true, 0 for false. -/
def b2n (b : Bool) : Nat := if b then 1 else 0

/-- The 32-bit words of a value, the lowest first. -/
def wordsOf (x : Nat) : Nat → List Word
  | 0 => []
  | n + 1 => BitVec.ofNat 32 x :: wordsOf (x / 2 ^ 32) n

/-- The value of a list of 32-bit words, the lowest first. -/
def ofWords : List Word → Nat
  | [] => 0
  | w :: ws => w.toNat + 2 ^ 32 * ofWords ws

/-- The little-endian bytes of a value (00 R2). -/
def bytesOf (x : Nat) : Nat → List Byte
  | 0 => []
  | n + 1 => BitVec.ofNat 8 x :: bytesOf (x / 256) n

/-- The value of little-endian bytes. -/
def ofBytes : List Byte → Nat
  | [] => 0
  | b :: bs => b.toNat + 256 * ofBytes bs

/-- The numbers `a` to `a + n - 1`. -/
def upFrom (a : Nat) : Nat → List Nat
  | 0 => []
  | n + 1 => a :: upFrom (a + 1) n

/-- The set bits of a bitmap among bits `a` to `a + n - 1`. -/
def setBitsFrom (x a n : Nat) : List Nat := (upFrom a n).filter fun i => bitAt x i

/-- The number of set bits among the low `n` bits. -/
def popCount (x : Nat) : Nat → Nat
  | 0 => 0
  | n + 1 => x % 2 + popCount (x / 2) n

end Sys2Proof
end

