-- ==== Sys2Proof/Syntax.lean ====
section
/-!
DEFINITION. The steps of the part as syntax: `Instr` has one constructor per row of spec/opcode_table.json,
the 87 events (spec/95_what_each_step_holds.md) and the 144 instructions (11 R295).
An instruction's constructor holds its operands as named things, never its raw fields; the data an event
takes from the environment (a host address, a die, which unit) are its arguments.
-/
namespace Sys2Proof

/-- A source operand code (11 R286): a queue entry by age, a frame register, or an inline immediate. -/
inductive Src where
  | q (n : Fin 16)
  | v (n : Fin 128)
  | imm (n : BitVec 6)
  deriving DecidableEq, Repr

/-- A destination code (11 R289): push only, push and write a frame register, write a predicate, no result. -/
inductive Dst where
  | push
  | reg (n : Fin 128)
  | pred (n : Fin 7)
  | nil
  deriving DecidableEq, Repr

/-- The common fields of every instruction word (11 R281). -/
structure Hdr where
  settle : Bool
  gn : Bool
  gp : BitVec 3
  hint : BitVec 4
  deriving DecidableEq, Repr

/-- A predicate selector of `plop` and `vote` (12 R319): predicate 0 to 7, and a negation. -/
structure PSel where
  p : BitVec 3
  neg : Bool
  deriving DecidableEq, Repr

/-- Operand types (11 R285). -/
inductive Ty where
  | i32 | n32 | i64 | n64 | f32 | f64 | f16x2 | bf16x2 | b32
  deriving DecidableEq, Repr

/-- The integer types of OP 0x01 and 0x04. -/
inductive IntTy where
  | i32 | n32 | i64 | n64
  deriving DecidableEq, Repr

/-- The signed types of `iabs`. -/
inductive SIntTy where
  | i32 | i64
  deriving DecidableEq, Repr

/-- The bit-pattern types of OP 0x02: b32 and n64. -/
inductive BitTy where
  | b32 | n64
  deriving DecidableEq, Repr

/-- f32 and f64. -/
inductive FTy where
  | f32 | f64
  deriving DecidableEq, Repr

/-- The packed 16-bit types. -/
inductive HTy where
  | f16x2 | bf16x2
  deriving DecidableEq, Repr

/-- f32, f64 and the packed types. -/
inductive FHTy where
  | f32 | f64 | f16x2 | bf16x2
  deriving DecidableEq, Repr

/-- The scalar types of `cvt`: codes 0 to 5. -/
inductive CTy where
  | i32 | n32 | i64 | n64 | f32 | f64
  deriving DecidableEq, Repr

/-- The lane types of `cvts` and `cvtw`. -/
inductive LTy where
  | i32 | n32 | f32
  deriving DecidableEq, Repr

/-- Rounding modes (10 R269). -/
inductive RM where
  | rne | rz | ru | rd | ro
  deriving DecidableEq, Repr

/-- Integer relations (11 R295, `isetp`). -/
inductive IRel where
  | eq | ne | lt | le | gt | ge
  deriving DecidableEq, Repr

/-- Floating-point relations (13 R346). -/
inductive FRel where
  | eq | ne | lt | le | gt | ge | unord | ord
  deriving DecidableEq, Repr

/-- Functions of `plop` (12 R319). -/
inductive PlopOp where
  | and | or | xor | andn
  deriving DecidableEq, Repr

/-- The words of `dup` (12 R320). -/
inductive DupArgs where
  | one (a : Src)
  | two (a b : Src)
  | three (a b c : Src)
  deriving DecidableEq, Repr

/-- The two types of `cvt` (13 R353), source first. -/
inductive CvtTys where
  | scalar (src dst : CTy)
  | packed (src dst : HTy)
  deriving DecidableEq, Repr

/-- Modes of `shfl` (13 R363). -/
inductive ShflMode where
  | idx | up | down | xor
  deriving DecidableEq, Repr

/-- Functions of `vote` (13 R363). -/
inductive VoteOp where
  | all | any | ballot | uni
  deriving DecidableEq, Repr

/-- Functions of `redux` with the type or rounding mode each takes (13 R363). -/
inductive ReduxOp where
  | iadd (ty : IntTy) | imin (ty : IntTy) | imax (ty : IntTy)
  | and (ty : BitTy) | or (ty : BitTy) | xor (ty : BitTy)
  | fadd (rm : RM) | fmin | fmax
  deriving DecidableEq, Repr

/-- Functions of `scan` (13 R363). -/
inductive ScanOp where
  | iadd (ty : IntTy)
  | fadd (rm : RM)
  deriving DecidableEq, Repr

/-- Access sizes of `ld` and `pref` (11 R285). -/
inductive LdSize where
  | b8 | s8 | b16 | s16 | b32 | b64 | b128
  deriving DecidableEq, Repr

/-- Access sizes of `st` (14 R379). -/
inductive StSize where
  | b8 | b16 | b32 | b64 | b128
  deriving DecidableEq, Repr

/-- Orderings of `atom` (09 R227). -/
inductive MemOrd where
  | rlx | acq | rel | ar
  deriving DecidableEq, Repr

/-- Arithmetic functions of atomics. -/
inductive AArith where
  | add | min | max
  deriving DecidableEq, Repr

/-- Bitwise functions of atomics. -/
inductive ABit where
  | and | or | xor | exch
  deriving DecidableEq, Repr

/-- Types of the atomic fadd (14 R386). -/
inductive AFTy where
  | f32 | f16x2 | bf16x2
  deriving DecidableEq, Repr

/-- Function and type of `atom` and `red` (14 R386). -/
inductive AtomOp where
  | arith (f : AArith) (ty : IntTy)
  | bitop (f : ABit) (ty : BitTy)
  | cas (ty : BitTy) (cmp : Src)
  | fadd (ty : AFTy)
  deriving DecidableEq, Repr

/-- Kinds of `fence` (14 R398). -/
inductive FenceKind where
  | acq | rel | ar | sc
  deriving DecidableEq, Repr

/-- How long the host keeps a line it reads or writes through the HDM range (02 R48). -/
inductive Hold where
  | none | clean | modified
  deriving DecidableEq, Repr

/-- The windows through which the host reaches the part (02 R45, R46). -/
inductive HostWin where
  | hdm
  | pfBar0
  | pfBar2
  | vfBar0 (vd : Nat)
  /-- the MSI-X control word in the configuration space of a function (02 R45, 03 R85, log 59) -/
  | vfMsix (vd : Nat)
  deriving DecidableEq, Repr

/-- A register that REGISTER_WRITE names: an offset of the X-die register block, or one of the three
migration-ring registers of an F-die, whose offsets the spec does not give (01, Far tier). -/
inductive RegTarget where
  | xdie (off : Nat)
  | ringBase (die : Nat)
  | ringHead (die : Nat)
  | ringTail (die : Nat)
  deriving DecidableEq, Repr

/-- What fails in each boot step, as the hardware finds it (01 R32): bit masks of dies for steps 1, 3 and 4,
of expanders for step 5, of package cobs for step 6; non-zero for failure in the others.
`prim` and `alt` list the ten steps in order; `cold` tells a cold power-up from a package reset; `cut` is the step
in which another reset ends the boot, 0 for none, and where: with the primary or the alternate method running, or just
failed (01 R34, R35); `kept` tells that the expanders were kept in self-refresh (01, The safe tier). -/
structure BootPlan where
  cold : Bool
  prim : List Nat
  alt : List Nat
  cut : Nat := 0
  cutFailed : Bool := false
  cutAlt : Bool := false
  kept : Bool := true
  deriving DecidableEq, Repr

/-- An access between devices over the scale-up ports (02 R55): bytes read or written, `w` bits from bit `lo`
of `n` bytes replaced, an atomic, a saturating counter add; writes with or without release. -/
inductive PeerAcc where
  | load (pa n : Nat)
  | store (pa : Nat) (data : List Byte) (rel : Bool)
  | bits (pa n lo w code : Nat) (rel : Bool)
  | rmw (f : AtomOp) (pa v cmp : Nat) (rel : Bool)
  | ctadd (pa v : Nat) (rel : Bool)
  deriving DecidableEq, Repr

/-- What comes back for an outstanding deferred result: the value already fixed inside the part,
the bytes a peer returned, or a failure with its cause (08 R192, 02 R56). -/
inductive Reply where
  | fixed
  | data (bytes : List Byte)
  | failed (cause : BitVec 8)
  deriving DecidableEq, Repr

/-- Sparse-reduce operators (02 R57). -/
inductive SparseOp where
  | iadd | imax | fadd | fmax
  deriving DecidableEq, Repr

/-- Who sends a sparse-reduce pair, and the virtual device it names (02 R57). -/
structure PairFrom where
  dev : Nat
  vd : Nat
  deriving DecidableEq, Repr

/-- A link health flit (02 R43): sent by the part or received, the flits replayed since the last one, the lane margins. -/
structure HealthFlit where
  out : Bool
  replays : Nat
  margins : Nat
  deriving DecidableEq, Repr

/-- The steps of the part. -/
inductive Instr where
  -- events: package and power (chapter 01, 03)
  | boot (p : BootPlan)
  | powerFailInput
  | managementCheckpointCommand
  | syncPulse (missed : Nat)
  | dieLost (die : Nat)
  | frequencyStep (die island mhz : Nat)
  | pllRelockEnd (die island : Nat)
  | powerWindowOverCap
  | pwrCapWrite (w : Nat)
  | trayPowerCap (w : Nat)
  | crossDieTimeout (agent op : Nat)
  | dieGatingStart (die : Nat)
  | gatingComplete (die : Nat)
  | gatingAbandon (die : Nat)
  | dieWakeRequest (die : Nat)
  | wakeComplete (die : Nat)
  | move (die : Nat)
  | migrationPhase2 (die slot : Nat)
  | migrationComplete (die slot : Nat)
  -- events: links and the host (chapter 02)
  | olkLinkDown
  | managementCommandFlit (cmd : Nat)
  | linkHealthFlit (flit : HealthFlit)
  | reservedSidebandFlit (cls : Nat)
  | hostRead (win : HostWin) (off n : Nat) (hold : Hold)
  | hostWrite (win : HostWin) (off : Nat) (data : List Byte)
  | hostLockedOperation (off : Nat) (f : AtomOp) (v cmp : Nat)
  | bisnpResponse (line : Nat) (data : Option (List Byte))
  | bisnpResend (line : Nat)
  | bisnpTimeout (line : Nat)
  | portTrained (port dev : Nat)
  | portStateChange (port st : Nat)
  | remoteAccessArrival (dev vd : Nat) (acc : PeerAcc)
  | remoteRequestTimeout (agent op : Nat)
  | sparseReducePairArrival (src : PairFrom) (pa n : Nat) (op : SparseOp) (idx : Nat) (val : Word)
  -- events: partitions and submission (chapter 03)
  | create
  | resize
  | resizeComplete (vd : Nat)
  | destroy
  | destroyComplete (vd : Nat)
  | deschedule
  | descheduleSaved (vd : Nat)
  | schedule
  | setreg
  | granuleZeroed (g : Nat)
  | kick (vd off size value : Nat)
  | streamFetch (vd stream : Nat)
  | marginCobLend (cob vd : Nat)
  | revocation (cob : Nat)
  | revocationReturn (cob : Nat)
  | regulatorWindow
  -- events: format images and code objects (chapters 04, 05)
  | register
  | retire
  | drainComplete (vd ctx slot : Nat)
  | drainTimeout (vd ctx slot : Nat)
  | planeLoad (cob image : Nat)
  | planeLoadComplete (cob image : Nat)
  | attestationRequest
  | attestationKeyGeneration
  | load
  | unload
  -- events: scheduling (chapter 06)
  | placementPass (vd : Nat)
  | blockingGridTimeout (grid : Nat)
  | childWaitSwap (team : Nat)
  | launchEnd (grid : Nat)
  | issueCycle (die island : Nat)
  | sliceCycleLimit (vd ctx cob : Nat)
  | sliceWallLimit (vd ctx cob : Nat)
  | watchdogExpiry (grid : Nat)
  -- events: results, traps, pre-emption, frames (chapters 07, 08)
  | deferredResultReturn (agent op : Nat) (r : Reply)
  | trapEntry (agent : Nat)
  | preemptionRequest (vd ctx cob : Nat)
  | preemptionBudgetEnd (vd ctx cob : Nat)
  | saveComplete (vd ctx cob : Nat)
  | frameGrant (agent : Nat)
  | frameSpillEscape (agent : Nat)
  | migrateTransfer (agent : Nat)
  | invGo
  | shootdownComplete
  -- events: memory model, tiles, engines, debug
  | scopeUpdateEffect (vd ctx entry : Nat)
  | ctwaitTimeout (agent : Nat)
  | rejoinTimeout (agent : Nat)
  | tileGranuleGrant (cob : Nat)
  | matrixEntryStart (agent array : Nat)
  | matrixEntryComplete (agent : Nat)
  | copyElement (copy : Nat)
  | copyRequestComplete (copy : Nat)
  | debugRegisterRead (core pip lane reg : Nat)
  | registerWrite (t : RegTarget) (v : Nat)
  -- instructions: integer (chapter 12)
  | nop (h : Hdr)
  | iadd (h : Hdr) (ty : IntTy) (sat : Bool) (a b : Src) (d : Dst)
  | isub (h : Hdr) (ty : IntTy) (sat : Bool) (a b : Src) (d : Dst)
  | imul (h : Hdr) (ty : IntTy) (sat : Bool) (a b : Src) (d : Dst)
  | imulhi (h : Hdr) (ty : IntTy) (a b : Src) (d : Dst)
  | imad (h : Hdr) (ty : IntTy) (sat : Bool) (a b c : Src) (d : Dst)
  | imin (h : Hdr) (ty : IntTy) (a b : Src) (d : Dst)
  | imax (h : Hdr) (ty : IntTy) (a b : Src) (d : Dst)
  | iabs (h : Hdr) (ty : SIntTy) (sat : Bool) (a : Src) (d : Dst)
  | idiv (h : Hdr) (ty : IntTy) (a b : Src) (d : Dst)
  | irem (h : Hdr) (ty : IntTy) (a b : Src) (d : Dst)
  | and (h : Hdr) (ty : BitTy) (a b : Src) (d : Dst)
  | or (h : Hdr) (ty : BitTy) (a b : Src) (d : Dst)
  | xor (h : Hdr) (ty : BitTy) (a b : Src) (d : Dst)
  | not (h : Hdr) (ty : BitTy) (a : Src) (d : Dst)
  | shl (h : Hdr) (ty : BitTy) (a b : Src) (d : Dst)
  | shr (h : Hdr) (ty : BitTy) (a b : Src) (d : Dst)
  | sar (h : Hdr) (ty : BitTy) (a b : Src) (d : Dst)
  | rotl (h : Hdr) (ty : BitTy) (a b : Src) (d : Dst)
  | popc (h : Hdr) (ty : BitTy) (a : Src) (d : Dst)
  | clz (h : Hdr) (ty : BitTy) (a : Src) (d : Dst)
  | brev (h : Hdr) (ty : BitTy) (a : Src) (d : Dst)
  | bfe (h : Hdr) (ty : BitTy) (sx : Bool) (a b : Src) (d : Dst)
  | bfi (h : Hdr) (ty : BitTy) (a b c : Src) (d : Dst)
  | lea (h : Hdr) (shift : Fin 9) (signed : Bool) (a b : Src) (d : Dst)
  | isetp (h : Hdr) (rel : IRel) (ty : IntTy) (a b : Src) (d : Dst)
  | sel (h : Hdr) (ty : Ty) (p : PSel) (a b : Src) (d : Dst)
  | plop (h : Hdr) (op : PlopOp) (x y : PSel) (d : Dst)
  | mov (h : Hdr) (ty : Ty) (a : Src) (d : Dst)
  | dup (h : Hdr) (ws : DupArgs) (d : Dst)
  | movi (h : Hdr) (imm : Word) (d : Dst)
  | addi (h : Hdr) (a : Src) (imm : Word) (d : Dst)
  | movh (h : Hdr) (a : Src) (imm : Word) (d : Dst)
  | getsr (h : Hdr) (i : Fin 32) (d : Dst)
  | setsr (h : Hdr) (i : Fin 32) (a : Src)
  | ridx (h : Hdr) (a : Src) (imm : Word) (d : Dst)
  | widx (h : Hdr) (a x : Src)
  -- instructions: floating point, conversion, cross-lane (chapter 13)
  | fadd (h : Hdr) (rm : RM) (a b : Src) (d : Dst)
  | fsub (h : Hdr) (rm : RM) (a b : Src) (d : Dst)
  | fmul (h : Hdr) (rm : RM) (a b : Src) (d : Dst)
  | ffma (h : Hdr) (rm : RM) (a b c : Src) (d : Dst)
  | fmin (h : Hdr) (ty : FHTy) (a b : Src) (d : Dst)
  | fmax (h : Hdr) (ty : FHTy) (a b : Src) (d : Dst)
  | fsetp (h : Hdr) (rel : FRel) (a b : Src) (d : Dst)
  | fclass (h : Hdr) (ty : FTy) (a : Src) (d : Dst)
  | frnd (h : Hdr) (ty : FTy) (rm : RM) (a : Src) (d : Dst)
  | fabs (h : Hdr) (ty : FHTy) (a : Src) (d : Dst)
  | fneg (h : Hdr) (ty : FHTy) (a : Src) (d : Dst)
  | fcopysign (h : Hdr) (ty : FHTy) (a b : Src) (d : Dst)
  | fscale (h : Hdr) (ty : FTy) (rm : RM) (a b : Src) (d : Dst)
  | fgetexp (h : Hdr) (ty : FTy) (a : Src) (d : Dst)
  | fgetman (h : Hdr) (ty : FTy) (a : Src) (d : Dst)
  | dadd (h : Hdr) (rm : RM) (a b : Src) (d : Dst)
  | dmul (h : Hdr) (rm : RM) (a b : Src) (d : Dst)
  | dfma (h : Hdr) (rm : RM) (a b c : Src) (d : Dst)
  | dsetp (h : Hdr) (rel : FRel) (a b : Src) (d : Dst)
  | hadd2 (h : Hdr) (ty : HTy) (rm : RM) (a b : Src) (d : Dst)
  | hmul2 (h : Hdr) (ty : HTy) (rm : RM) (a b : Src) (d : Dst)
  | hfma2 (h : Hdr) (ty : HTy) (rm : RM) (a b c : Src) (d : Dst)
  | frcp (h : Hdr) (a : Src) (d : Dst)
  | frsq (h : Hdr) (a : Src) (d : Dst)
  | fsqrt (h : Hdr) (a : Src) (d : Dst)
  | flog2 (h : Hdr) (a : Src) (d : Dst)
  | fexp2 (h : Hdr) (a : Src) (d : Dst)
  | exp2s (h : Hdr) (a b c : Src) (d : Dst)
  | fsin (h : Hdr) (a : Src) (d : Dst)
  | fcos (h : Hdr) (a : Src) (d : Dst)
  | ftanh (h : Hdr) (a : Src) (d : Dst)
  | cvt (h : Hdr) (tys : CvtTys) (rm : RM) (sat : Bool) (a : Src) (d : Dst)
  | cvts (h : Hdr) (slot : Fin 16) (ty : LTy) (rm : RM) (sat : Bool) (a : Src) (k : Option Src) (d : Dst)
  | cvtw (h : Hdr) (slot : Fin 16) (ty : LTy) (rm : RM) (sat : Bool) (a : Src) (k : Option Src) (d : Dst)
  | pack (h : Hdr) (ty : HTy) (rm : RM) (a b : Src) (d : Dst)
  | unpk (h : Hdr) (ty : HTy) (a : Src) (d : Dst)
  | shfl (h : Hdr) (mode : ShflMode) (ty : BitTy) (rp : BitVec 3) (a fill ctl : Src) (d : Dst)
  | vote (h : Hdr) (op : VoteOp) (rp : BitVec 3) (p : PSel) (fill : Bool) (ctl : Src) (d : Dst)
  | matchLanes (h : Hdr) (ty : BitTy) (rp : BitVec 3) (a fill ctl : Src) (d : Dst)
  | redux (h : Hdr) (op : ReduxOp) (rp : BitVec 3) (a fill ctl : Src) (d : Dst)
  | scan (h : Hdr) (op : ScanOp) (rp : BitVec 3) (excl : Bool) (a fill ctl : Src) (d : Dst)
  | enrol (h : Hdr) (j : Fin 4)
  | rejoin (h : Hdr) (j : Fin 4)
  | groupq (h : Hdr) (g : Fin 5) (d : Dst)
  -- instructions: memory, atomics, counters, barriers, fences, scopes (chapter 14)
  | ld (h : Hdr) (sz : LdSize) (ofs : BitVec 12) (sk : BitVec 6) (acq : Bool) (a : Src) (d : Dst)
  | st (h : Hdr) (sz : StSize) (ofs : BitVec 12) (sk : BitVec 6) (rel : Bool) (a b : Src)
  | ldx (h : Hdr) (slot : Fin 16) (ofs : BitVec 12) (sk : BitVec 6) (acq : Bool) (a : Src) (d : Dst)
  | stx (h : Hdr) (slot : Fin 16) (ofs : BitVec 12) (sk : BitVec 6) (rel : Bool) (a b : Src)
  | pref (h : Hdr) (sz : LdSize) (ofs : BitVec 12) (sk : BitVec 6) (a : Src)
  | atom (h : Hdr) (f : AtomOp) (sk : BitVec 6) (od : MemOrd) (a b : Src) (d : Dst)
  | red (h : Hdr) (f : AtomOp) (sk : BitVec 6) (rel : Bool) (a b : Src)
  | ctadd (h : Hdr) (sk : BitVec 6) (rel : Bool) (a b : Src)
  | ctwait (h : Hdr) (sk : BitVec 6) (timeout : Option Src) (a b : Src) (d : Dst)
  | ctrd (h : Hdr) (sk : BitVec 6) (acq : Bool) (a : Src) (d : Dst)
  | barInit (h : Hdr) (a b : Src)
  | barExpect (h : Hdr) (a b : Src)
  | barArrive (h : Hdr) (sk : BitVec 6) (a : Src) (d : Dst)
  | barArrivex (h : Hdr) (sk : BitVec 6) (a b : Src) (d : Dst)
  | barPhase (h : Hdr) (a : Src) (d : Dst)
  | fence (h : Hdr) (kind : FenceKind) (sk : BitVec 6)
  | scopew (h : Hdr) (sk : BitVec 6) (a : Src) (d : Dst)
  | scoper (h : Hdr) (sk : BitVec 6) (a : Src) (d : Dst)
  | icinv (h : Hdr) (sk : BitVec 6) (a b : Src)
  | ipref (h : Hdr) (l1 : Bool) (a b : Src)
  | ipin (h : Hdr) (l1 : Bool) (a b : Src)
  | irel (h : Hdr) (l1 : Bool) (a b : Src)
  | cwb (h : Hdr) (l1 : Bool) (a b : Src)
  -- instructions: control (chapters 11, 12)
  | bra (h : Hdr) (off : Word)
  | brx (h : Hdr) (a : Src) (off : Word)
  | call (h : Hdr) (dem : Fin 16) (land : Option Src) (off : Word)
  | callx (h : Hdr) (dem : Fin 16) (a : Src) (land : Option Word)
  | ret (h : Hdr)
  | unwind (h : Hdr)
  | loop (h : Hdr) (n : Src) (off : BitVec 31)
  | lbrk (h : Hdr) (k : Fin 4)
  | exit (h : Hdr)
  | yield (h : Hdr)
  | macroOp (h : Hdr) (idx : BitVec 8) (p0 p1 p2 : Src)
  | trap (h : Hdr) (code : BitVec 8)
  | rtt (h : Hdr)
  | bkpt (h : Hdr) (code : BitVec 8)
  | frq (h : Hdr) (dem : Fin 17) (d : Dst)
  -- instructions: system and engines (chapters 14, 15)
  | migrate (h : Hdr) (a : Src)
  | launch (h : Hdr) (a : Src)
  | cpyk (h : Hdr) (a : Src)
  | cprepl (h : Hdr) (a : Src)
  | fmtbind (h : Hdr) (slot : Fin 16) (a : Src) (d : Dst)
  | fmtq (h : Hdr) (slot : Fin 16) (d : Dst)
  | fmtfence (h : Hdr)
  | psave (h : Hdr) (a : Src)
  -- instructions: tiles (chapter 15)
  | talloc (h : Hdr) (hd : BitVec 8) (fa : Fin 16) (a : Src)
  | trel (h : Hdr) (hd : BitVec 8)
  | thand (h : Hdr) (hd : BitVec 8) (a : Src)
  | twr (h : Hdr) (hd : BitVec 8) (a : Src)
  | trd (h : Hdr) (hd : BitVec 8) (a : Src)
  | tzero (h : Hdr) (hd : BitVec 8)
  | mma (h : Hdr) (hd ha hb : BitVec 8) (fa fb fc : Fin 16) (rm : RM)
  | tcvt (h : Hdr) (hd ha : BitVec 8) (fa fb : Fin 16) (rm : RM) (sat : Bool) (a : Src)
  | thad (h : Hdr) (hd : BitVec 8) (a : Src)
  | ttr (h : Hdr) (hd ha : BitVec 8) (a : Src)
  | tld (h : Hdr) (hd : BitVec 8) (fa : Fin 16) (a : Src)
  | tst (h : Hdr) (hd : BitVec 8) (fa : Fin 16) (a : Src)
  | tldw (h : Hdr) (hd : BitVec 8) (fa : Fin 16) (a : Src)
  | twait (h : Hdr) (hd : BitVec 8)
  | tq (h : Hdr) (hd : BitVec 8)
  -- the sequencer's choice of a context
  | sequencerIssue (cob : Nat)
  deriving DecidableEq, Repr

end Sys2Proof
end

