-- ==== Sys2Proof/WellFormed.lean ====
section
/-!
DEFINITION. Which terms of `Instr` are well formed: a source read at 64 or 128 bits names a legal pair or
quad (11 R288, 08 R190), a destination is one the instruction may have (11 R289), and an event names units
the part has (01 R9, 03 R61).
-/
namespace Sys2Proof

/-- The width in bits of each operand type (12 R310). -/
def Ty.width : Ty → Nat
  | .i64 | .n64 | .f64 => 64
  | _ => 32
def IntTy.width : IntTy → Nat
  | .i64 | .n64 => 64
  | _ => 32
def SIntTy.width : SIntTy → Nat
  | .i64 => 64
  | .i32 => 32
def BitTy.width : BitTy → Nat
  | .n64 => 64
  | .b32 => 32
def FTy.width : FTy → Nat
  | .f64 => 64
  | .f32 => 32
def FHTy.width : FHTy → Nat
  | .f64 => 64
  | _ => 32
def CTy.width : CTy → Nat
  | .i64 | .n64 | .f64 => 64
  | _ => 32

/-- Bytes of an access (14 R378). -/
def LdSize.bytes : LdSize → Nat
  | .b8 | .s8 => 1
  | .b16 | .s16 => 2
  | .b32 => 4
  | .b64 => 8
  | .b128 => 16
def StSize.bytes : StSize → Nat
  | .b8 => 1
  | .b16 => 2
  | .b32 => 4
  | .b64 => 8
  | .b128 => 16
/-- The result width of a load: a b8 to b32 load fills one word (14 R378). -/
def LdSize.width : LdSize → Nat
  | .b64 => 64
  | .b128 => 128
  | _ => 32
/-- The width at which `st` reads its data (14 R379). -/
def StSize.width : StSize → Nat
  | .b64 => 64
  | .b128 => 128
  | _ => 32

/-- The width of an atomic's operand (14 R386). -/
def AtomOp.width : AtomOp → Nat
  | .arith _ ty => ty.width
  | .bitop _ ty => ty.width
  | .cas ty _ => ty.width
  | .fadd _ => 32

/-- The width of a `redux` or `scan` (13 R363). -/
def ReduxOp.width : ReduxOp → Nat
  | .iadd ty | .imin ty | .imax ty => ty.width
  | .and ty | .or ty | .xor ty => ty.width
  | .fadd _ | .fmin | .fmax => 32
def ScanOp.width : ScanOp → Nat
  | .iadd ty => ty.width
  | .fadd _ => 32

/-- The widths of the two types of `cvt`. -/
def CvtTys.srcWidth : CvtTys → Nat
  | .scalar s _ => s.width
  | .packed _ _ => 32
def CvtTys.dstWidth : CvtTys → Nat
  | .scalar _ d => d.width
  | .packed _ _ => 32

/-- A source code that may be read at width `w` (08 R190, 11 R288). -/
def Src.okAt (s : Src) (w : Nat) : Bool :=
  match s with
  | .imm _ => true
  | .q n => if w = 64 then n.val ≤ 14 else if w = 128 then n.val ≤ 12 else true
  | .v n => if w = 64 then n.val % 2 == 0 else if w = 128 then n.val % 4 == 0 else true

/-- A destination of a result of width `w`; `p` tells whether the instruction produces a predicate
(11 R289, 08 R190). -/
def Dst.okAt (d : Dst) (w : Nat) (p : Bool) : Bool :=
  match d with
  | .push | .nil => true
  | .reg n => if w = 64 then n.val % 2 == 0 else if w = 128 then n.val % 4 == 0 else true
  | .pred _ => p

def DupArgs.toList : DupArgs → List Src
  | .one a => [a]
  | .two a b => [a, b]
  | .three a b c => [a, b, c]

/-- The demand of `call` number `k`: 8 to 128 in multiples of 8 (08 R196). -/
def demandOf (k : Fin 16) : Nat := 8 * (k.val + 1)

/-- Numbers of units of the part (00 R1, 01 R9 to R11, 03 R61). -/
def nDies : Nat := 12
def nCobs : Nat := 288
def nCores : Nat := 1152
def nVds : Nat := 64
def nCtx : Nat := 16
def nExpanders : Nat := 24
def nPorts : Nat := 36
def nImages : Nat := 1024
def nStreams : Nat := 64

def AtomOp.ok : AtomOp → Bool
  | .cas ty c => c.okAt ty.width
  | _ => true

/-- The well-formed instructions. -/
def Instr.wf : Instr → Bool
  | .boot p => p.prim.length == 10 && p.alt.length == 10
  | .powerFailInput | .managementCheckpointCommand | .powerWindowOverCap | .olkLinkDown => true
  | .syncPulse m => m < 2 ^ nDies
  | .dieLost d => d < nDies
  | .frequencyStep d i f => d < nDies && i < 2 && f % 100 == 0 && 600 ≤ f && f ≤ 2400
  | .pllRelockEnd d i => d < nDies && i < 2
  | .pwrCapWrite w | .trayPowerCap w => w < 65536
  | .crossDieTimeout _ _ => true
  | .dieGatingStart d | .gatingComplete d | .gatingAbandon d | .dieWakeRequest d | .wakeComplete d => d < nDies
  | .move d => 8 ≤ d && d < nDies
  | .migrationPhase2 d _ | .migrationComplete d _ => 8 ≤ d && d < nDies
  | .managementCommandFlit _ | .linkHealthFlit _ => true
  | .reservedSidebandFlit c => 4 ≤ c && c ≤ 15
  | .hostRead _ _ n _ => 1 ≤ n && n ≤ 128
  | .hostWrite _ _ data => 1 ≤ data.length && data.length ≤ 128
  | .hostLockedOperation off f _ _ => off % (f.width / 8) == 0 && f.ok
  | .bisnpResponse l _ | .bisnpResend l | .bisnpTimeout l => l % 128 == 0
  | .portTrained p dev => p < nPorts && dev < 256
  | .portStateChange p v => p < nPorts && v < 4
  | .remoteAccessArrival dev vd _ => dev < 256 && vd < nVds
  | .remoteRequestTimeout _ _ => true
  | .sparseReducePairArrival src _ _ _ _ _ => src.dev < 256 && src.vd < nVds
  | .create | .resize | .destroy | .deschedule | .schedule | .setreg => true
  | .resizeComplete vd | .destroyComplete vd | .descheduleSaved vd => vd < nVds
  | .granuleZeroed g => g < 1024 + 9216
  | .kick vd off size _ => vd < nVds && off < 4096 && 1 ≤ size && size ≤ 8
  | .streamFetch vd s => vd < nVds && s < nStreams
  | .marginCobLend c vd => c < nCobs && vd < nVds
  | .revocation c | .revocationReturn c => c < nCobs
  | .regulatorWindow => true
  | .register | .retire => true
  | .drainComplete vd c s | .drainTimeout vd c s => vd < nVds && c < nCtx && s < 16
  | .planeLoad c i | .planeLoadComplete c i => c < nCobs && i < nImages
  | .attestationRequest | .attestationKeyGeneration | .load | .unload => true
  | .placementPass vd => vd < nVds
  | .blockingGridTimeout _ | .childWaitSwap _ | .launchEnd _ => true
  | .issueCycle d i => d < nDies && i < 2
  | .sliceCycleLimit vd c b | .sliceWallLimit vd c b => vd < nVds && c < nCtx && b < nCobs
  | .watchdogExpiry _ => true
  | .deferredResultReturn _ _ _ | .trapEntry _ => true
  | .preemptionRequest vd c b | .preemptionBudgetEnd vd c b | .saveComplete vd c b =>
      vd < nVds && c < nCtx && b < nCobs
  | .frameGrant _ | .frameSpillEscape _ | .migrateTransfer _ => true
  | .invGo | .shootdownComplete => true
  | .scopeUpdateEffect vd c e => vd < nVds && c < nCtx && 8 ≤ e && e < 64
  | .ctwaitTimeout _ | .rejoinTimeout _ => true
  | .tileGranuleGrant c => c < nCobs
  | .matrixEntryStart _ a => a < 2
  | .matrixEntryComplete _ | .copyElement _ | .copyRequestComplete _ => true
  | .debugRegisterRead c p l r => c < nCores && p < 4 && l < 16 && r < 1152
  | .registerWrite _ _ => true
  | .sequencerIssue c => c < nCobs
  | .nop _ => true
  | .iadd _ ty _ a b d | .isub _ ty _ a b d | .imul _ ty _ a b d =>
      a.okAt ty.width && b.okAt ty.width && d.okAt ty.width false
  | .imulhi _ ty a b d | .imin _ ty a b d | .imax _ ty a b d | .idiv _ ty a b d | .irem _ ty a b d =>
      a.okAt ty.width && b.okAt ty.width && d.okAt ty.width false
  | .imad _ ty _ a b c d => a.okAt ty.width && b.okAt ty.width && c.okAt ty.width && d.okAt ty.width false
  | .iabs _ ty _ a d => a.okAt ty.width && d.okAt ty.width false
  | .and _ ty a b d | .or _ ty a b d | .xor _ ty a b d =>
      a.okAt ty.width && b.okAt ty.width && d.okAt ty.width false
  | .not _ ty a d => a.okAt ty.width && d.okAt ty.width false
  | .shl _ ty a _ d | .shr _ ty a _ d | .sar _ ty a _ d | .rotl _ ty a _ d =>
      a.okAt ty.width && d.okAt ty.width false
  | .popc _ ty a d | .clz _ ty a d => a.okAt ty.width && d.okAt 32 false
  | .brev _ ty a d => a.okAt ty.width && d.okAt ty.width false
  | .bfe _ ty _ a _ d => a.okAt ty.width && d.okAt ty.width false
  | .bfi _ ty a b _ d => a.okAt ty.width && b.okAt ty.width && d.okAt ty.width false
  | .lea _ _ _ a _ d => a.okAt 64 && d.okAt 64 false
  | .isetp _ _ ty a b d => a.okAt ty.width && b.okAt ty.width && d.okAt 32 true
  | .sel _ ty _ a b d => a.okAt ty.width && b.okAt ty.width && d.okAt ty.width false
  | .plop _ _ _ _ d => d.okAt 32 true
  | .mov _ ty a d => a.okAt ty.width && d.okAt ty.width false
  | .dup _ _ d => d.okAt 32 false
  | .movi _ _ d => d.okAt 32 false
  | .addi _ _ _ d => d.okAt 32 false
  | .movh _ _ _ d => d.okAt 64 false
  | .getsr _ i d => d.okAt (if i.val ∈ [16, 17, 18, 19, 22, 23, 30, 31] then 64 else 32) false
  | .setsr _ i a => a.okAt (if i.val ∈ [16, 17, 18, 19, 22, 23, 30, 31] then 64 else 32)
  | .ridx _ _ _ d => d.okAt 32 false
  | .widx _ _ _ => true
  | .fadd _ _ _ _ d | .fsub _ _ _ _ d | .fmul _ _ _ _ d => d.okAt 32 false
  | .ffma _ _ _ _ _ d => d.okAt 32 false
  | .fmin _ ty a b d | .fmax _ ty a b d => a.okAt ty.width && b.okAt ty.width && d.okAt ty.width false
  | .fsetp _ _ _ _ d => d.okAt 32 true
  | .fclass _ ty a d => a.okAt ty.width && d.okAt 32 false
  | .frnd _ ty _ a d => a.okAt ty.width && d.okAt ty.width false
  | .fabs _ ty a d | .fneg _ ty a d => a.okAt ty.width && d.okAt ty.width false
  | .fcopysign _ ty a b d => a.okAt ty.width && b.okAt ty.width && d.okAt ty.width false
  | .fscale _ ty _ a _ d => a.okAt ty.width && d.okAt ty.width false
  | .fgetexp _ ty a d => a.okAt ty.width && d.okAt 32 false
  | .fgetman _ ty a d => a.okAt ty.width && d.okAt ty.width false
  | .dadd _ _ a b d | .dmul _ _ a b d => a.okAt 64 && b.okAt 64 && d.okAt 64 false
  | .dfma _ _ a b c d => a.okAt 64 && b.okAt 64 && c.okAt 64 && d.okAt 64 false
  | .dsetp _ _ a b d => a.okAt 64 && b.okAt 64 && d.okAt 32 true
  | .hadd2 _ _ _ _ _ d | .hmul2 _ _ _ _ _ d => d.okAt 32 false
  | .hfma2 _ _ _ _ _ _ d => d.okAt 32 false
  | .frcp _ _ d | .frsq _ _ d | .fsqrt _ _ d | .flog2 _ _ d | .fexp2 _ _ d => d.okAt 32 false
  | .exp2s _ _ _ _ d => d.okAt 32 false
  | .fsin _ _ d | .fcos _ _ d | .ftanh _ _ d => d.okAt 32 false
  | .cvt _ tys _ _ a d => a.okAt tys.srcWidth && d.okAt tys.dstWidth false
  | .cvts _ _ _ _ _ _ _ d | .cvtw _ _ _ _ _ _ _ d => d.okAt 32 false
  | .pack _ _ _ _ _ d => d.okAt 32 false
  | .unpk _ _ _ d => d.okAt 64 false
  | .shfl _ _ ty _ a f _ d => a.okAt ty.width && f.okAt ty.width && d.okAt ty.width false
  | .vote _ op _ _ _ _ d => d.okAt 32 (op != .ballot)
  | .matchLanes _ ty _ a f _ d => a.okAt ty.width && f.okAt ty.width && d.okAt 32 false
  | .redux _ op _ a f _ d => a.okAt op.width && f.okAt op.width && d.okAt op.width false
  | .scan _ op _ _ a f _ d => a.okAt op.width && f.okAt op.width && d.okAt op.width false
  | .enrol _ _ | .rejoin _ _ => true
  | .groupq _ _ d => d == .push
  | .ld _ sz _ _ _ a d => a.okAt 64 && d.okAt sz.width false
  | .st _ sz _ _ _ a b => a.okAt 64 && b.okAt sz.width
  | .ldx _ _ _ _ _ a d => a.okAt 64 && d.okAt 32 false
  | .stx _ _ _ _ _ a _ => a.okAt 64
  | .pref _ _ _ _ a => a.okAt 64
  | .atom _ f _ _ a b d => a.okAt 64 && b.okAt f.width && f.ok && d.okAt f.width false
  | .red _ f _ _ a b => a.okAt 64 && b.okAt f.width && f.ok
  | .ctadd _ _ _ a b => a.okAt 64 && b.okAt 64
  | .ctwait _ _ _ a b d => a.okAt 64 && b.okAt 64 && d.okAt 64 false
  | .ctrd _ _ _ a d => a.okAt 64 && d.okAt 64 false
  | .barInit _ a _ | .barExpect _ a _ => a.okAt 64
  | .barArrive _ _ a d => a.okAt 64 && d.okAt 64 false
  | .barArrivex _ _ a _ d => a.okAt 64 && d.okAt 64 false
  | .barPhase _ a d => a.okAt 64 && d.okAt 64 false
  | .fence _ _ _ => true
  | .scopew _ _ a d | .scoper _ _ a d => a.okAt 64 && d.okAt 32 false
  | .icinv _ _ a _ | .ipref _ _ a _ | .ipin _ _ a _ | .irel _ _ a _ | .cwb _ _ a _ => a.okAt 64
  | .bra _ _ => true
  | .brx _ a _ => a.okAt 64
  | .call _ _ _ _ => true
  | .callx _ _ a _ => a.okAt 64
  | .ret _ | .unwind _ | .loop _ _ _ | .lbrk _ _ | .exit _ | .yield _ | .macroOp _ _ _ _ _ => true
  | .trap _ _ | .rtt _ | .bkpt _ _ => true
  | .frq _ _ d => d.okAt 32 false
  | .migrate _ a | .launch _ a | .cpyk _ a | .cprepl _ a => a.okAt 64
  | .fmtbind _ _ _ d => d.okAt 32 false
  | .fmtq _ _ d => d.okAt 32 false
  | .fmtfence _ | .psave _ _ => true
  | .talloc _ _ _ _ | .trel _ _ | .thand _ _ _ => true
  | .twr _ _ a => a.okAt 64
  | .trd _ _ _ | .tzero _ _ | .mma _ _ _ _ _ _ _ _ | .tcvt _ _ _ _ _ _ _ _ => true
  | .thad _ _ a => a.okAt 64
  | .ttr _ _ _ _ => true
  | .tld _ _ _ a | .tst _ _ _ a | .tldw _ _ _ a => a.okAt 64
  | .twait _ _ | .tq _ _ => true

/-- The instruction is an event, not an instruction word. -/
def Instr.isEvent : Instr → Bool
  | .boot _ | .powerFailInput | .managementCheckpointCommand | .syncPulse _ | .dieLost _
  | .frequencyStep _ _ _ | .pllRelockEnd _ _ | .powerWindowOverCap | .pwrCapWrite _ | .trayPowerCap _
  | .crossDieTimeout _ _ | .dieGatingStart _ | .gatingComplete _ | .gatingAbandon _ | .dieWakeRequest _
  | .wakeComplete _ | .move _ | .migrationPhase2 _ _ | .migrationComplete _ _ | .olkLinkDown
  | .managementCommandFlit _ | .linkHealthFlit _ | .reservedSidebandFlit _ | .hostRead _ _ _ _
  | .hostWrite _ _ _ | .hostLockedOperation _ _ _ _ | .bisnpResponse _ _ | .bisnpResend _ | .bisnpTimeout _
  | .portTrained _ _ | .portStateChange _ _ | .remoteAccessArrival _ _ _ | .remoteRequestTimeout _ _
  | .sparseReducePairArrival _ _ _ _ _ _ | .create | .resize | .resizeComplete _ | .destroy
  | .destroyComplete _ | .deschedule | .descheduleSaved _ | .schedule | .setreg | .granuleZeroed _
  | .kick _ _ _ _ | .streamFetch _ _ | .marginCobLend _ _ | .revocation _ | .revocationReturn _
  | .regulatorWindow | .register | .retire | .drainComplete _ _ _ | .drainTimeout _ _ _ | .planeLoad _ _
  | .planeLoadComplete _ _ | .attestationRequest | .attestationKeyGeneration | .load | .unload
  | .placementPass _ | .blockingGridTimeout _ | .childWaitSwap _ | .launchEnd _ | .issueCycle _ _
  | .sliceCycleLimit _ _ _ | .sliceWallLimit _ _ _ | .watchdogExpiry _ | .deferredResultReturn _ _ _
  | .trapEntry _ | .preemptionRequest _ _ _ | .preemptionBudgetEnd _ _ _ | .saveComplete _ _ _
  | .frameGrant _ | .frameSpillEscape _ | .migrateTransfer _ | .invGo | .shootdownComplete
  | .scopeUpdateEffect _ _ _ | .ctwaitTimeout _ | .rejoinTimeout _ | .tileGranuleGrant _
  | .matrixEntryStart _ _ | .matrixEntryComplete _ | .copyElement _ | .copyRequestComplete _
  | .debugRegisterRead _ _ _ _ | .registerWrite _ _ | .sequencerIssue _ => true
  | _ => false

end Sys2Proof
end

