-- ==== Sys2Proof/Decode.lean ====
section
/-!
DEFINITION. Decoding and encoding of instruction words (chapter 11: R281, R284 to R291, R295; the fields of
each instruction in chapters 12 to 15).
`decode` is total on 64-bit words and rejects by name: `illegal` is trap 0x01 (steps 1 and 2 of R290) and
`operand` is trap 0x02 (step 3); every 0x01 check of a word is made before its first 0x02 check.
`encode` is written from the same tables.
-/
namespace Sys2Proof

/-- What decoding a word gives: an instruction, or the cause of the trap it takes. -/
inductive Dec (α : Type) where
  | ok (a : α)
  | illegal
  | operand
  deriving DecidableEq, Repr

/-- A check of step 2 of R290: failing it is trap 0x01. -/
def need (b : Bool) (k : Dec Instr) : Dec Instr := if b then k else .illegal

/-- A field holding one of a closed set of values: any other value is trap 0x01. -/
def withVal {α : Type} (o : Option α) (k : α → Dec Instr) : Dec Instr :=
  match o with
  | some a => k a
  | none => .illegal

/-- Every field of the list is unused and zero (R291). -/
def zeros (l : List Nat) : Bool := l.all fun n => n == 0

/-- The operand of a source code (R286); 0x90 to 0xBF name none. -/
def srcOf (c : Nat) : Option Src :=
  if h : c < 16 then some (.q ⟨c, h⟩)
  else if h : 16 ≤ c ∧ c < 144 then some (.v ⟨c - 16, by omega⟩)
  else if 192 ≤ c ∧ c < 256 then some (.imm (BitVec.ofNat 6 (c - 192)))
  else none

/-- The code of a source (R286). -/
def Src.code : Src → Nat
  | .q n => n.val
  | .v n => 16 + n.val
  | .imm n => 192 + n.toNat

/-- The destination of a DST code (R289). -/
def dstOf (c : Nat) : Option Dst :=
  if c = 0 then some .push
  else if h : 16 ≤ c ∧ c < 144 then some (.reg ⟨c - 16, by omega⟩)
  else if h : 240 ≤ c ∧ c < 247 then some (.pred ⟨c - 240, by omega⟩)
  else if c = 255 then some .nil
  else none

/-- The code of a destination (R289). -/
def Dst.code : Dst → Nat
  | .push => 0
  | .reg n => 16 + n.val
  | .pred n => 240 + n.val
  | .nil => 255

/-- A source read at width `w`: a reserved code or a bad pair is trap 0x02 (R288). -/
def withSrc (c w : Nat) (k : Src → Dec Instr) : Dec Instr :=
  match srcOf c with
  | some s => if s.okAt w then k s else .operand
  | none => .operand

/-- A destination for a result of width `w`: a code not allowed is trap 0x02 (R289). -/
def withDst (c w : Nat) (p : Bool) (k : Dst → Dec Instr) : Dec Instr :=
  match dstOf c with
  | some d => if d.okAt w p then k d else .operand
  | none => .operand

/-- A predicate selector (12 R319): bits [7:4] non-zero are trap 0x01. -/
def pselOf (c : Nat) : Option PSel :=
  if c < 16 then some ⟨BitVec.ofNat 3 c, bitAt c 3⟩ else none
def PSel.code (p : PSel) : Nat := p.p.toNat + 8 * b2n p.neg

/-! Codes of the closed sets (R285, R295 and the instruction tables). -/

def Ty.code : Ty → Nat
  | .i32 => 0 | .n32 => 1 | .i64 => 2 | .n64 => 3 | .f32 => 4 | .f64 => 5 | .f16x2 => 6 | .bf16x2 => 7 | .b32 => 8
def tyOf : Nat → Option Ty
  | 0 => some .i32 | 1 => some .n32 | 2 => some .i64 | 3 => some .n64 | 4 => some .f32 | 5 => some .f64
  | 6 => some .f16x2 | 7 => some .bf16x2 | 8 => some .b32 | _ => none
def IntTy.code : IntTy → Nat
  | .i32 => 0 | .n32 => 1 | .i64 => 2 | .n64 => 3
def intTyOf : Nat → Option IntTy
  | 0 => some .i32 | 1 => some .n32 | 2 => some .i64 | 3 => some .n64 | _ => none
def SIntTy.code : SIntTy → Nat
  | .i32 => 0 | .i64 => 2
def sintTyOf : Nat → Option SIntTy
  | 0 => some .i32 | 2 => some .i64 | _ => none
def BitTy.code : BitTy → Nat
  | .b32 => 8 | .n64 => 3
def bitTyOf : Nat → Option BitTy
  | 8 => some .b32 | 3 => some .n64 | _ => none
def FTy.code : FTy → Nat
  | .f32 => 4 | .f64 => 5
def fTyOf : Nat → Option FTy
  | 4 => some .f32 | 5 => some .f64 | _ => none
def HTy.code : HTy → Nat
  | .f16x2 => 6 | .bf16x2 => 7
def hTyOf : Nat → Option HTy
  | 6 => some .f16x2 | 7 => some .bf16x2 | _ => none
def FHTy.code : FHTy → Nat
  | .f32 => 4 | .f64 => 5 | .f16x2 => 6 | .bf16x2 => 7
def fhTyOf : Nat → Option FHTy
  | 4 => some .f32 | 5 => some .f64 | 6 => some .f16x2 | 7 => some .bf16x2 | _ => none
def CTy.code : CTy → Nat
  | .i32 => 0 | .n32 => 1 | .i64 => 2 | .n64 => 3 | .f32 => 4 | .f64 => 5
def cTyOf : Nat → Option CTy
  | 0 => some .i32 | 1 => some .n32 | 2 => some .i64 | 3 => some .n64 | 4 => some .f32 | 5 => some .f64 | _ => none
def LTy.code : LTy → Nat
  | .i32 => 0 | .n32 => 1 | .f32 => 4
def lTyOf : Nat → Option LTy
  | 0 => some .i32 | 1 => some .n32 | 4 => some .f32 | _ => none
def RM.code : RM → Nat
  | .rne => 0 | .rz => 1 | .ru => 2 | .rd => 3 | .ro => 4
def rmOf : Nat → Option RM
  | 0 => some .rne | 1 => some .rz | 2 => some .ru | 3 => some .rd | 4 => some .ro | _ => none
def IRel.code : IRel → Nat
  | .eq => 0 | .ne => 1 | .lt => 2 | .le => 3 | .gt => 4 | .ge => 5
def iRelOf : Nat → Option IRel
  | 0 => some .eq | 1 => some .ne | 2 => some .lt | 3 => some .le | 4 => some .gt | 5 => some .ge | _ => none
def FRel.code : FRel → Nat
  | .eq => 0 | .ne => 1 | .lt => 2 | .le => 3 | .gt => 4 | .ge => 5 | .unord => 6 | .ord => 7
def fRelOf : Nat → Option FRel
  | 0 => some .eq | 1 => some .ne | 2 => some .lt | 3 => some .le | 4 => some .gt | 5 => some .ge
  | 6 => some .unord | 7 => some .ord | _ => none
def PlopOp.code : PlopOp → Nat
  | .and => 0 | .or => 1 | .xor => 2 | .andn => 3
def plopOf : Nat → Option PlopOp
  | 0 => some .and | 1 => some .or | 2 => some .xor | 3 => some .andn | _ => none
def ShflMode.code : ShflMode → Nat
  | .idx => 0 | .up => 1 | .down => 2 | .xor => 3
def shflOf : Nat → Option ShflMode
  | 0 => some .idx | 1 => some .up | 2 => some .down | 3 => some .xor | _ => none
def VoteOp.code : VoteOp → Nat
  | .all => 0 | .any => 1 | .ballot => 2 | .uni => 3
def voteOf : Nat → Option VoteOp
  | 0 => some .all | 1 => some .any | 2 => some .ballot | 3 => some .uni | _ => none
def LdSize.code : LdSize → Nat
  | .b8 => 0 | .s8 => 1 | .b16 => 2 | .s16 => 3 | .b32 => 4 | .b64 => 5 | .b128 => 6
def ldSizeOf : Nat → Option LdSize
  | 0 => some .b8 | 1 => some .s8 | 2 => some .b16 | 3 => some .s16 | 4 => some .b32 | 5 => some .b64
  | 6 => some .b128 | _ => none
def StSize.code : StSize → Nat
  | .b8 => 0 | .b16 => 2 | .b32 => 4 | .b64 => 5 | .b128 => 6
def stSizeOf : Nat → Option StSize
  | 0 => some .b8 | 2 => some .b16 | 4 => some .b32 | 5 => some .b64 | 6 => some .b128 | _ => none
def MemOrd.code : MemOrd → Nat
  | .rlx => 0 | .acq => 1 | .rel => 2 | .ar => 3
def memOrdOf : Nat → Option MemOrd
  | 0 => some .rlx | 1 => some .acq | 2 => some .rel | 3 => some .ar | _ => none
def FenceKind.code : FenceKind → Nat
  | .acq => 0 | .rel => 1 | .ar => 2 | .sc => 3
def fenceOf : Nat → Option FenceKind
  | 0 => some .acq | 1 => some .rel | 2 => some .ar | 3 => some .sc | _ => none

/-- rlx or acq of a load, `ctrd` (R227). -/
def acqOf : Nat → Option Bool
  | 0 => some false | 1 => some true | _ => none
/-- rlx or rel of a store, `red`, `ctadd` (R227). -/
def relOf : Nat → Option Bool
  | 0 => some false | 2 => some true | _ => none

/-- The function and type of `atom` and `red` without the compare operand (14 R386). -/
inductive AtomKind where
  | arith (f : AArith) (ty : IntTy)
  | bitop (f : ABit) (ty : BitTy)
  | cas (ty : BitTy)
  | fadd (ty : AFTy)
  deriving DecidableEq, Repr
def AtomKind.width : AtomKind → Nat
  | .arith _ ty => ty.width
  | .bitop _ ty => ty.width
  | .cas ty => ty.width
  | .fadd _ => 32
def aftyOf : Nat → Option AFTy
  | 4 => some .f32 | 6 => some .f16x2 | 7 => some .bf16x2 | _ => none
def AFTy.code : AFTy → Nat
  | .f32 => 4 | .f16x2 => 6 | .bf16x2 => 7
def atomKindOf (f t : Nat) : Option AtomKind :=
  match f with
  | 0 => (intTyOf t).map (.arith .add)
  | 1 => (intTyOf t).map (.arith .min)
  | 2 => (intTyOf t).map (.arith .max)
  | 3 => (bitTyOf t).map (.bitop .and)
  | 4 => (bitTyOf t).map (.bitop .or)
  | 5 => (bitTyOf t).map (.bitop .xor)
  | 6 => (bitTyOf t).map (.bitop .exch)
  | 7 => (bitTyOf t).map .cas
  | 8 => (aftyOf t).map .fadd
  | _ => none
/-- FN16 of `atom` and `red` (14 R386). -/
def AtomOp.fn16 : AtomOp → Nat
  | .arith .add ty => 0 * 4096 + ty.code * 256
  | .arith .min ty => 1 * 4096 + ty.code * 256
  | .arith .max ty => 2 * 4096 + ty.code * 256
  | .bitop .and ty => 3 * 4096 + ty.code * 256
  | .bitop .or ty => 4 * 4096 + ty.code * 256
  | .bitop .xor ty => 5 * 4096 + ty.code * 256
  | .bitop .exch ty => 6 * 4096 + ty.code * 256
  | .cas ty c => 7 * 4096 + ty.code * 256 + c.code
  | .fadd ty => 8 * 4096 + ty.code * 256
/-- The function of an atomic with its compare operand: FN16[7:0] is zero but for cas (14 R386). -/
def withAtom (k : AtomKind) (cmp : Nat) (f : AtomOp → Dec Instr) : Dec Instr :=
  match k with
  | .arith o ty => f (.arith o ty)
  | .bitop o ty => f (.bitop o ty)
  | .cas ty => withSrc cmp ty.width fun c => f (.cas ty c)
  | .fadd ty => f (.fadd ty)
def AtomKind.isCas : AtomKind → Bool
  | .cas _ => true
  | _ => false

/-- FN[3:0], TY and RM of `redux` (13 R363). -/
def reduxOf (f t r : Nat) : Option ReduxOp :=
  match f with
  | 0 => if r = 0 then (intTyOf t).map .iadd else none
  | 1 => if r = 0 then (intTyOf t).map .imin else none
  | 2 => if r = 0 then (intTyOf t).map .imax else none
  | 3 => if r = 0 then (bitTyOf t).map .and else none
  | 4 => if r = 0 then (bitTyOf t).map .or else none
  | 5 => if r = 0 then (bitTyOf t).map .xor else none
  | 6 => if t = 4 then (rmOf r).map .fadd else none
  | 7 => if r = 0 ∧ t = 4 then some .fmin else none
  | 8 => if r = 0 ∧ t = 4 then some .fmax else none
  | _ => none
def ReduxOp.codes : ReduxOp → Nat × Nat × Nat
  | .iadd ty => (0, ty.code, 0) | .imin ty => (1, ty.code, 0) | .imax ty => (2, ty.code, 0)
  | .and ty => (3, ty.code, 0) | .or ty => (4, ty.code, 0) | .xor ty => (5, ty.code, 0)
  | .fadd rm => (6, 4, rm.code) | .fmin => (7, 4, 0) | .fmax => (8, 4, 0)
def scanOf (f t r : Nat) : Option ScanOp :=
  match f with
  | 0 => if r = 0 then (intTyOf t).map .iadd else none
  | 1 => if t = 4 then (rmOf r).map .fadd else none
  | _ => none
def ScanOp.codes : ScanOp → Nat × Nat × Nat
  | .iadd ty => (0, ty.code, 0)
  | .fadd rm => (1, 4, rm.code)

/-- FN of `cvt`: source type in [7:4], destination type in [3:0], both from 0 to 5 or both from 6 and 7
(13 R353). -/
def cvtTysOf (fn : Nat) : Option CvtTys :=
  match cTyOf (fn / 16), cTyOf (fn % 16), hTyOf (fn / 16), hTyOf (fn % 16) with
  | some a, some b, _, _ => some (.scalar a b)
  | _, _, some a, some b => some (.packed a b)
  | _, _, _, _ => none
def CvtTys.fn : CvtTys → Nat
  | .scalar a b => a.code * 16 + b.code
  | .packed a b => a.code * 16 + b.code

/-- A number below `n` as an index. -/
def finOf (n c : Nat) : Option (Fin n) := if h : c < n then some ⟨c, h⟩ else none

/-! The six formats (R284). -/

def hdrOf (w : Nat) : Hdr :=
  ⟨bitAt w 63, bitAt w 55, BitVec.ofNat 3 (w / 2 ^ 52), BitVec.ofNat 4 w⟩
def Hdr.word (h : Hdr) (op : Nat) : Nat :=
  b2n h.settle * 2 ^ 63 + op * 2 ^ 56 + b2n h.gn * 2 ^ 55 + h.gp.toNat * 2 ^ 52 + h.hint.toNat

structure RawA where
  dst : Nat
  sa : Nat
  sb : Nat
  sc : Nat
  fn : Nat
  ty : Nat
  rm : Nat
  x : Nat
def rawA (w : Nat) : RawA :=
  ⟨bits w 44 8, bits w 36 8, bits w 28 8, bits w 20 8, bits w 12 8, bits w 8 4, bits w 5 3, bits w 4 1⟩
def encA (h : Hdr) (op : Nat) (r : RawA) : Nat :=
  h.word op + r.dst * 2 ^ 44 + r.sa * 2 ^ 36 + r.sb * 2 ^ 28 + r.sc * 2 ^ 20 + r.fn * 2 ^ 12 + r.ty * 2 ^ 8
    + r.rm * 2 ^ 5 + r.x * 2 ^ 4

structure RawI where
  dst : Nat
  sa : Nat
  imm : Nat
def rawI (w : Nat) : RawI := ⟨bits w 44 8, bits w 36 8, bits w 4 32⟩
def encI (h : Hdr) (op : Nat) (r : RawI) : Nat := h.word op + r.dst * 2 ^ 44 + r.sa * 2 ^ 36 + r.imm * 2 ^ 4

structure RawM where
  dst : Nat
  sa : Nat
  sb : Nat
  ofs : Nat
  sz : Nat
  sk : Nat
  od : Nat
def rawM (w : Nat) : RawM :=
  ⟨bits w 44 8, bits w 36 8, bits w 28 8, bits w 16 12, bits w 12 4, bits w 6 6, bits w 4 2⟩
def encM (h : Hdr) (op : Nat) (r : RawM) : Nat :=
  h.word op + r.dst * 2 ^ 44 + r.sa * 2 ^ 36 + r.sb * 2 ^ 28 + r.ofs * 2 ^ 16 + r.sz * 2 ^ 12 + r.sk * 2 ^ 6
    + r.od * 2 ^ 4

structure RawB where
  x1 : Nat
  sa : Nat
  off : Nat
def rawB (w : Nat) : RawB := ⟨bits w 44 8, bits w 36 8, bits w 4 32⟩
def encB (h : Hdr) (op : Nat) (r : RawB) : Nat := h.word op + r.x1 * 2 ^ 44 + r.sa * 2 ^ 36 + r.off * 2 ^ 4

structure RawT where
  hd : Nat
  ha : Nat
  hb : Nat
  sa : Nat
  fa : Nat
  fb : Nat
  fc : Nat
  rm : Nat
  x : Nat
def rawT (w : Nat) : RawT :=
  ⟨bits w 44 8, bits w 36 8, bits w 28 8, bits w 20 8, bits w 16 4, bits w 12 4, bits w 8 4, bits w 5 3,
    bits w 4 1⟩
def encT (h : Hdr) (op : Nat) (r : RawT) : Nat :=
  h.word op + r.hd * 2 ^ 44 + r.ha * 2 ^ 36 + r.hb * 2 ^ 28 + r.sa * 2 ^ 20 + r.fa * 2 ^ 16 + r.fb * 2 ^ 12
    + r.fc * 2 ^ 8 + r.rm * 2 ^ 5 + r.x * 2 ^ 4

structure RawE where
  dst : Nat
  sa : Nat
  sb : Nat
  fn16 : Nat
  sk : Nat
  od : Nat
def rawE (w : Nat) : RawE := ⟨bits w 44 8, bits w 36 8, bits w 28 8, bits w 12 16, bits w 6 6, bits w 4 2⟩
def encE (h : Hdr) (op : Nat) (r : RawE) : Nat :=
  h.word op + r.dst * 2 ^ 44 + r.sa * 2 ^ 36 + r.sb * 2 ^ 28 + r.fn16 * 2 ^ 12 + r.sk * 2 ^ 6 + r.od * 2 ^ 4

/-! One decoder per opcode or family. -/

def decNop (h : Hdr) (r : RawA) : Dec Instr :=
  need (zeros [r.dst, r.sa, r.sb, r.sc, r.fn, r.ty, r.rm, r.x]) <| .ok (.nop h)

/-- Two sources and a result of one width. -/
def dec2 (r : RawA) (wa wb wd : Nat) (p : Bool) (k : Src → Src → Dst → Instr) : Dec Instr :=
  withSrc r.sa wa fun a => withSrc r.sb wb fun b => withDst r.dst wd p fun d => .ok (k a b d)
def dec1 (r : RawA) (wa wd : Nat) (k : Src → Dst → Instr) : Dec Instr :=
  withSrc r.sa wa fun a => withDst r.dst wd false fun d => .ok (k a d)
def dec3 (r : RawA) (wa wb wc wd : Nat) (k : Src → Src → Src → Dst → Instr) : Dec Instr :=
  withSrc r.sa wa fun a => withSrc r.sb wb fun b => withSrc r.sc wc fun c =>
    withDst r.dst wd false fun d => .ok (k a b c d)

/-- OP 0x01 (12 R311). -/
def decInt (h : Hdr) (r : RawA) : Dec Instr :=
  match r.fn with
  | 0 => need (zeros [r.sc, r.rm]) <| withVal (intTyOf r.ty) fun t =>
      dec2 r t.width t.width t.width false (.iadd h t (r.x == 1))
  | 1 => need (zeros [r.sc, r.rm]) <| withVal (intTyOf r.ty) fun t =>
      dec2 r t.width t.width t.width false (.isub h t (r.x == 1))
  | 2 => need (zeros [r.sc, r.rm]) <| withVal (intTyOf r.ty) fun t =>
      dec2 r t.width t.width t.width false (.imul h t (r.x == 1))
  | 3 => need (zeros [r.sc, r.rm, r.x]) <| withVal (intTyOf r.ty) fun t =>
      dec2 r t.width t.width t.width false (.imulhi h t)
  | 4 => need (zeros [r.rm]) <| withVal (intTyOf r.ty) fun t =>
      dec3 r t.width t.width t.width t.width (.imad h t (r.x == 1))
  | 5 => need (zeros [r.sc, r.rm, r.x]) <| withVal (intTyOf r.ty) fun t =>
      dec2 r t.width t.width t.width false (.imin h t)
  | 6 => need (zeros [r.sc, r.rm, r.x]) <| withVal (intTyOf r.ty) fun t =>
      dec2 r t.width t.width t.width false (.imax h t)
  | 7 => need (zeros [r.sb, r.sc, r.rm]) <| withVal (sintTyOf r.ty) fun t =>
      dec1 r t.width t.width (.iabs h t (r.x == 1))
  | 8 => need (zeros [r.sc, r.rm, r.x]) <| withVal (intTyOf r.ty) fun t =>
      dec2 r t.width t.width t.width false (.idiv h t)
  | 9 => need (zeros [r.sc, r.rm, r.x]) <| withVal (intTyOf r.ty) fun t =>
      dec2 r t.width t.width t.width false (.irem h t)
  | _ => .illegal

/-- OP 0x02 (12 R314, R315). -/
def decBits (h : Hdr) (r : RawA) : Dec Instr :=
  match r.fn with
  | 0 => need (zeros [r.sc, r.rm, r.x]) <| withVal (bitTyOf r.ty) fun t =>
      dec2 r t.width t.width t.width false (.and h t)
  | 1 => need (zeros [r.sc, r.rm, r.x]) <| withVal (bitTyOf r.ty) fun t =>
      dec2 r t.width t.width t.width false (.or h t)
  | 2 => need (zeros [r.sc, r.rm, r.x]) <| withVal (bitTyOf r.ty) fun t =>
      dec2 r t.width t.width t.width false (.xor h t)
  | 3 => need (zeros [r.sb, r.sc, r.rm, r.x]) <| withVal (bitTyOf r.ty) fun t =>
      dec1 r t.width t.width (.not h t)
  | 4 => need (zeros [r.sc, r.rm, r.x]) <| withVal (bitTyOf r.ty) fun t =>
      dec2 r t.width 32 t.width false (.shl h t)
  | 5 => need (zeros [r.sc, r.rm, r.x]) <| withVal (bitTyOf r.ty) fun t =>
      dec2 r t.width 32 t.width false (.shr h t)
  | 6 => need (zeros [r.sc, r.rm, r.x]) <| withVal (bitTyOf r.ty) fun t =>
      dec2 r t.width 32 t.width false (.sar h t)
  | 7 => need (zeros [r.sc, r.rm, r.x]) <| withVal (bitTyOf r.ty) fun t =>
      dec2 r t.width 32 t.width false (.rotl h t)
  | 8 => need (zeros [r.sb, r.sc, r.rm, r.x]) <| withVal (bitTyOf r.ty) fun t => dec1 r t.width 32 (.popc h t)
  | 9 => need (zeros [r.sb, r.sc, r.rm, r.x]) <| withVal (bitTyOf r.ty) fun t => dec1 r t.width 32 (.clz h t)
  | 10 => need (zeros [r.sb, r.sc, r.rm, r.x]) <| withVal (bitTyOf r.ty) fun t =>
      dec1 r t.width t.width (.brev h t)
  | 11 => need (zeros [r.sc, r.rm]) <| withVal (bitTyOf r.ty) fun t =>
      dec2 r t.width 32 t.width false (.bfe h t (r.x == 1))
  | 12 => need (zeros [r.rm, r.x]) <| withVal (bitTyOf r.ty) fun t =>
      dec3 r t.width t.width 32 t.width (.bfi h t)
  | _ => .illegal

/-- OP 0x03 (12 R316). -/
def decLea (h : Hdr) (r : RawA) : Dec Instr :=
  need (zeros [r.sc, r.rm, r.x]) <| withVal (finOf 9 r.fn) fun k =>
    need (r.ty == 0 || r.ty == 1) <| dec2 r 64 32 64 false (.lea h k (r.ty == 0))

/-- OP 0x04 (12 R317). -/
def decIsetp (h : Hdr) (r : RawA) : Dec Instr :=
  need (zeros [r.sc, r.rm, r.x]) <| withVal (iRelOf r.fn) fun f => withVal (intTyOf r.ty) fun t =>
    dec2 r t.width t.width 32 true (.isetp h f t)

/-- OP 0x05 (12 R318). -/
def decSel (h : Hdr) (r : RawA) : Dec Instr :=
  need (zeros [r.sc, r.rm, r.x]) <| withVal (pselOf r.fn) fun p => withVal (tyOf r.ty) fun t =>
    dec2 r t.width t.width t.width false (.sel h t p)

/-- OP 0x06 (12 R319). -/
def decPlop (h : Hdr) (r : RawA) : Dec Instr :=
  need (zeros [r.sc, r.ty, r.rm, r.x]) <| withVal (plopOf r.fn) fun f => withVal (pselOf r.sa) fun x =>
    withVal (pselOf r.sb) fun y => withDst r.dst 32 true fun d => .ok (.plop h f x y d)

/-- OP 0x07 (12 R320). -/
def decMov (h : Hdr) (r : RawA) : Dec Instr :=
  need (zeros [r.sb, r.sc, r.fn, r.rm, r.x]) <| withVal (tyOf r.ty) fun t => dec1 r t.width t.width (.mov h t)

/-- OP 0x08 to 0x0A (12 R321). -/
def decMovi (h : Hdr) (r : RawI) : Dec Instr :=
  need (zeros [r.sa]) <| withDst r.dst 32 false fun d => .ok (.movi h (BitVec.ofNat 32 r.imm) d)
def decAddi (h : Hdr) (r : RawI) : Dec Instr :=
  withSrc r.sa 32 fun a => withDst r.dst 32 false fun d => .ok (.addi h a (BitVec.ofNat 32 r.imm) d)
def decMovh (h : Hdr) (r : RawI) : Dec Instr :=
  withSrc r.sa 32 fun a => withDst r.dst 64 false fun d => .ok (.movh h a (BitVec.ofNat 32 r.imm) d)

/-- The width of special register `i` (08 R221). -/
def srWidth (i : Nat) : Nat := if i ∈ [16, 17, 18, 19, 22, 23, 30, 31] then 64 else 32

/-- OP 0x0B, 0x0C (12 R322, R324). -/
def decGetsr (h : Hdr) (r : RawI) : Dec Instr :=
  need (zeros [r.sa]) <| withVal (finOf 32 r.imm) fun i =>
    withDst r.dst (srWidth i.val) false fun d => .ok (.getsr h i d)
def decSetsr (h : Hdr) (r : RawI) : Dec Instr :=
  need (zeros [r.dst]) <| withVal (finOf 32 r.imm) fun i =>
    withSrc r.sa (srWidth i.val) fun a => .ok (.setsr h i a)

/-- OP 0x0D, 0x0E (12 R325). -/
def decRidx (h : Hdr) (r : RawI) : Dec Instr :=
  withSrc r.sa 32 fun a => withDst r.dst 32 false fun d => .ok (.ridx h a (BitVec.ofNat 32 r.imm) d)
def decWidx (h : Hdr) (r : RawA) : Dec Instr :=
  need (zeros [r.dst, r.sc, r.fn, r.ty, r.rm, r.x]) <|
    withSrc r.sa 32 fun a => withSrc r.sb 32 fun b => .ok (.widx h a b)

/-- OP 0x0F (12 R320). -/
def decDup (h : Hdr) (r : RawA) : Dec Instr :=
  match r.fn with
  | 1 => need (zeros [r.sb, r.sc, r.ty, r.rm, r.x]) <|
      dec1 r 32 32 fun a d => .dup h (.one a) d
  | 2 => need (zeros [r.sc, r.ty, r.rm, r.x]) <|
      dec2 r 32 32 32 false fun a b d => .dup h (.two a b) d
  | 3 => need (zeros [r.ty, r.rm, r.x]) <|
      dec3 r 32 32 32 32 fun a b c d => .dup h (.three a b c) d
  | _ => .illegal

/-- OP 0x10 to 0x12 (13 R343). -/
def decF2 (r : RawA) (k : RM → Src → Src → Dst → Instr) : Dec Instr :=
  need (zeros [r.sc, r.fn, r.x] && r.ty == 4) <| withVal (rmOf r.rm) fun m => dec2 r 32 32 32 false (k m)
def decF3 (r : RawA) (k : RM → Src → Src → Src → Dst → Instr) : Dec Instr :=
  need (zeros [r.fn, r.x] && r.ty == 4) <| withVal (rmOf r.rm) fun m => dec3 r 32 32 32 32 (k m)
def decFmm (r : RawA) (k : FHTy → Src → Src → Dst → Instr) : Dec Instr :=
  need (zeros [r.sc, r.fn, r.rm, r.x]) <| withVal (fhTyOf r.ty) fun t =>
    dec2 r t.width t.width t.width false (k t)
def decFsetp (h : Hdr) (r : RawA) : Dec Instr :=
  need (zeros [r.sc, r.rm, r.x] && r.ty == 4) <| withVal (fRelOf r.fn) fun f =>
    dec2 r 32 32 32 true (.fsetp h f)
def decFclass (h : Hdr) (r : RawA) : Dec Instr :=
  need (zeros [r.sb, r.sc, r.fn, r.rm, r.x]) <| withVal (fTyOf r.ty) fun t => dec1 r t.width 32 (.fclass h t)
def decFrnd (h : Hdr) (r : RawA) : Dec Instr :=
  need (zeros [r.sb, r.sc, r.fn, r.x]) <| withVal (fTyOf r.ty) fun t => withVal (rmOf r.rm) fun m =>
    dec1 r t.width t.width (.frnd h t m)

/-- OP 0x19 (13 R343, R349, R350). -/
def decFsign (h : Hdr) (r : RawA) : Dec Instr :=
  match r.fn with
  | 0 => need (zeros [r.sb, r.sc, r.rm, r.x]) <| withVal (fhTyOf r.ty) fun t =>
      dec1 r t.width t.width (.fabs h t)
  | 1 => need (zeros [r.sb, r.sc, r.rm, r.x]) <| withVal (fhTyOf r.ty) fun t =>
      dec1 r t.width t.width (.fneg h t)
  | 2 => need (zeros [r.sc, r.rm, r.x]) <| withVal (fhTyOf r.ty) fun t =>
      dec2 r t.width t.width t.width false (.fcopysign h t)
  | 3 => need (zeros [r.sc, r.x]) <| withVal (fTyOf r.ty) fun t => withVal (rmOf r.rm) fun m =>
      dec2 r t.width 32 t.width false (.fscale h t m)
  | 4 => need (zeros [r.sb, r.sc, r.rm, r.x]) <| withVal (fTyOf r.ty) fun t =>
      dec1 r t.width 32 (.fgetexp h t)
  | 5 => need (zeros [r.sb, r.sc, r.rm, r.x]) <| withVal (fTyOf r.ty) fun t =>
      dec1 r t.width t.width (.fgetman h t)
  | _ => .illegal

/-- OP 0x1A to 0x1D (13 R343). -/
def decD2 (r : RawA) (k : RM → Src → Src → Dst → Instr) : Dec Instr :=
  need (zeros [r.sc, r.fn, r.x] && r.ty == 5) <| withVal (rmOf r.rm) fun m => dec2 r 64 64 64 false (k m)
def decDfma (h : Hdr) (r : RawA) : Dec Instr :=
  need (zeros [r.fn, r.x] && r.ty == 5) <| withVal (rmOf r.rm) fun m => dec3 r 64 64 64 64 (.dfma h m)
def decDsetp (h : Hdr) (r : RawA) : Dec Instr :=
  need (zeros [r.sc, r.rm, r.x] && r.ty == 5) <| withVal (fRelOf r.fn) fun f =>
    dec2 r 64 64 32 true (.dsetp h f)

/-- OP 0x1E (13 R343). -/
def decHalf (h : Hdr) (r : RawA) : Dec Instr :=
  match r.fn with
  | 0 => need (zeros [r.sc, r.x]) <| withVal (hTyOf r.ty) fun t => withVal (rmOf r.rm) fun m =>
      dec2 r 32 32 32 false (.hadd2 h t m)
  | 1 => need (zeros [r.sc, r.x]) <| withVal (hTyOf r.ty) fun t => withVal (rmOf r.rm) fun m =>
      dec2 r 32 32 32 false (.hmul2 h t m)
  | 2 => need (zeros [r.x]) <| withVal (hTyOf r.ty) fun t => withVal (rmOf r.rm) fun m =>
      dec3 r 32 32 32 32 (.hfma2 h t m)
  | _ => .illegal

/-- OP 0x20 to 0x27 (13 R351). -/
def decSfu (r : RawA) (k : Src → Dst → Instr) : Dec Instr :=
  need (zeros [r.sb, r.sc, r.fn, r.rm, r.x] && r.ty == 4) <| dec1 r 32 32 k
def decExp2s (h : Hdr) (r : RawA) : Dec Instr :=
  need (zeros [r.fn, r.rm, r.x] && r.ty == 4) <| dec3 r 32 32 32 32 (.exp2s h)
def decTrig (h : Hdr) (r : RawA) : Dec Instr :=
  match r.fn with
  | 0 => need (zeros [r.sb, r.sc, r.rm, r.x] && r.ty == 4) <| dec1 r 32 32 (.fsin h)
  | 1 => need (zeros [r.sb, r.sc, r.rm, r.x] && r.ty == 4) <| dec1 r 32 32 (.fcos h)
  | _ => .illegal

/-- OP 0x28 to 0x2C (13 R353, R355, R359). -/
def decCvt (h : Hdr) (r : RawA) : Dec Instr :=
  need (zeros [r.sb, r.sc, r.ty]) <| withVal (cvtTysOf r.fn) fun t => withVal (rmOf r.rm) fun m =>
    dec1 r t.srcWidth t.dstWidth (.cvt h t m (r.x == 1))
def decCvtSlot (r : RawA) (k : Fin 16 → LTy → RM → Bool → Src → Option Src → Dst → Instr) : Dec Instr :=
  need (r.sc == 0 && r.fn < 32) <| withVal (finOf 16 (r.fn % 16)) fun f => withVal (lTyOf r.ty) fun t =>
    withVal (rmOf r.rm) fun m =>
      if r.fn < 16 then
        need (r.sb == 0) <| dec1 r 32 32 fun a d => k f t m (r.x == 1) a none d
      else dec2 r 32 32 32 false fun a b d => k f t m (r.x == 1) a (some b) d
def decPack (h : Hdr) (r : RawA) : Dec Instr :=
  need (zeros [r.sc, r.fn, r.x]) <| withVal (hTyOf r.ty) fun t => withVal (rmOf r.rm) fun m =>
    dec2 r 32 32 32 false (.pack h t m)
def decUnpk (h : Hdr) (r : RawA) : Dec Instr :=
  need (zeros [r.sb, r.sc, r.fn, r.rm, r.x]) <| withVal (hTyOf r.ty) fun t => dec1 r 32 64 (.unpk h t)

/-- OP 0x30 to 0x34 (13 R362, R363): FN[3:0] function, FN[6:4] report predicate, FN[7] zero. -/
def rpOf (fn : Nat) : BitVec 3 := BitVec.ofNat 3 (fn / 16)
def decShfl (h : Hdr) (r : RawA) : Dec Instr :=
  need (zeros [r.rm, r.x] && r.fn < 128) <| withVal (shflOf (r.fn % 16)) fun f => withVal (bitTyOf r.ty) fun t =>
    dec3 r t.width t.width 32 t.width (.shfl h f t (rpOf r.fn))
def decVote (h : Hdr) (r : RawA) : Dec Instr :=
  need (zeros [r.sb, r.ty, r.rm] && r.fn < 128) <| withVal (voteOf (r.fn % 16)) fun f =>
    withVal (pselOf r.sa) fun p => withSrc r.sc 32 fun c =>
      withDst r.dst 32 (f != .ballot) fun d => .ok (.vote h f (rpOf r.fn) p (r.x == 1) c d)
def decMatch (h : Hdr) (r : RawA) : Dec Instr :=
  need (zeros [r.rm, r.x, r.fn % 16] && r.fn < 128) <| withVal (bitTyOf r.ty) fun t =>
    dec3 r t.width t.width 32 32 (.matchLanes h t (rpOf r.fn))
def decRedux (h : Hdr) (r : RawA) : Dec Instr :=
  need (r.x == 0 && r.fn < 128) <| withVal (reduxOf (r.fn % 16) r.ty r.rm) fun f =>
    dec3 r f.width f.width 32 f.width (.redux h f (rpOf r.fn))
def decScan (h : Hdr) (r : RawA) : Dec Instr :=
  need (r.fn < 128) <| withVal (scanOf (r.fn % 16) r.ty r.rm) fun f =>
    dec3 r f.width f.width 32 f.width (.scan h f (rpOf r.fn) (r.x == 1))

/-- OP 0x35 to 0x37 (13 R370). -/
def decJoin (r : RawA) (k : Fin 4 → Instr) : Dec Instr :=
  need (zeros [r.dst, r.sa, r.sb, r.sc, r.ty, r.rm, r.x]) <| withVal (finOf 4 r.fn) fun j => .ok (k j)
def decGroupq (h : Hdr) (r : RawA) : Dec Instr :=
  need (zeros [r.sa, r.sb, r.sc, r.ty, r.rm, r.x, r.dst]) <| withVal (finOf 5 r.fn) fun g =>
    .ok (.groupq h g .push)

/-- OP 0x38 to 0x3C (14 R378 to R385). -/
def decLd (h : Hdr) (r : RawM) : Dec Instr :=
  need (r.sb == 0) <| withVal (ldSizeOf r.sz) fun z => withVal (acqOf r.od) fun q =>
    withSrc r.sa 64 fun a => withDst r.dst z.width false fun d =>
      .ok (.ld h z (BitVec.ofNat 12 r.ofs) (BitVec.ofNat 6 r.sk) q a d)
def decSt (h : Hdr) (r : RawM) : Dec Instr :=
  need (r.dst == 0) <| withVal (stSizeOf r.sz) fun z => withVal (relOf r.od) fun q =>
    withSrc r.sa 64 fun a => withSrc r.sb z.width fun b =>
      .ok (.st h z (BitVec.ofNat 12 r.ofs) (BitVec.ofNat 6 r.sk) q a b)
def decLdx (h : Hdr) (r : RawM) : Dec Instr :=
  need (r.sb == 0) <| withVal (finOf 16 r.sz) fun f => withVal (acqOf r.od) fun q =>
    withSrc r.sa 64 fun a => withDst r.dst 32 false fun d =>
      .ok (.ldx h f (BitVec.ofNat 12 r.ofs) (BitVec.ofNat 6 r.sk) q a d)
def decStx (h : Hdr) (r : RawM) : Dec Instr :=
  need (r.dst == 0) <| withVal (finOf 16 r.sz) fun f => withVal (relOf r.od) fun q =>
    withSrc r.sa 64 fun a => withSrc r.sb 32 fun b =>
      .ok (.stx h f (BitVec.ofNat 12 r.ofs) (BitVec.ofNat 6 r.sk) q a b)
def decPref (h : Hdr) (r : RawM) : Dec Instr :=
  need (zeros [r.dst, r.sb, r.od]) <| withVal (ldSizeOf r.sz) fun z => withSrc r.sa 64 fun a =>
    .ok (.pref h z (BitVec.ofNat 12 r.ofs) (BitVec.ofNat 6 r.sk) a)

/-- OP 0x40, 0x41 (14 R386). -/
def decAtom (h : Hdr) (r : RawE) : Dec Instr :=
  withVal (atomKindOf (r.fn16 / 4096) (r.fn16 / 256 % 16)) fun f =>
    need (f.isCas || r.fn16 % 256 == 0) <| withVal (memOrdOf r.od) fun o =>
      withSrc r.sa 64 fun a => withSrc r.sb f.width fun b => withAtom f (r.fn16 % 256) fun g =>
        withDst r.dst f.width false fun d => .ok (.atom h g (BitVec.ofNat 6 r.sk) o a b d)
def decRed (h : Hdr) (r : RawE) : Dec Instr :=
  withVal (atomKindOf (r.fn16 / 4096) (r.fn16 / 256 % 16)) fun f =>
    need ((f.isCas || r.fn16 % 256 == 0) && r.dst == 0) <| withVal (relOf r.od) fun o =>
      withSrc r.sa 64 fun a => withSrc r.sb f.width fun b => withAtom f (r.fn16 % 256) fun g =>
        .ok (.red h g (BitVec.ofNat 6 r.sk) o a b)

/-- OP 0x42 to 0x44 (14 R391 to R394). -/
def decCtadd (h : Hdr) (r : RawE) : Dec Instr :=
  need (zeros [r.dst, r.fn16]) <| withVal (relOf r.od) fun o =>
    withSrc r.sa 64 fun a => withSrc r.sb 64 fun b => .ok (.ctadd h (BitVec.ofNat 6 r.sk) o a b)
def decCtwait (h : Hdr) (r : RawE) : Dec Instr :=
  need (r.od == 1 && r.fn16 / 256 % 128 == 0) <|
    if r.fn16 / 32768 = 0 then
      need (r.fn16 % 256 == 0) <| withSrc r.sa 64 fun a => withSrc r.sb 64 fun b =>
        withDst r.dst 64 false fun d => .ok (.ctwait h (BitVec.ofNat 6 r.sk) none a b d)
    else withSrc r.sa 64 fun a => withSrc r.sb 64 fun b => withSrc (r.fn16 % 256) 32 fun t =>
        withDst r.dst 64 false fun d => .ok (.ctwait h (BitVec.ofNat 6 r.sk) (some t) a b d)
def decCtrd (h : Hdr) (r : RawE) : Dec Instr :=
  need (zeros [r.sb, r.fn16]) <| withVal (acqOf r.od) fun o =>
    withSrc r.sa 64 fun a => withDst r.dst 64 false fun d => .ok (.ctrd h (BitVec.ofNat 6 r.sk) o a d)

/-- OP 0x45 (14 R395). -/
def decBar (h : Hdr) (r : RawE) : Dec Instr :=
  need (r.fn16 % 4096 == 0) <|
  match r.fn16 / 4096 with
  | 0 => need (zeros [r.dst, r.sk, r.od]) <| withSrc r.sa 64 fun a => withSrc r.sb 32 fun b =>
      .ok (.barInit h a b)
  | 1 => need (zeros [r.dst, r.sk, r.od]) <| withSrc r.sa 64 fun a => withSrc r.sb 32 fun b =>
      .ok (.barExpect h a b)
  | 2 => need (r.sb == 0 && r.od == 2) <| withSrc r.sa 64 fun a => withDst r.dst 64 false fun d =>
      .ok (.barArrive h (BitVec.ofNat 6 r.sk) a d)
  | 3 => need (r.od == 2) <| withSrc r.sa 64 fun a => withSrc r.sb 32 fun b =>
      withDst r.dst 64 false fun d => .ok (.barArrivex h (BitVec.ofNat 6 r.sk) a b d)
  | 4 => need (zeros [r.sb, r.sk, r.od]) <| withSrc r.sa 64 fun a => withDst r.dst 64 false fun d =>
      .ok (.barPhase h a d)
  | _ => .illegal

/-- OP 0x48 (14 R398). -/
def decFence (h : Hdr) (r : RawE) : Dec Instr :=
  need (zeros [r.dst, r.sa, r.sb, r.od, r.fn16 % 4096]) <| withVal (fenceOf (r.fn16 / 4096)) fun k =>
    .ok (.fence h k (BitVec.ofNat 6 r.sk))

/-- OP 0x49, 0x4A (14 R399, R400). -/
def decScope (r : RawE) (k : BitVec 6 → Src → Dst → Instr) : Dec Instr :=
  need (zeros [r.sb, r.fn16, r.od]) <| withSrc r.sa 64 fun a => withDst r.dst 32 false fun d =>
    .ok (k (BitVec.ofNat 6 r.sk) a d)

/-- OP 0x4B to 0x4F (14 R402). -/
def decIcinv (h : Hdr) (r : RawE) : Dec Instr :=
  need (zeros [r.dst, r.fn16, r.od]) <| withSrc r.sa 64 fun a => withSrc r.sb 32 fun b =>
    .ok (.icinv h (BitVec.ofNat 6 r.sk) a b)
def decLine (r : RawE) (k : Bool → Src → Src → Instr) : Dec Instr :=
  need (zeros [r.dst, r.sk, r.od] && r.fn16 < 2) <| withSrc r.sa 64 fun a => withSrc r.sb 32 fun b =>
    .ok (k (r.fn16 == 1) a b)

/-- OP 0x50 to 0x5E (12 R326, 11 R298). -/
def decBra (h : Hdr) (r : RawB) : Dec Instr :=
  need (zeros [r.x1, r.sa]) <| .ok (.bra h (BitVec.ofNat 32 r.off))
def decBrx (h : Hdr) (r : RawB) : Dec Instr :=
  need (zeros [r.x1]) <| withSrc r.sa 64 fun a => .ok (.brx h a (BitVec.ofNat 32 r.off))
/-- X1 = D + HF with D = 8 to 128 in multiples of 8 (12 R329). -/
def demOf (x1 : Nat) : Option (Fin 16) := if x1 / 2 % 4 = 0 then finOf 16 (x1 / 8 - 1) else none
def decCall (h : Hdr) (r : RawB) : Dec Instr :=
  need (8 ≤ r.x1) <| withVal (demOf r.x1) fun k =>
    if r.x1 % 2 = 0 then need (r.sa == 0) <| .ok (.call h k none (BitVec.ofNat 32 r.off))
    else withSrc r.sa 32 fun a => .ok (.call h k (some a) (BitVec.ofNat 32 r.off))
def decCallx (h : Hdr) (r : RawB) : Dec Instr :=
  need (8 ≤ r.x1) <| withVal (demOf r.x1) fun k =>
    if r.x1 % 2 = 0 then need (r.off == 0) <| withSrc r.sa 64 fun a => .ok (.callx h k a none)
    else withSrc r.sa 64 fun a => .ok (.callx h k a (some (BitVec.ofNat 32 r.off)))
def decPlain (r : RawB) (i : Instr) : Dec Instr := need (zeros [r.x1, r.sa, r.off]) <| .ok i
def decLoop (h : Hdr) (r : RawB) : Dec Instr :=
  need (r.sa == 0 && r.off < 2 ^ 31) <| withSrc r.x1 32 fun a => .ok (.loop h a (BitVec.ofNat 31 r.off))
def decLbrk (h : Hdr) (r : RawB) : Dec Instr :=
  need (zeros [r.sa, r.off] && 1 ≤ r.x1) <| withVal (finOf 4 (r.x1 - 1)) fun k => .ok (.lbrk h k)
def decMacro (h : Hdr) (r : RawB) : Dec Instr :=
  need (r.off % 2 ^ 16 == 0) <| withSrc r.sa 32 fun p0 => withSrc (r.off / 2 ^ 24) 32 fun p1 =>
    withSrc (r.off / 2 ^ 16 % 256) 32 fun p2 => .ok (.macroOp h (BitVec.ofNat 8 r.x1) p0 p1 p2)
def decTrap (r : RawB) (k : BitVec 8 → Instr) : Dec Instr :=
  need (zeros [r.sa, r.off]) <| .ok (k (BitVec.ofNat 8 r.x1))
def decFrq (h : Hdr) (r : RawB) : Dec Instr :=
  need (r.off == 0 && r.x1 % 8 == 0) <| withVal (finOf 17 (r.x1 / 8)) fun k =>
    withDst r.sa 32 false fun d => .ok (.frq h k d)

/-- OP 0x60 to 0x67 (14 R404, R405; 15 R431, R441, R445). -/
def decAddr (r : RawE) (w : Nat) (k : Src → Instr) : Dec Instr :=
  need (zeros [r.dst, r.sb, r.fn16, r.sk, r.od]) <| withSrc r.sa w fun a => .ok (k a)
def decFmtbind (h : Hdr) (r : RawE) : Dec Instr :=
  need (zeros [r.sb, r.sk, r.od]) <| withVal (finOf 16 r.fn16) fun f => withSrc r.sa 32 fun a =>
    withDst r.dst 32 false fun d => .ok (.fmtbind h f a d)
def decFmtq (h : Hdr) (r : RawE) : Dec Instr :=
  need (zeros [r.sa, r.sb, r.sk, r.od]) <| withVal (finOf 16 r.fn16) fun f =>
    withDst r.dst 32 false fun d => .ok (.fmtq h f d)
def decFmtfence (h : Hdr) (r : RawE) : Dec Instr :=
  need (zeros [r.dst, r.sa, r.sb, r.fn16, r.sk, r.od]) <| .ok (.fmtfence h)

/-- OP 0x68 to 0x76 (15 R413). -/
def hOf (c : Nat) : BitVec 8 := BitVec.ofNat 8 c
def decTalloc (h : Hdr) (r : RawT) : Dec Instr :=
  need (zeros [r.ha, r.hb, r.fb, r.fc, r.rm, r.x]) <| withVal (finOf 16 r.fa) fun f =>
    withSrc r.sa 32 fun a => .ok (.talloc h (hOf r.hd) f a)
def decName (r : RawT) (k : BitVec 8 → Instr) : Dec Instr :=
  need (zeros [r.ha, r.hb, r.sa, r.fa, r.fb, r.fc, r.rm, r.x]) <| .ok (k (hOf r.hd))
def decNameSrc (r : RawT) (w : Nat) (k : BitVec 8 → Src → Instr) : Dec Instr :=
  need (zeros [r.ha, r.hb, r.fa, r.fb, r.fc, r.rm, r.x]) <| withSrc r.sa w fun a => .ok (k (hOf r.hd) a)
def decMma (h : Hdr) (r : RawT) : Dec Instr :=
  need (zeros [r.sa, r.x]) <| withVal (rmOf r.rm) fun m => withVal (finOf 16 r.fa) fun a =>
    withVal (finOf 16 r.fb) fun b => withVal (finOf 16 r.fc) fun c =>
      .ok (.mma h (hOf r.hd) (hOf r.ha) (hOf r.hb) a b c m)
def decTcvt (h : Hdr) (r : RawT) : Dec Instr :=
  need (zeros [r.hb, r.fc]) <| withVal (rmOf r.rm) fun m => withVal (finOf 16 r.fa) fun a =>
    withVal (finOf 16 r.fb) fun b => withSrc r.sa 32 fun s =>
      .ok (.tcvt h (hOf r.hd) (hOf r.ha) a b m (r.x == 1) s)
def decTtr (h : Hdr) (r : RawT) : Dec Instr :=
  need (zeros [r.hb, r.fa, r.fb, r.fc, r.rm, r.x]) <| withSrc r.sa 32 fun s =>
    .ok (.ttr h (hOf r.hd) (hOf r.ha) s)
def decTmem (r : RawT) (k : BitVec 8 → Fin 16 → Src → Instr) : Dec Instr :=
  need (zeros [r.ha, r.hb, r.fb, r.fc, r.rm, r.x]) <| withVal (finOf 16 r.fa) fun f =>
    withSrc r.sa 64 fun s => .ok (k (hOf r.hd) f s)

/-- The opcode map (R295); every OP it does not list is reserved (R291). -/
def decodeOp (op : Nat) (h : Hdr) (w : Nat) : Dec Instr :=
  match op with
  | 0x00 => decNop h (rawA w)
  | 0x01 => decInt h (rawA w)
  | 0x02 => decBits h (rawA w)
  | 0x03 => decLea h (rawA w)
  | 0x04 => decIsetp h (rawA w)
  | 0x05 => decSel h (rawA w)
  | 0x06 => decPlop h (rawA w)
  | 0x07 => decMov h (rawA w)
  | 0x08 => decMovi h (rawI w)
  | 0x09 => decAddi h (rawI w)
  | 0x0A => decMovh h (rawI w)
  | 0x0B => decGetsr h (rawI w)
  | 0x0C => decSetsr h (rawI w)
  | 0x0D => decRidx h (rawI w)
  | 0x0E => decWidx h (rawA w)
  | 0x0F => decDup h (rawA w)
  | 0x10 => decF2 (rawA w) (.fadd h)
  | 0x11 => decF2 (rawA w) (.fsub h)
  | 0x12 => decF2 (rawA w) (.fmul h)
  | 0x13 => decF3 (rawA w) (.ffma h)
  | 0x14 => decFmm (rawA w) (.fmin h)
  | 0x15 => decFmm (rawA w) (.fmax h)
  | 0x16 => decFsetp h (rawA w)
  | 0x17 => decFclass h (rawA w)
  | 0x18 => decFrnd h (rawA w)
  | 0x19 => decFsign h (rawA w)
  | 0x1A => decD2 (rawA w) (.dadd h)
  | 0x1B => decD2 (rawA w) (.dmul h)
  | 0x1C => decDfma h (rawA w)
  | 0x1D => decDsetp h (rawA w)
  | 0x1E => decHalf h (rawA w)
  | 0x20 => decSfu (rawA w) (.frcp h)
  | 0x21 => decSfu (rawA w) (.frsq h)
  | 0x22 => decSfu (rawA w) (.fsqrt h)
  | 0x23 => decSfu (rawA w) (.flog2 h)
  | 0x24 => decSfu (rawA w) (.fexp2 h)
  | 0x25 => decExp2s h (rawA w)
  | 0x26 => decTrig h (rawA w)
  | 0x27 => decSfu (rawA w) (.ftanh h)
  | 0x28 => decCvt h (rawA w)
  | 0x29 => decCvtSlot (rawA w) (.cvts h)
  | 0x2A => decCvtSlot (rawA w) (.cvtw h)
  | 0x2B => decPack h (rawA w)
  | 0x2C => decUnpk h (rawA w)
  | 0x30 => decShfl h (rawA w)
  | 0x31 => decVote h (rawA w)
  | 0x32 => decMatch h (rawA w)
  | 0x33 => decRedux h (rawA w)
  | 0x34 => decScan h (rawA w)
  | 0x35 => decJoin (rawA w) (.enrol h)
  | 0x36 => decJoin (rawA w) (.rejoin h)
  | 0x37 => decGroupq h (rawA w)
  | 0x38 => decLd h (rawM w)
  | 0x39 => decSt h (rawM w)
  | 0x3A => decLdx h (rawM w)
  | 0x3B => decStx h (rawM w)
  | 0x3C => decPref h (rawM w)
  | 0x40 => decAtom h (rawE w)
  | 0x41 => decRed h (rawE w)
  | 0x42 => decCtadd h (rawE w)
  | 0x43 => decCtwait h (rawE w)
  | 0x44 => decCtrd h (rawE w)
  | 0x45 => decBar h (rawE w)
  | 0x48 => decFence h (rawE w)
  | 0x49 => decScope (rawE w) (.scopew h)
  | 0x4A => decScope (rawE w) (.scoper h)
  | 0x4B => decIcinv h (rawE w)
  | 0x4C => decLine (rawE w) (.ipref h)
  | 0x4D => decLine (rawE w) (.ipin h)
  | 0x4E => decLine (rawE w) (.irel h)
  | 0x4F => decLine (rawE w) (.cwb h)
  | 0x50 => decBra h (rawB w)
  | 0x51 => decBrx h (rawB w)
  | 0x52 => decCall h (rawB w)
  | 0x53 => decCallx h (rawB w)
  | 0x54 => decPlain (rawB w) (.ret h)
  | 0x55 => decPlain (rawB w) (.unwind h)
  | 0x56 => decLoop h (rawB w)
  | 0x57 => decLbrk h (rawB w)
  | 0x58 => decPlain (rawB w) (.exit h)
  | 0x59 => decPlain (rawB w) (.yield h)
  | 0x5A => decMacro h (rawB w)
  | 0x5B => decTrap (rawB w) (.trap h)
  | 0x5C => decPlain (rawB w) (.rtt h)
  | 0x5D => decTrap (rawB w) (.bkpt h)
  | 0x5E => decFrq h (rawB w)
  | 0x60 => decAddr (rawE w) 64 (.migrate h)
  | 0x61 => decAddr (rawE w) 64 (.launch h)
  | 0x62 => decAddr (rawE w) 64 (.cpyk h)
  | 0x63 => decAddr (rawE w) 64 (.cprepl h)
  | 0x64 => decFmtbind h (rawE w)
  | 0x65 => decFmtq h (rawE w)
  | 0x66 => decFmtfence h (rawE w)
  | 0x67 => decAddr (rawE w) 32 (.psave h)
  | 0x68 => decTalloc h (rawT w)
  | 0x69 => decName (rawT w) (.trel h)
  | 0x6A => decNameSrc (rawT w) 32 (.thand h)
  | 0x6B => decNameSrc (rawT w) 64 (.twr h)
  | 0x6C => decNameSrc (rawT w) 32 (.trd h)
  | 0x6D => decName (rawT w) (.tzero h)
  | 0x6E => decMma h (rawT w)
  | 0x6F => decTcvt h (rawT w)
  | 0x70 => decNameSrc (rawT w) 64 (.thad h)
  | 0x71 => decTtr h (rawT w)
  | 0x72 => decTmem (rawT w) (.tld h)
  | 0x73 => decTmem (rawT w) (.tst h)
  | 0x74 => decTmem (rawT w) (.tldw h)
  | 0x75 => decName (rawT w) (.twait h)
  | 0x76 => decName (rawT w) (.tq h)
  | _ => .illegal

/-- The opcode of a word (R281). -/
def opOf (w : Nat) : Nat := bits w 56 7

/-- The instruction of a word, or the trap it takes at steps 1 to 3 of R290. -/
def decode (w : DWord) : Dec Instr := decodeOp (opOf w.toNat) (hdrOf w.toNat) w.toNat

/-- The fields of a store word, by the lowest bit of each, in which a placeholder is replaced (R300): the sources of
the word's format but the predicate selectors of `plop` and `vote`; format B and the opcodes of no format have none. -/
def placeFields (op : Nat) : List Nat :=
  if op = 0x06 then [20]
  else if op = 0x31 then [28, 20]
  else if 0x08 ≤ op ∧ op ≤ 0x0D then [36]
  else if op = 0x1F ∨ (0x2D ≤ op ∧ op ≤ 0x2F) then []
  else if op < 0x38 then [36, 28, 20]
  else if (0x3D ≤ op ∧ op ≤ 0x3F) ∨ op = 0x46 ∨ op = 0x47 then []
  else if op < 0x50 ∨ (0x60 ≤ op ∧ op ≤ 0x67) then [36, 28]
  else if 0x68 ≤ op ∧ op ≤ 0x76 then [20]
  else []

/-- A store word after substitution (R300, R301): 0x90, 0x91 and 0x92 are parameters 0, 1 and 2. -/
def substMacro (w p0 p1 p2 : Nat) : Nat :=
  (placeFields (opOf w)).foldl (fun v lo =>
    let c := bits w lo 8
    setBits v lo 8 (if c = 0x90 then p0 else if c = 0x91 then p1 else if c = 0x92 then p2 else c)) w

/-- A microprogram may not hold the operation (R300): format B, OP 0x60 to 0x67, the sequencer-only instructions,
`setsr` of a handler-only register. -/
def macroForbids (w : Nat) : Bool :=
  let op := opOf w
  decide ((0x50 ≤ op ∧ op ≤ 0x5E) ∨ (0x60 ≤ op ∧ op ≤ 0x67) ∨ (0x6E ≤ op ∧ op ≤ 0x71)
    ∨ (op = 0x0C ∧ 29 ≤ bits w 4 32 ∧ bits w 4 32 ≤ 31))

/-- The fields of a store word that hold no source code, where a placeholder is trap 0x02 (R300): the predicate
selectors of `plop` and `vote`, the handle names. -/
def nameFields (op : Nat) : List Nat :=
  if op = 0x06 then [36, 28] else if op = 0x31 then [36] else if 0x68 ≤ op ∧ op ≤ 0x76 then [44, 36, 28] else []

/-- Bits of `w` from `lo` hold a placeholder. -/
def placeholder (w lo : Nat) : Bool := 0x90 ≤ bits w lo 8 && bits w lo 8 ≤ 0x92

/-- A placeholder in a selector is no reserved selector (R300, R319): the checks of step 2 see a zero in its place. -/
def clearSelectors (w : Nat) : Nat :=
  if opOf w = 0x06 ∨ opOf w = 0x31 then
    (nameFields (opOf w)).foldl (fun v lo => if placeholder w lo then setBits v lo 8 0 else v) w
  else w

/-- The microprogram operation of a store word with the parameters of its `macro` word, and the word after
substitution (R300, R301). -/
def decodeStore (w p0 p1 p2 : Nat) : Dec Instr × DWord :=
  let v := substMacro w p0 p1 p2
  let r :=
    if macroForbids w then .illegal
    else
      match decode (BitVec.ofNat 64 (clearSelectors v)) with
      | .ok i => if (nameFields (opOf w)).any (placeholder w) then .operand else .ok i
      | x => x
  (r, BitVec.ofNat 64 v)

/-- The instruction the decoder reads from `w`, whose bits above `nbits` are zero. -/
def decodeTableWord (nbits w : Nat) : Option Instr :=
  match decode (BitVec.ofNat 64 (w % 2 ^ nbits)) with
  | .ok i => some i
  | _ => none

/-! The encoder, from the same tables. -/

/-- Words of `call` and `callx` (12 R329). -/
def x1Of (k : Fin 16) (hf : Bool) : Nat := demandOf k + b2n hf

/-- FN of the cross-lane instructions (13 R362). -/
def fnRp (f : Nat) (rp : BitVec 3) : Nat := f + rp.toNat * 16

/-- The word of an instruction; an event has none. -/
def encodeNat : Instr → Option Nat
  | .nop h => some (encA h 0x00 ⟨0, 0, 0, 0, 0, 0, 0, 0⟩)
  | .iadd h ty x a b d => some (encA h 0x01 ⟨d.code, a.code, b.code, 0, 0, ty.code, 0, b2n x⟩)
  | .isub h ty x a b d => some (encA h 0x01 ⟨d.code, a.code, b.code, 0, 1, ty.code, 0, b2n x⟩)
  | .imul h ty x a b d => some (encA h 0x01 ⟨d.code, a.code, b.code, 0, 2, ty.code, 0, b2n x⟩)
  | .imulhi h ty a b d => some (encA h 0x01 ⟨d.code, a.code, b.code, 0, 3, ty.code, 0, 0⟩)
  | .imad h ty x a b c d => some (encA h 0x01 ⟨d.code, a.code, b.code, c.code, 4, ty.code, 0, b2n x⟩)
  | .imin h ty a b d => some (encA h 0x01 ⟨d.code, a.code, b.code, 0, 5, ty.code, 0, 0⟩)
  | .imax h ty a b d => some (encA h 0x01 ⟨d.code, a.code, b.code, 0, 6, ty.code, 0, 0⟩)
  | .iabs h ty x a d => some (encA h 0x01 ⟨d.code, a.code, 0, 0, 7, ty.code, 0, b2n x⟩)
  | .idiv h ty a b d => some (encA h 0x01 ⟨d.code, a.code, b.code, 0, 8, ty.code, 0, 0⟩)
  | .irem h ty a b d => some (encA h 0x01 ⟨d.code, a.code, b.code, 0, 9, ty.code, 0, 0⟩)
  | .and h ty a b d => some (encA h 0x02 ⟨d.code, a.code, b.code, 0, 0, ty.code, 0, 0⟩)
  | .or h ty a b d => some (encA h 0x02 ⟨d.code, a.code, b.code, 0, 1, ty.code, 0, 0⟩)
  | .xor h ty a b d => some (encA h 0x02 ⟨d.code, a.code, b.code, 0, 2, ty.code, 0, 0⟩)
  | .not h ty a d => some (encA h 0x02 ⟨d.code, a.code, 0, 0, 3, ty.code, 0, 0⟩)
  | .shl h ty a b d => some (encA h 0x02 ⟨d.code, a.code, b.code, 0, 4, ty.code, 0, 0⟩)
  | .shr h ty a b d => some (encA h 0x02 ⟨d.code, a.code, b.code, 0, 5, ty.code, 0, 0⟩)
  | .sar h ty a b d => some (encA h 0x02 ⟨d.code, a.code, b.code, 0, 6, ty.code, 0, 0⟩)
  | .rotl h ty a b d => some (encA h 0x02 ⟨d.code, a.code, b.code, 0, 7, ty.code, 0, 0⟩)
  | .popc h ty a d => some (encA h 0x02 ⟨d.code, a.code, 0, 0, 8, ty.code, 0, 0⟩)
  | .clz h ty a d => some (encA h 0x02 ⟨d.code, a.code, 0, 0, 9, ty.code, 0, 0⟩)
  | .brev h ty a d => some (encA h 0x02 ⟨d.code, a.code, 0, 0, 10, ty.code, 0, 0⟩)
  | .bfe h ty x a b d => some (encA h 0x02 ⟨d.code, a.code, b.code, 0, 11, ty.code, 0, b2n x⟩)
  | .bfi h ty a b c d => some (encA h 0x02 ⟨d.code, a.code, b.code, c.code, 12, ty.code, 0, 0⟩)
  | .lea h k s a b d => some (encA h 0x03 ⟨d.code, a.code, b.code, 0, k.val, b2n (!s), 0, 0⟩)
  | .isetp h f ty a b d => some (encA h 0x04 ⟨d.code, a.code, b.code, 0, f.code, ty.code, 0, 0⟩)
  | .sel h ty p a b d => some (encA h 0x05 ⟨d.code, a.code, b.code, 0, p.code, ty.code, 0, 0⟩)
  | .plop h f x y d => some (encA h 0x06 ⟨d.code, x.code, y.code, 0, f.code, 0, 0, 0⟩)
  | .mov h ty a d => some (encA h 0x07 ⟨d.code, a.code, 0, 0, 0, ty.code, 0, 0⟩)
  | .movi h i d => some (encI h 0x08 ⟨d.code, 0, i.toNat⟩)
  | .addi h a i d => some (encI h 0x09 ⟨d.code, a.code, i.toNat⟩)
  | .movh h a i d => some (encI h 0x0A ⟨d.code, a.code, i.toNat⟩)
  | .getsr h i d => some (encI h 0x0B ⟨d.code, 0, i.val⟩)
  | .setsr h i a => some (encI h 0x0C ⟨0, a.code, i.val⟩)
  | .ridx h a i d => some (encI h 0x0D ⟨d.code, a.code, i.toNat⟩)
  | .widx h a b => some (encA h 0x0E ⟨0, a.code, b.code, 0, 0, 0, 0, 0⟩)
  | .dup h (.one a) d => some (encA h 0x0F ⟨d.code, a.code, 0, 0, 1, 0, 0, 0⟩)
  | .dup h (.two a b) d => some (encA h 0x0F ⟨d.code, a.code, b.code, 0, 2, 0, 0, 0⟩)
  | .dup h (.three a b c) d => some (encA h 0x0F ⟨d.code, a.code, b.code, c.code, 3, 0, 0, 0⟩)
  | .fadd h m a b d => some (encA h 0x10 ⟨d.code, a.code, b.code, 0, 0, 4, m.code, 0⟩)
  | .fsub h m a b d => some (encA h 0x11 ⟨d.code, a.code, b.code, 0, 0, 4, m.code, 0⟩)
  | .fmul h m a b d => some (encA h 0x12 ⟨d.code, a.code, b.code, 0, 0, 4, m.code, 0⟩)
  | .ffma h m a b c d => some (encA h 0x13 ⟨d.code, a.code, b.code, c.code, 0, 4, m.code, 0⟩)
  | .fmin h ty a b d => some (encA h 0x14 ⟨d.code, a.code, b.code, 0, 0, ty.code, 0, 0⟩)
  | .fmax h ty a b d => some (encA h 0x15 ⟨d.code, a.code, b.code, 0, 0, ty.code, 0, 0⟩)
  | .fsetp h f a b d => some (encA h 0x16 ⟨d.code, a.code, b.code, 0, f.code, 4, 0, 0⟩)
  | .fclass h ty a d => some (encA h 0x17 ⟨d.code, a.code, 0, 0, 0, ty.code, 0, 0⟩)
  | .frnd h ty m a d => some (encA h 0x18 ⟨d.code, a.code, 0, 0, 0, ty.code, m.code, 0⟩)
  | .fabs h ty a d => some (encA h 0x19 ⟨d.code, a.code, 0, 0, 0, ty.code, 0, 0⟩)
  | .fneg h ty a d => some (encA h 0x19 ⟨d.code, a.code, 0, 0, 1, ty.code, 0, 0⟩)
  | .fcopysign h ty a b d => some (encA h 0x19 ⟨d.code, a.code, b.code, 0, 2, ty.code, 0, 0⟩)
  | .fscale h ty m a b d => some (encA h 0x19 ⟨d.code, a.code, b.code, 0, 3, ty.code, m.code, 0⟩)
  | .fgetexp h ty a d => some (encA h 0x19 ⟨d.code, a.code, 0, 0, 4, ty.code, 0, 0⟩)
  | .fgetman h ty a d => some (encA h 0x19 ⟨d.code, a.code, 0, 0, 5, ty.code, 0, 0⟩)
  | .dadd h m a b d => some (encA h 0x1A ⟨d.code, a.code, b.code, 0, 0, 5, m.code, 0⟩)
  | .dmul h m a b d => some (encA h 0x1B ⟨d.code, a.code, b.code, 0, 0, 5, m.code, 0⟩)
  | .dfma h m a b c d => some (encA h 0x1C ⟨d.code, a.code, b.code, c.code, 0, 5, m.code, 0⟩)
  | .dsetp h f a b d => some (encA h 0x1D ⟨d.code, a.code, b.code, 0, f.code, 5, 0, 0⟩)
  | .hadd2 h ty m a b d => some (encA h 0x1E ⟨d.code, a.code, b.code, 0, 0, ty.code, m.code, 0⟩)
  | .hmul2 h ty m a b d => some (encA h 0x1E ⟨d.code, a.code, b.code, 0, 1, ty.code, m.code, 0⟩)
  | .hfma2 h ty m a b c d => some (encA h 0x1E ⟨d.code, a.code, b.code, c.code, 2, ty.code, m.code, 0⟩)
  | .frcp h a d => some (encA h 0x20 ⟨d.code, a.code, 0, 0, 0, 4, 0, 0⟩)
  | .frsq h a d => some (encA h 0x21 ⟨d.code, a.code, 0, 0, 0, 4, 0, 0⟩)
  | .fsqrt h a d => some (encA h 0x22 ⟨d.code, a.code, 0, 0, 0, 4, 0, 0⟩)
  | .flog2 h a d => some (encA h 0x23 ⟨d.code, a.code, 0, 0, 0, 4, 0, 0⟩)
  | .fexp2 h a d => some (encA h 0x24 ⟨d.code, a.code, 0, 0, 0, 4, 0, 0⟩)
  | .exp2s h a b c d => some (encA h 0x25 ⟨d.code, a.code, b.code, c.code, 0, 4, 0, 0⟩)
  | .fsin h a d => some (encA h 0x26 ⟨d.code, a.code, 0, 0, 0, 4, 0, 0⟩)
  | .fcos h a d => some (encA h 0x26 ⟨d.code, a.code, 0, 0, 1, 4, 0, 0⟩)
  | .ftanh h a d => some (encA h 0x27 ⟨d.code, a.code, 0, 0, 0, 4, 0, 0⟩)
  | .cvt h t m x a d => some (encA h 0x28 ⟨d.code, a.code, 0, 0, t.fn, 0, m.code, b2n x⟩)
  | .cvts h f t m x a none d => some (encA h 0x29 ⟨d.code, a.code, 0, 0, f.val, t.code, m.code, b2n x⟩)
  | .cvts h f t m x a (some k) d =>
      some (encA h 0x29 ⟨d.code, a.code, k.code, 0, 16 + f.val, t.code, m.code, b2n x⟩)
  | .cvtw h f t m x a none d => some (encA h 0x2A ⟨d.code, a.code, 0, 0, f.val, t.code, m.code, b2n x⟩)
  | .cvtw h f t m x a (some k) d =>
      some (encA h 0x2A ⟨d.code, a.code, k.code, 0, 16 + f.val, t.code, m.code, b2n x⟩)
  | .pack h ty m a b d => some (encA h 0x2B ⟨d.code, a.code, b.code, 0, 0, ty.code, m.code, 0⟩)
  | .unpk h ty a d => some (encA h 0x2C ⟨d.code, a.code, 0, 0, 0, ty.code, 0, 0⟩)
  | .shfl h f ty rp a b c d => some (encA h 0x30 ⟨d.code, a.code, b.code, c.code, fnRp f.code rp, ty.code, 0, 0⟩)
  | .vote h f rp p x c d => some (encA h 0x31 ⟨d.code, p.code, 0, c.code, fnRp f.code rp, 0, 0, b2n x⟩)
  | .matchLanes h ty rp a b c d => some (encA h 0x32 ⟨d.code, a.code, b.code, c.code, fnRp 0 rp, ty.code, 0, 0⟩)
  | .redux h f rp a b c d =>
      some (encA h 0x33 ⟨d.code, a.code, b.code, c.code, fnRp f.codes.1 rp, f.codes.2.1, f.codes.2.2, 0⟩)
  | .scan h f rp x a b c d =>
      some (encA h 0x34 ⟨d.code, a.code, b.code, c.code, fnRp f.codes.1 rp, f.codes.2.1, f.codes.2.2, b2n x⟩)
  | .enrol h j => some (encA h 0x35 ⟨0, 0, 0, 0, j.val, 0, 0, 0⟩)
  | .rejoin h j => some (encA h 0x36 ⟨0, 0, 0, 0, j.val, 0, 0, 0⟩)
  | .groupq h g d => some (encA h 0x37 ⟨d.code, 0, 0, 0, g.val, 0, 0, 0⟩)
  | .ld h z o k q a d => some (encM h 0x38 ⟨d.code, a.code, 0, o.toNat, z.code, k.toNat, b2n q⟩)
  | .st h z o k q a b => some (encM h 0x39 ⟨0, a.code, b.code, o.toNat, z.code, k.toNat, 2 * b2n q⟩)
  | .ldx h f o k q a d => some (encM h 0x3A ⟨d.code, a.code, 0, o.toNat, f.val, k.toNat, b2n q⟩)
  | .stx h f o k q a b => some (encM h 0x3B ⟨0, a.code, b.code, o.toNat, f.val, k.toNat, 2 * b2n q⟩)
  | .pref h z o k a => some (encM h 0x3C ⟨0, a.code, 0, o.toNat, z.code, k.toNat, 0⟩)
  | .atom h f k o a b d => some (encE h 0x40 ⟨d.code, a.code, b.code, f.fn16, k.toNat, o.code⟩)
  | .red h f k q a b => some (encE h 0x41 ⟨0, a.code, b.code, f.fn16, k.toNat, 2 * b2n q⟩)
  | .ctadd h k q a b => some (encE h 0x42 ⟨0, a.code, b.code, 0, k.toNat, 2 * b2n q⟩)
  | .ctwait h k none a b d => some (encE h 0x43 ⟨d.code, a.code, b.code, 0, k.toNat, 1⟩)
  | .ctwait h k (some t) a b d => some (encE h 0x43 ⟨d.code, a.code, b.code, 32768 + t.code, k.toNat, 1⟩)
  | .ctrd h k q a d => some (encE h 0x44 ⟨d.code, a.code, 0, 0, k.toNat, b2n q⟩)
  | .barInit h a b => some (encE h 0x45 ⟨0, a.code, b.code, 0 * 4096, 0, 0⟩)
  | .barExpect h a b => some (encE h 0x45 ⟨0, a.code, b.code, 1 * 4096, 0, 0⟩)
  | .barArrive h k a d => some (encE h 0x45 ⟨d.code, a.code, 0, 2 * 4096, k.toNat, 2⟩)
  | .barArrivex h k a b d => some (encE h 0x45 ⟨d.code, a.code, b.code, 3 * 4096, k.toNat, 2⟩)
  | .barPhase h a d => some (encE h 0x45 ⟨d.code, a.code, 0, 4 * 4096, 0, 0⟩)
  | .fence h f k => some (encE h 0x48 ⟨0, 0, 0, f.code * 4096, k.toNat, 0⟩)
  | .scopew h k a d => some (encE h 0x49 ⟨d.code, a.code, 0, 0, k.toNat, 0⟩)
  | .scoper h k a d => some (encE h 0x4A ⟨d.code, a.code, 0, 0, k.toNat, 0⟩)
  | .icinv h k a b => some (encE h 0x4B ⟨0, a.code, b.code, 0, k.toNat, 0⟩)
  | .ipref h l a b => some (encE h 0x4C ⟨0, a.code, b.code, b2n l, 0, 0⟩)
  | .ipin h l a b => some (encE h 0x4D ⟨0, a.code, b.code, b2n l, 0, 0⟩)
  | .irel h l a b => some (encE h 0x4E ⟨0, a.code, b.code, b2n l, 0, 0⟩)
  | .cwb h l a b => some (encE h 0x4F ⟨0, a.code, b.code, b2n l, 0, 0⟩)
  | .bra h o => some (encB h 0x50 ⟨0, 0, o.toNat⟩)
  | .brx h a o => some (encB h 0x51 ⟨0, a.code, o.toNat⟩)
  | .call h k none o => some (encB h 0x52 ⟨x1Of k false, 0, o.toNat⟩)
  | .call h k (some a) o => some (encB h 0x52 ⟨x1Of k true, a.code, o.toNat⟩)
  | .callx h k a none => some (encB h 0x53 ⟨x1Of k false, a.code, 0⟩)
  | .callx h k a (some o) => some (encB h 0x53 ⟨x1Of k true, a.code, o.toNat⟩)
  | .ret h => some (encB h 0x54 ⟨0, 0, 0⟩)
  | .unwind h => some (encB h 0x55 ⟨0, 0, 0⟩)
  | .loop h a o => some (encB h 0x56 ⟨a.code, 0, o.toNat⟩)
  | .lbrk h k => some (encB h 0x57 ⟨k.val + 1, 0, 0⟩)
  | .exit h => some (encB h 0x58 ⟨0, 0, 0⟩)
  | .yield h => some (encB h 0x59 ⟨0, 0, 0⟩)
  | .macroOp h i p0 p1 p2 => some (encB h 0x5A ⟨i.toNat, p0.code, p1.code * 2 ^ 24 + p2.code * 2 ^ 16⟩)
  | .trap h c => some (encB h 0x5B ⟨c.toNat, 0, 0⟩)
  | .rtt h => some (encB h 0x5C ⟨0, 0, 0⟩)
  | .bkpt h c => some (encB h 0x5D ⟨c.toNat, 0, 0⟩)
  | .frq h k d => some (encB h 0x5E ⟨8 * k.val, d.code, 0⟩)
  | .migrate h a => some (encE h 0x60 ⟨0, a.code, 0, 0, 0, 0⟩)
  | .launch h a => some (encE h 0x61 ⟨0, a.code, 0, 0, 0, 0⟩)
  | .cpyk h a => some (encE h 0x62 ⟨0, a.code, 0, 0, 0, 0⟩)
  | .cprepl h a => some (encE h 0x63 ⟨0, a.code, 0, 0, 0, 0⟩)
  | .fmtbind h f a d => some (encE h 0x64 ⟨d.code, a.code, 0, f.val, 0, 0⟩)
  | .fmtq h f d => some (encE h 0x65 ⟨d.code, 0, 0, f.val, 0, 0⟩)
  | .fmtfence h => some (encE h 0x66 ⟨0, 0, 0, 0, 0, 0⟩)
  | .psave h a => some (encE h 0x67 ⟨0, a.code, 0, 0, 0, 0⟩)
  | .talloc h n f a => some (encT h 0x68 ⟨n.toNat, 0, 0, a.code, f.val, 0, 0, 0, 0⟩)
  | .trel h n => some (encT h 0x69 ⟨n.toNat, 0, 0, 0, 0, 0, 0, 0, 0⟩)
  | .thand h n a => some (encT h 0x6A ⟨n.toNat, 0, 0, a.code, 0, 0, 0, 0, 0⟩)
  | .twr h n a => some (encT h 0x6B ⟨n.toNat, 0, 0, a.code, 0, 0, 0, 0, 0⟩)
  | .trd h n a => some (encT h 0x6C ⟨n.toNat, 0, 0, a.code, 0, 0, 0, 0, 0⟩)
  | .tzero h n => some (encT h 0x6D ⟨n.toNat, 0, 0, 0, 0, 0, 0, 0, 0⟩)
  | .mma h c a b fa fb fc m =>
      some (encT h 0x6E ⟨c.toNat, a.toNat, b.toNat, 0, fa.val, fb.val, fc.val, m.code, 0⟩)
  | .tcvt h n a fa fb m x s =>
      some (encT h 0x6F ⟨n.toNat, a.toNat, 0, s.code, fa.val, fb.val, 0, m.code, b2n x⟩)
  | .thad h n a => some (encT h 0x70 ⟨n.toNat, 0, 0, a.code, 0, 0, 0, 0, 0⟩)
  | .ttr h n a s => some (encT h 0x71 ⟨n.toNat, a.toNat, 0, s.code, 0, 0, 0, 0, 0⟩)
  | .tld h n f a => some (encT h 0x72 ⟨n.toNat, 0, 0, a.code, f.val, 0, 0, 0, 0⟩)
  | .tst h n f a => some (encT h 0x73 ⟨n.toNat, 0, 0, a.code, f.val, 0, 0, 0, 0⟩)
  | .tldw h n f a => some (encT h 0x74 ⟨n.toNat, 0, 0, a.code, f.val, 0, 0, 0, 0⟩)
  | .twait h n => some (encT h 0x75 ⟨n.toNat, 0, 0, 0, 0, 0, 0, 0, 0⟩)
  | .tq h n => some (encT h 0x76 ⟨n.toNat, 0, 0, 0, 0, 0, 0, 0, 0⟩)
  | .boot _ | .powerFailInput | .managementCheckpointCommand | .syncPulse _ | .dieLost _
  | .frequencyStep _ _ _ | .pllRelockEnd _ _ | .powerWindowOverCap | .pwrCapWrite _ | .trayPowerCap _
  | .crossDieTimeout _ _ | .dieGatingStart _ | .gatingComplete _ | .gatingAbandon _ | .dieWakeRequest _
  | .wakeComplete _ | .move _ | .migrationPhase2 _ _ | .migrationComplete _ _ | .olkLinkDown
  | .managementCommandFlit _ | .linkHealthFlit _ | .reservedSidebandFlit _ | .hostRead _ _ _ _
  | .hostWrite _ _ _ | .hostLockedOperation _ _ _ _ | .bisnpResponse _ _ | .bisnpResend _ | .bisnpTimeout _
  | .portTrained _ _ | .portStateChange _ _ | .remoteAccessArrival _ _ _ | .remoteRequestTimeout _ _
  | .sparseReducePairArrival _ _ _ _ _ _ | .create | .resize | .resizeComplete _ | .destroy
  | .destroyComplete _ | .deschedule | .descheduleSaved _ | .schedule | .setreg | .granuleZeroed _
  | .kick _ _ _ _ | .streamFetch _ _ | .marginCobLend _ _ | .revocation _ | .revocationReturn _
  | .regulatorWindow | .register | .retire | .drainComplete _ _ _ | .drainTimeout _ _ _ | .planeLoad _ _
  | .planeLoadComplete _ _ | .attestationRequest | .attestationKeyGeneration | .load | .unload
  | .placementPass _ | .blockingGridTimeout _ | .childWaitSwap _ | .launchEnd _ | .issueCycle _ _
  | .sliceCycleLimit _ _ _ | .sliceWallLimit _ _ _ | .watchdogExpiry _ | .deferredResultReturn _ _ _
  | .trapEntry _ | .preemptionRequest _ _ _ | .preemptionBudgetEnd _ _ _ | .saveComplete _ _ _
  | .frameGrant _ | .frameSpillEscape _ | .migrateTransfer _ | .invGo | .shootdownComplete
  | .scopeUpdateEffect _ _ _ | .ctwaitTimeout _ | .rejoinTimeout _ | .tileGranuleGrant _
  | .matrixEntryStart _ _ | .matrixEntryComplete _ | .copyElement _ | .copyRequestComplete _
  | .debugRegisterRead _ _ _ _ | .registerWrite _ _ | .sequencerIssue _ => none

/-- The encoder: the 64-bit word of an instruction. -/
def encode (i : Instr) : Option DWord := (encodeNat i).map (BitVec.ofNat 64)

end Sys2Proof
end

