-- ==== Sys2Proof/Config.lean ====
section
/-!
DEFINITION. What the spec leaves open, as constants without a body: nothing in Lean can evaluate one, so a
statement that holds holds for every value. The log entry of each is named in its docstring.
-/
namespace Sys2Proof.Config

/-- The next free value, numbered by the counter `State.free` (log 6). -/
opaque freeNat : Nat → Nat

/-- How far the copy of the reference time of the Husk of a die is ahead, in ticks modulo 3
(01 R25, log 20). -/
opaque refSkew : (die : Nat) → Nat

/-- The part's own `frcp`, accepted only within the bounds of 10 R280 and R450 (log 7). -/
opaque frcp : BitVec 32 → BitVec 32
/-- The part's own `frsq` (10 R280, R450, log 7). -/
opaque frsq : BitVec 32 → BitVec 32
/-- The part's own `flog2` (10 R280, log 7). -/
opaque flog2 : BitVec 32 → BitVec 32
/-- The part's own `fsin` (10 R280, log 7). -/
opaque fsin : BitVec 32 → BitVec 32
/-- The part's own `fcos` (10 R280, log 7). -/
opaque fcos : BitVec 32 → BitVec 32
/-- The part's own `ftanh` (10 R280, log 7). -/
opaque ftanh : BitVec 32 → BitVec 32

/-- The secret start of hash chain `i` of leaf `leaf` of attestation key `g`, derived from the fused device secret
(04 R106, log 9). -/
opaque attSecret : (g leaf i : Nat) → BitVec 256
/-- The public seed of attestation key `g` (04 R95, R106, log 9). -/
opaque attSeed : (g : Nat) → BitVec 256
/-- The secret of attestation key `g` from which the random bytes of a signature come (04 R95, R106, log 9). -/
opaque attPrf : (g : Nat) → BitVec 256

/-- The image hash of vendor image `n` (04 R90, log 16). -/
opaque vendorHash : Nat → BitVec 256
/-- The signer leaf of vendor image `n` (04 R90, log 16). -/
opaque vendorLeaf : Nat → BitVec 20
/-- The key identity of the Fjarrun image key (04 R90, R96, log 16). -/
opaque vendorKey : BitVec 256

/-- The OID of XMSS-SHAKE256_20_256 in the first bytes of a public key (04 R95; PRESUMED from NIST SP 800-208, log 9). -/
def xmssOid : BitVec 32 := 0x00000012

/-- The SHAKE256 firmware hash of the attestation report (04 R108, log 17). -/
opaque firmwareHash : BitVec 256
/-- The bytes of the capability table that reports some words (01 R1, R36, log 17). -/
opaque capabilityBytes : (words : List Nat) → List (BitVec 8)

end Sys2Proof.Config
end

