-- ==== Sys2Proof/Machine/Tab.lean ====
section
/-!
DEFINITION. Finite tables: lists of (key, value) pairs in rising order of keys.
-/
namespace Sys2Proof.Machine

/-- A table from numbers to values. -/
abbrev Tab (α : Type) := List (Nat × α)

/-- The value at a key. -/
def tget {α : Type} : Tab α → Nat → Option α
  | [], _ => none
  | (k, v) :: t, i => if i = k then some v else tget t i

/-- The value at a key, or a default. -/
def tgetD {α : Type} (t : Tab α) (i : Nat) (d : α) : α := (tget t i).getD d

/-- The table with a value put at a key, in the rising order of keys. -/
def tset {α : Type} : Tab α → Nat → α → Tab α
  | [], i, x => [(i, x)]
  | (k, v) :: t, i, x =>
    if i = k then (i, x) :: t
    else if i < k then (i, x) :: (k, v) :: t
    else (k, v) :: tset t i x

/-- The table without a key. -/
def tdel {α : Type} : Tab α → Nat → Tab α
  | [], _ => []
  | (k, v) :: t, i => if i = k then tdel t i else (k, v) :: tdel t i

/-- The table with the value at a key changed, where there is one. -/
def tmod {α : Type} (t : Tab α) (i : Nat) (f : α → α) : Tab α :=
  match tget t i with
  | some x => tset t i (f x)
  | none => t

/-- The keys whose values satisfy a test, in rising order. -/
def tkeys {α : Type} (t : Tab α) (p : α → Bool) : List Nat :=
  (t.filter fun e => p e.2).map (·.1)

/-- The first entry whose value satisfies a test. -/
def tfind {α : Type} (t : Tab α) (p : Nat → α → Bool) : Option (Nat × α) :=
  t.find? fun e => p e.1 e.2

/-- Every value changed. -/
def tmap {α : Type} (t : Tab α) (f : Nat → α → α) : Tab α := t.map fun e => (e.1, f e.1 e.2)

end Sys2Proof.Machine
end

