-- ==== Sys2Proof/Machine/Types.lean ====
section
/-!
DEFINITION. The parts of the machine's state as plain data: threads and sequencer contexts, grids, teams,
cores, cobs, dies, virtual devices, images, tiles, copy requests.
Each field's docstring names the rule that gives the state.
-/
namespace Sys2Proof.Machine

/-- A place in storage: a byte of physical memory, or of a core's scratchpad (08 R212, R215). -/
inductive Loc where
  | mem (pa : Nat)
  | scr (core off : Nat)
  deriving DecidableEq, Repr

/-- An iterator record (15 R420). -/
structure Iter where
  base : Nat := 0
  shape : List Nat := [1, 1, 1, 1]
  stride : List Int := [1, 0, 0, 0]
  index : List Nat := [0, 0, 0, 0]
  bcast : Nat := 0
  slot : Nat := 0
  hdren : Bool := false
  hdr : Nat := 0
  /-- SCALE and EXTRA of the tensor header when HDREN is 1 (10 R268). -/
  scale : Word := 0
  extra : Word := 0x80000000
  deriving DecidableEq, Repr

/-- A window record with the shape and strides of its header (15 R423). -/
structure Win where
  base : Nat := 0
  fw : Nat := 1
  fh : Nat := 1
  sx : Nat := 1
  sy : Nat := 1
  dx : Nat := 1
  dy : Nat := 1
  padx : Nat := 0
  pady : Nat := 0
  padv : Nat := 0
  ow : Nat := 1
  oh : Nat := 1
  row0 : Nat := 0
  col0 : Nat := 0
  /-- (C, W, H, N) and (sC, sW, sH, sN) of the header. -/
  shape : List Nat := [1, 1, 1, 1]
  stride : List Int := [1, 0, 0, 0]
  extra : Word := 0x80000000
  deriving DecidableEq, Repr

/-- The descriptor of a number format (04 R92); kind 0 FLOAT, 1 INT, 2 BLOCK, 3 CODEBOOK. -/
structure Fmt where
  w : Nat := 32
  kind : Nat := 0
  sign : Bool := true
  subn : Bool := true
  inf : Nat := 1
  nanp : Nat := 1
  eb : Nat := 8
  mb : Nat := 23
  bias : Int := 127
  nz : Bool := false
  nse : Nat := 0
  codebook : List Nat := []
  deriving DecidableEq, Repr

/-- An access as data, so that a parked, snooped, held or remote access can be performed later
(07 R163, 02 R48, 03 R76, 02 R55). -/
inductive Acc where
  | load (va n : Nat) (sx : Bool)
  | store (va : Nat) (data : List Byte) (rel : Bool)
  | elemLd (b w : Nat)
  | elemSt (b w code : Nat) (rel : Bool)
  | rmw (f : AtomOp) (va v cmp : Nat) (rel : Bool)
  | ctadd (va v : Nat) (rel : Bool)
  | ctrd (va : Nat)
  /-- a prefetch of the line at an address: only its traffic can be seen (14 R385) -/
  | pref (va : Nat)
  | tileLd (it : Iter) (buf img slot : Nat)
  | tileSt (it : Iter) (buf img slot data : Nat)
  | tileWin (w : Win) (buf img slot : Nat)
  deriving DecidableEq, Repr

/-- One entry of the result queue (08 R189): its word, and the outstanding operation and word index that
will fill it while it is pending. -/
structure QEnt where
  val : Word := 0
  pend : Option (Nat × Nat) := none
  deriving DecidableEq, Repr

/-- A resident frame with its link record (08 R195 to R197). -/
structure Frame where
  uid : Nat
  ret : DWord
  dem : Nat
  hf : Bool
  trf : Bool
  land : Word
  regs : List Word
  gran : List Nat
  deriving DecidableEq, Repr

/-- What the spill engine keeps of an evicted frame (08 R203). -/
structure EvFrame where
  uid : Nat
  dem : Nat
  hf : Bool
  trf : Bool
  deriving DecidableEq, Repr

/-- A loop-stack entry (12 R334). -/
structure Loop where
  start : DWord
  len : Nat
  count : Word
  deriving DecidableEq, Repr

/-- A microprogram in progress (11 R299): its index, the next operation, the guard and settle marker of the
`macro` word, its three parameters; `check` marks a resumption by `rtt` at a tagged PC (R301). -/
structure MacRun where
  idx : Nat
  j : Nat
  gp : BitVec 3
  gn : Bool
  settle : Bool
  p0 : Nat
  p1 : Nat
  p2 : Nat
  check : Bool
  deriving DecidableEq, Repr

/-- A fault to deliver (07 R161); a missing resume point is the next instruction to issue. -/
structure FaultInfo where
  cause : Nat
  repl : Bool := false
  eng : Bool := false
  pc : DWord := 0
  resume : Option DWord := none
  addr : DWord := 0
  iword : DWord := 0
  index : List Nat := [0, 0, 0, 0]
  /-- MGP and MGN for a fault outside the microprogram in progress: the guard of the `macro` word whose operation
  faulted, 7 where the fault is outside a microprogram (07 R169, log 55) -/
  guard : Nat := 7
  deriving DecidableEq, Repr

/-- A completion or engine fault not yet delivered, with the order of its instruction (07 R162, R167). -/
structure Fail where
  order : Nat
  /-- due at the next instruction boundary (07 R167, 14 R377) -/
  due : Bool := false
  info : FaultInfo
  deriving DecidableEq, Repr

/-- The status of an outstanding deferred result or access. -/
inductive OpSt where
  /-- the value is fixed and returns by DEFERRED_RESULT_RETURN (08 R192) -/
  | ready (ws : List Word)
  /-- parked in the fault buffer of a die, with the virtual address that faulted (07 R163) -/
  | parked (die addr : Nat)
  /-- waiting at its walker because that fault buffer is full (07 R163) -/
  | walker (die addr : Nat)
  /-- waiting for the answer to a back-invalidate snoop of a line (02 R48) -/
  | snoop (line : Nat)
  /-- waiting for a regulator: in the queue of a site, or outside it while it is full (03 R76) -/
  | regul (site : Nat) (inQueue : Bool)
  /-- sent to a peer device over the scale-up ports, by the port that carries it (02 R55) -/
  | remote (dev port : Nat)
  /-- held by a migration of its page (01 R20), or to be tried again -/
  | held
  deriving DecidableEq, Repr

/-- What an access that waits has come to: the units of a tile access that it has moved; the parts of the range it has
asked peers for, each at a peer or here, with its address and bytes; the bytes that lie here (14 R383, 15 R424). -/
structure Left where
  pos : Nat := 0
  far : List (Option Nat × Nat × Nat) := []
  here : List Byte := []
  deriving DecidableEq, Repr

/-- An outstanding deferred result or access of an agent (08 R192). -/
structure Op where
  id : Nat
  pc : DWord
  iword : DWord
  /-- queue words reserved -/
  words : Nat
  /-- frame (by its identity) and first register a DST names -/
  regw : Option (Nat × Nat)
  /-- predicates written when the result lands, in order -/
  preds : List (Nat × Bool)
  /-- DST 0xFF: outstanding for the settle wait without a slot (11 R289) -/
  silent : Bool
  /-- the agent does not issue past the next instruction while this access is parked (14 R377) -/
  stop : Bool
  /-- an acquire: later accesses wait for its value (14 R378) -/
  acq : Bool
  st : OpSt
  acc : Option Acc
  since : Nat
  /-- scope entry whose update waits until this operation has performed (09 R234) -/
  scope : Option Nat := none
  /-- detached by a save: the agent does not issue until it has performed (07 R184, R185) -/
  det : Bool := false
  /-- guard of the `macro` word whose operation it is, 7 for none (07 R169) -/
  guard : Nat := 7
  left : Left := {}
  deriving DecidableEq, Repr

/-- An access the part makes for an instruction, a stream or a launch, of bytes that are no result: a record, a trap save
area, a frame, a counter it looks at. It waits like an outstanding one: what for, since when, the cause with which
it has failed (01 R26, 02 R52, R55, R56), and what a peer has answered. -/
structure Own where
  va : Nat
  n : Nat
  wr : Bool
  st : OpSt
  since : Nat
  dead : Option Nat := none
  data : Option (List Byte) := none
  /-- the parts of its range, where peers have been asked -/
  far : List (Option Nat × Nat × Nat) := []
  /-- the landing of a deferred result in an evicted frame: it outlives the instruction it waits beside (11 R293) -/
  late : Bool := false
  deriving DecidableEq, Repr

/-- What peers have answered for one access of a unit of a copy request: its address, whether it writes, the parts of its
range with the bytes that lie here, and the answer. -/
structure FarAns where
  va : Nat
  wr : Bool
  left : Left
  data : List Byte
  deriving DecidableEq, Repr

/-- An armed `ctwait` (09 R248): the word, threshold, scope, arming time and timeout; `hit` is the value of
the write that satisfied it. -/
structure CtArm where
  loc : Loc
  va : Nat
  thr : Nat
  sk : Nat
  since : Nat
  limit : Option Nat
  hit : Option Nat
  /-- when that write performed (06 R146), and the cause with which the scope entry then denied the acquire, 0 for none
  (09 R235) -/
  hitAt : Nat := 0
  denied : Nat := 0
  deriving DecidableEq, Repr

/-- A frame pool: the general or landing pool of a lane, or a sequencer context's own (08 R195, 12 R331). -/
inductive Pool where
  | lane (core pip lane : Nat) (landing : Bool)
  | seq (agent : Nat)
  deriving DecidableEq, Repr

/-- A frame request that waits (08 R198): its pool, the granules wanted, whether the agent's own resident
granules count as available, and its place in the order of waiting. -/
structure FReq where
  pool : Pool
  want : Nat
  own : Bool
  since : Nat
  /-- pip cycles waited without a granule freed (08 R202) -/
  cycles : Nat := 0
  /-- granules granted and held for the request -/
  held : List Nat := []
  /-- operands the waiting instruction has read -/
  args : List Nat := []
  deriving DecidableEq, Repr

/-- State of a tile buffer (15 R409); kind 0 is the sequencer, 1 the threads. -/
inductive TSt where
  | filling (n recv : Nat)
  | ready (owner : Nat)
  | busy
  deriving DecidableEq, Repr

/-- A tile buffer (15 R408, R412). -/
structure Buf where
  cob : Nat
  pod : Nat
  acc : Bool
  data : Nat := 0
  extra : Word := 0x80000000
  cw : Nat := 0
  blk : Bool := false
  st : TSt
  /-- a granule of it holds an uncorrectable error (07 R175) -/
  bad : Bool := false
  deriving DecidableEq, Repr

/-- The four matrix instructions (15 R425 to R428). -/
inductive MKind where
  | mma | tcvt | thad | ttr
  deriving DecidableEq, Repr

/-- An entry of a matrix queue (15 R429): resolved buffers and handle names, captured images. -/
structure MEnt where
  id : Nat
  kind : MKind
  hd : Nat
  ha : Nat
  hb : Nat
  hdN : Nat
  haN : Nat
  hbN : Nat
  imgA : Nat
  imgB : Nat
  imgC : Nat
  slots : List Nat
  rm : RM
  sat : Bool
  col : Nat
  seed : Nat
  array : Option Nat
  pc : DWord
  iword : DWord
  /-- an operand was damaged when the entry started: what it leaves is undefined (07 R175) -/
  hurt : Bool := false
  deriving DecidableEq, Repr

/-- Who an agent is (08 R188): a sequencer context has `tid` its context index. -/
structure Ident where
  seq : Bool := false
  vd : Nat := 0
  ctx : Nat := 0
  grid : Nat := 0
  team : Nat := 0
  pod : Nat := 0
  tid : Nat := 0
  deriving DecidableEq, Repr

/-- Where an agent runs (08 R188, 06 R142); `away` marks a landing slot off the team's die, `out` an agent
that is saved or swapped out. -/
structure Pos where
  core : Nat := 0
  pip : Nat := 0
  lane : Nat := 0
  slot : Nat := 0
  away : Bool := false
  out : Bool := false
  deriving DecidableEq, Repr

/-- The architectural registers of an agent (08 R188). -/
structure Arch where
  pc : DWord := 0
  queue : List QEnt := List.replicate 16 {}
  frames : List Frame := []
  evicted : List EvFrame := []
  spill : Nat := 0
  preds : BitVec 7 := 0
  loops : List Loop := []
  joins : List (BitVec 16) := [0, 0, 0, 0]
  mac : Option MacRun := none
  trapcause : Word := 0
  trappc : DWord := 0
  trapaddr : DWord := 0
  deriving DecidableEq, Repr

/-- One trap the agent is handling (07 R168 to R173): the cause and PC the part wrote, whether the handler
has declared its copy, whether the interrupted code was in a settle wait. -/
structure TrapEnt where
  cause : Nat
  pc : DWord
  declared : Bool
  settle : Bool
  /-- queue entries pending on parked accesses at entry: the operation and its word (07 R171) -/
  pend : Tab (Nat × Nat) := []
  deriving DecidableEq, Repr

/-- Faults of an agent that are due (07 R162, R167): `due` the issue fault at the boundary, `trapping` a trap
being entered. -/
structure Faults where
  entries : List TrapEnt := []
  trapping : Bool := false
  due : Option FaultInfo := none
  fails : List Fail := []
  engine : List Fail := []
  wdog : Bool := false
  pre : Bool := false
  deriving DecidableEq, Repr

/-- Waits and outstanding work of an agent. -/
structure Pend where
  ops : List Op := []
  /-- accesses of its own that wait or that a peer has answered -/
  own : List Own := []
  settle : Bool := false
  ct : Option CtArm := none
  freq : Option FReq := none
  /-- `rejoin` in progress: its join slot, its start in clocks of the island, its settle marker (13 R372) -/
  rejoin : Option (Nat × Nat × Bool) := none
  /-- `fmtfence` in progress: rebinds accepted before this stamp hold it (15 R444) -/
  fence : Option Nat := none
  /-- `talloc` waiting for granules: name, slot, control, settle marker (15 R412) -/
  talloc : Option (Nat × Nat × Nat × Bool) := none
  /-- target die of a `migrate` that waits, and the address it names (08 R208, R209) -/
  mig : Option (Nat × Nat) := none
  /-- accesses of an instruction held at issue: the agent waits for this die to wake -/
  wake : Bool := false
  mq : List MEnt := []
  deriving DecidableEq, Repr

/-- The thread at a lane of the row has executed the cross-lane instruction at a PC, in a depth of handlers, `n` times more
than the thread that keeps this (13 R361, log 21). -/
structure Came where
  depth : Nat
  pc : Nat
  lane : Nat
  n : Nat
  deriving DecidableEq, Repr

/-- Scheduling data of an agent (06 R148 to R151, 07 R178, R179). -/
structure Sched where
  age : Nat := 0
  yielded : Bool := false
  /-- its last attempt to issue only waited (log 10) -/
  polled : Bool := false
  gmask : BitVec 16 := 0
  covered : Bool := false
  psaved : Option Nat := none
  /-- the threads of its row that have passed a cross-lane instruction before it (06 R152, 13 R361, log 21) -/
  came : List Came := []
  /-- save page of a landing thread saved alone, and its tag (07 R180, R181, R186) -/
  page : Option (Nat × Nat) := none
  deriving DecidableEq, Repr

/-- A thread or a sequencer context. -/
structure Agent where
  id : Ident := {}
  pos : Pos := {}
  arch : Arch := {}
  flt : Faults := {}
  pend : Pend := {}
  sched : Sched := {}
  deriving DecidableEq, Repr

/-- The fields of a launch record (05 R121). -/
structure LRec where
  va : Nat := 0
  seq : Bool := false
  pod : Bool := false
  acq : Bool := false
  rel : Bool := false
  ascope : Nat := 0
  rscope : Nat := 0
  prio : Nat := 0
  ctx : Nat := 0
  code : Nat := 0
  entry : Nat := 0
  sentry : Nat := 0
  gx : Nat := 1
  gy : Nat := 1
  gz : Nat := 1
  tx : Nat := 1
  ty : Nat := 1
  tz : Nat := 1
  demand : Nat := 8
  podsz : Nat := 0
  scratch : Nat := 0
  spill : Nat := 0
  spillb : Nat := 256
  affin : Nat := 0
  slots : Nat := 0
  argp : Nat := 0
  argb : Nat := 0
  ncores : Nat := 0
  waits : List (Nat × Nat) := []
  sigs : List (Nat × Nat) := []
  fail : Nat × Nat := (0, 0)
  done : Nat := 0
  /-- every reserved bit is zero -/
  reserved : Bool := true
  deriving DecidableEq, Repr

/-- Where a launch stands (06 R135 to R144, 05 R126). -/
inductive GridSt where
  | waiting | ready | running | ending
  deriving DecidableEq, Repr

/-- A grid: an admitted launch from its fetch to its end. -/
structure Grid where
  vd : Nat := 0
  fctx : Nat := 0
  lrec : LRec := {}
  stream : Option Nat := none
  parent : Option Nat := none
  /-- the team whose leader launched it (06 R146) -/
  pteam : Nat := 0
  /-- die whose child records count this launch until it dispatches (14 R406) -/
  childDie : Option Nat := none
  depth : Nat := 0
  st : GridSt := .waiting
  /-- wait entries met so far, bit i for entry i (06 R136) -/
  met : Nat := 0
  /-- wait entries examined so far; those armed at their counters, with their places -/
  looked : Nat := 0
  arms : List (Nat × Loc) := []
  /-- counters and completion places it waits for -/
  own : List Own := []
  readyAt : Nat := 0
  /-- its acquire waits for an update of its scope entry: none of its threads issues before (06 R137, 09 R233) -/
  acqWait : Bool := false
  /-- next unit (team, or pod group) to place (06 R139) -/
  next : Nat := 0
  placed : Bool := false
  lastDie : Option Nat := none
  tried : Option Nat := none
  blocking : Bool := false
  good : Nat := 0
  ncores : Nat := 0
  obj : Nat := 0
  /-- the trap vector (05 R131): handler entry and HDEMAND -/
  vector : Option (Nat × Nat) := none
  /-- status, cause and PC of the first failure (05 R128) -/
  failed : Option (Nat × Nat × DWord) := none
  /-- watchdog count in 16.16 fixed point (06 R158) -/
  wdog : Nat := 0
  parentCore : Nat := 0
  deriving DecidableEq, Repr

/-- Whether a unit is on a core, saved, or swapped out in child wait. -/
inductive Place where
  | resident | saved | swapped
  deriving DecidableEq, Repr

/-- A team (06 R140 to R144). -/
structure Team where
  grid : Nat
  n : Nat
  pod : Nat
  core : Nat
  base : Nat
  units : Nat
  scr : Nat
  place : Place
  live : Nat
  /-- every thread so far ended by `exit` -/
  clean : Bool
  /-- ended: its resources have returned to the core (06 R144) -/
  done : Bool
  since : Nat
  /-- scratchpad bytes of a team saved or swapped out -/
  image : List Byte
  /-- its save pages, each with its tag (07 R180, R181) -/
  pages : List (Nat × Nat)
  /-- when the last of its threads to end ended (06 R146) -/
  endAt : Nat := 0
  deriving DecidableEq, Repr

/-- A pod group (06 R143, 15 R407): its handle names and the buffer each is bound to. -/
structure Pod where
  grid : Nat
  k : Nat
  vd : Nat
  ctx : Nat
  cob : Nat
  seq : Option Nat
  /-- a sequencer context that ended by `exit`, or that the group never had -/
  seqClean : Bool
  names : Tab Nat
  /-- the group's tile store is saved -/
  out : Bool
  /-- save page of its sequencer context, with its tag (07 R180, R181) -/
  pages : List (Nat × Nat)
  /-- when its save completed (06 R138) -/
  since : Nat := 0
  /-- the sequencer context of its cob that it holds from its placement to its end (06 R144, 15 R430) -/
  held : Option Nat := none
  deriving DecidableEq, Repr

/-- A group of a pip that waits for a register bank port (06 R149): its threads, its class, the pip cycles it has
waited. -/
structure PortWait where
  group : List Nat
  mem : Bool
  waited : Nat
  deriving DecidableEq, Repr

/-- One row of a pip (06 R147, R150). -/
structure Row where
  active : Bool
  idle : Nat
  unissued : Nat
  deriving DecidableEq, Repr

/-- A line held by an instruction cache (09 R256). -/
structure ILine where
  vd : Nat
  ctx : Nat
  va : Nat
  bytes : List Byte
  deriving DecidableEq, Repr

/-- A pinned code range of a level (14 R402, R403): level 0 a core's instruction cache, 1 a die's L2. -/
structure Pin where
  l1 : Bool
  vd : Nat
  ctx : Nat
  va : Nat
  obj : Nat
  deriving DecidableEq, Repr

/-- A core (06 R141, 11 R297). -/
structure CoreSt where
  /-- scratchpad split in bytes; 0 while the core holds no team -/
  split : Nat := 0
  /-- object (device, number) whose microprograms the store holds, and the 2,048 words -/
  macObj : Option (Nat × Nat) := none
  store : List DWord := []
  icache : List ILine := []
  pins : List Pin := []
  deriving DecidableEq, Repr

/-- A configuration plane (04 R104). -/
structure Plane where
  img : Option Nat := none
  used : Nat := 0
  loading : Bool := false
  /-- the waiting operation (agent) it is reserved for -/
  reserved : Option Nat := none
  deriving DecidableEq, Repr

/-- Revocation of a lent cob (03 R74). -/
inductive Lend where
  | own
  | lent (v : Nat)
  | revoking (v t0 : Nat)
  deriving DecidableEq, Repr

/-- A cob: planes, lending, waiting `talloc` requests (03 R73, 04 R104, 15 R412). -/
structure CobSt where
  lend : Lend := .own
  idleSince : Nat := 0
  planes : List Plane := List.replicate 16 {}
  /-- operations waiting for planes, oldest first, with the images each needs (04 R104) -/
  waitOps : List (Nat × List Nat) := []
  tallocQ : List Nat := []
  /-- clock of the island at which its sequencer last issued (15 R430) -/
  seqAt : Option Nat := none
  clockUse : Nat := 0
  deriving DecidableEq, Repr

/-- Parts of a tick in which the clocks of every legal frequency are whole: the least common multiple of 6 to 24. -/
def tickUnit : Nat := 5354228880

/-- One of the two core islands of a die (01 R23, 08 R222). -/
structure Island where
  mhz : Nat := 1800
  relock : Bool := false
  /-- when its relock ends (01 R24) -/
  till : Nat := 0
  cyc : Nat := 0
  /-- 48.16 fixed point -/
  ncyc : Nat := 0
  /-- how far it has been clocked since the last synchronisation pulse, in `tickUnit`s of a tick (log 1) -/
  done : Nat := 0
  /-- frequency before the cap lowered it, 0 where it has not (03 R89) -/
  full : Nat := 0
  deriving DecidableEq, Repr

/-- The length of a clock of an island. -/
def Island.period (x : Island) : Nat := tickUnit * 100 / x.mhz

/-- Gating states (01 R28). -/
inductive GateSt where
  | on | gating | gated | waking
  deriving DecidableEq, Repr

/-- A migration move in progress (01 R19, R20). -/
structure Mig where
  ring : Nat
  recAt : Nat
  pgsz : Nat
  vd : Nat
  src : Nat
  dst : Nat
  leaf : Nat
  ctr : Nat
  phase : Nat
  /-- 4 KiB blocks of SRC written during phase 1 -/
  log : List Nat
  status : Nat
  /-- the line it waits for at the host, and whether the host has never given it up (02 R48, R52) -/
  wait : Option Nat := none
  dead : Bool := false
  deriving DecidableEq, Repr

/-- A compute die (01 R9, R28; the ring registers and moves of an F-die, R18 to R21). -/
structure Die where
  gate : GateSt := .gated
  lost : Bool := false
  missed : Nat := 0
  islA : Island := {}
  islB : Island := {}
  ringBase : Nat := 0
  ringHead : Nat := 0
  ringTail : Nat := 0
  /-- the line at the host that the next command of the ring waits for; whether the host has never given it up -/
  ringWait : Option Nat := none
  ringDead : Bool := false
  migs : Tab Mig := []
  l2pins : List Pin := []
  deriving DecidableEq, Repr

/-- States of a scope entry (09 R229). -/
inductive ScSt where
  | invalid | valid | pending
  deriving DecidableEq, Repr

/-- A scope-table entry (09 R229, R234): the current definition and the accepted one. -/
structure ScEnt where
  gen : Nat := 0
  st : ScSt := .invalid
  was : ScSt := .invalid
  members : Nat := 0
  meet : Nat := 0
  site : Nat := 0
  nmembers : Nat := 0
  nmeet : Nat := 0
  nsite : Nat := 0
  nvalid : Bool := false
  deriving DecidableEq, Repr

/-- A format slot (04 R102): state 0 UNBOUND, 1 BOUND, 2 REBINDING; while REBINDING, the old image, whether
the drain has ended, its start and its stamp of acceptance, and the binds that wait behind it with theirs. -/
structure SlotB where
  st : Nat := 0
  img : Nat := 0
  old : Option Nat := none
  drained : Bool := false
  since : Nat := 0
  stamp : Nat := 0
  more : List (Nat × Nat) := []
  deriving DecidableEq, Repr

/-- A context (03 R61, 07 R180, 08 R219, 09 R232). -/
structure Ctx where
  s1root : Nat := 0
  scopew : Bool := false
  scopes : Tab ScEnt := []
  slots : Tab SlotB := []
  saveBase : Nat := 0
  saveRes : Nat := 0
  savePages : Nat := 0
  /-- pages of the tile record of each cob, each with its tag (07 R180, R181) -/
  tilePages : Tab (List (Nat × Nat)) := []
  deriving DecidableEq, Repr

/-- States of a virtual device (03 R68). -/
inductive VdSt where
  | absent | active | held | saved | destroying
  deriving DecidableEq, Repr

/-- One kick stream (03 R79, R82). -/
structure Stream where
  fifo : List DWord := []
  last : Nat := 0
  accepted : Nat := 0
  rejected : Nat := 0
  badrec : Nat := 0
  /-- grid in the admission slot (06 R135) -/
  slot : Option Nat := none
  /-- the record it waits for -/
  own : List Own := []
  /-- entries of the FIFO, by their index, still to be written to the SFIFO area; and how many of its oldest entries
  are still to be reloaded from there (03 R82, R84) -/
  toPut : List Nat := []
  reload : Nat := 0
  /-- entries, by their index, whose place in the SFIFO area could not be written or read (01 R25, 02 R52) -/
  lost : List Nat := []
  deriving DecidableEq, Repr

/-- Traffic of one regulator at one site in the current window (03 R76). -/
structure Reg where
  count : Nat := 0
  deriving DecidableEq, Repr

/-- A loaded code object (05 R111, R120). -/
structure Obj where
  base : Nat := 0
  va : Nat := 0
  secOff : List Nat := []
  secLen : List Nat := []
  hentry : Nat := 0xFFFFFFFF
  hdemand : Nat := 0
  slotreq : List Nat := []
  bytes : Nat := 0
  exports : List (List Byte × Nat) := []
  order : Nat := 0
  deriving DecidableEq, Repr

/-- A partition descriptor (03 R67). -/
structure Desc where
  gset : Nat := 0
  mset : Nat := 0
  lend : Nat := 0
  streams : Nat := 0
  nctx : Nat := 0
  ways : List Nat := []
  nearg : Nat := 0
  nearc : Nat := 0
  farg : Nat := 0
  farc : Nat := 0
  fabg : Nat := 0
  fabc : Nat := 0
  sfifo : Nat := 0
  keysAt : Nat := 0
  sctx : Nat := 0
  near : Nat := 0
  far : List (Nat × Nat) := []
  reserved : Bool := true
  deriving DecidableEq, Repr

/-- A virtual device (03 R61, R68, R79; 06 R154; 08 R219). -/
structure Vd where
  st : VdSt := .absent
  /-- DESCHEDULED by a DESCHEDULE command -/
  cmd : Bool := false
  desc : Desc := {}
  /-- admitted keys: identity and MINLEAF, and the list's 2 KiB (04 R96) -/
  keys : List (Nat × Nat) := []
  keyBytes : List Byte := []
  streams : Tab Stream := []
  pending : Nat := 0
  badwr : Nat := 0
  intcause : Nat := 0
  inten : Nat := 0
  shed : Nat := 0
  heldw : Nat := 0
  windowHeld : Bool := false
  regs : Tab Reg := []
  slice : Nat := 1000
  wdog : Nat := 200000
  forfeit : Nat := 0
  slices : Nat := 0
  s2root : Nat := 0
  s2en : Bool := false
  objs : Tab Obj := []
  ctxs : Tab Ctx := []
  /-- its function has MSI-X disabled, as PCIe leaves it at reset (03 R85, log 59) -/
  msixOff : Bool := true
  deriving DecidableEq, Repr

/-- An image table entry (04 R99): state 0 FREE, 1 VALID, 2 RETIRING; `fmt` is what its descriptor says. An entry from
number 1,024 up is no entry of the table: an image that is no longer in it, kept while an operation that captured it
lasts (R103). -/
structure Image where
  st : Nat := 0
  cls : Nat := 0
  fmt : Fmt := {}
  binds : Nat := 0
  leaf : Nat := 0
  ihash : Nat := 0
  keyid : Nat := 0
  deriving DecidableEq, Repr

/-- The kind of a copy request (15 R433). -/
inductive CopyKind where
  | copy | transform | gather | scatter | fill | tileLoad | tileStore | window | sparse
  deriving DecidableEq, Repr

/-- An active copy request (15 R431 to R440). Elements are counted in units of movement. -/
structure Copy where
  agent : Nat
  team : Nat
  core : Nat
  vd : Nat
  ctx : Nat
  /-- scratchpad offset of the request record -/
  recAt : Nat
  kind : CopyKind
  rel : Bool := false
  irep : Bool := false
  scope : Nat := 0
  rm : RM := .rne
  sat : Bool := false
  rop : SparseOp := .iadd
  src : Iter := {}
  dst : Iter := {}
  win : Win := {}
  /-- tile buffer, and the slot images of source and destination (the tile's slot for tile kinds) -/
  buf : Nat := 0
  imgS : Nat := 0
  imgD : Nat := 0
  slots : List Nat := []
  /-- chain entries: operation, source of its operand, immediate -/
  chain : List (Nat × Nat × Word) := []
  bar : Option Nat := none
  ctr : Nat := 0
  aux : Nat := 0
  /-- next unit of the driving iterator, and the end of its units -/
  next : Nat := 0
  total : Nat := 0
  /-- units replayed by `cprepl` and not yet performed, units in the replay queue -/
  redo : List Nat := []
  parked : List Nat := []
  /-- unit waiting for a peer, and what peers have answered for it -/
  asking : Option Nat := none
  answers : List FarAns := []
  /-- what that unit waits for, at which address, since when, and with which parts of its range -/
  wait : Option OpSt := none
  askVa : Nat := 0
  askWr : Bool := false
  askAt : Nat := 0
  askLeft : Left := {}
  finished : Nat := 0
  failed : Nat := 0
  /-- first failed unit in iteration order, with its cause -/
  firstFail : Option (Nat × Nat) := none
  discard : Nat := 0
  /-- destination bits of one unit as they are counted, bytes in all, bytes counted down (15 R436) -/
  unit : Nat := 8
  bytes : Nat := 0
  counted : Nat := 0
  trapOut : Bool := false
  pc : DWord := 0
  iword : DWord := 0
  saved : Bool := false
  /-- the unit out to a peer was detached by a save (07 R184, R185) -/
  det : Bool := false
  /-- every element has finished and STATUS is written: the add to the completion counter remains, which waits as the unit
  after the last (15 R437) -/
  counting : Bool := false
  deriving DecidableEq, Repr

/-- A snoop the host has not answered (02 R48, R52). -/
structure Snoop where
  line : Nat
  sent : Nat
  resent : Bool
  inval : Bool
  /-- a write of the whole line waits for the answer, so the data of the answer are overwritten (01 R37) -/
  whole : Bool := false
  deriving DecidableEq, Repr

/-- A line held by a memory-side cache slice: the line of memory, the die, the way, and whether it has been written
(01 R22, 03 R75). -/
structure CLine where
  line : Nat
  die : Nat
  way : Nat
  dirty : Bool
  deriving DecidableEq, Repr

/-- A translation held by the walkers and translation caches (08 R219, R220): of `2 ^ lg` bytes, the first of them in the
4 KiB page `page`. -/
structure TlbEnt where
  vd : Nat
  ctx : Nat
  page : Nat
  lg : Nat
  pa : Nat
  w : Bool
  x : Bool
  rmt : Option Nat
  w2 : Bool
  x2 : Bool
  deriving DecidableEq, Repr

/-- A context's slice on a cob (06 R155): the clocks counted, its start, and SLICE as it stood then (R154). -/
structure Slice where
  clocks : Nat
  start : Nat
  len : Nat
  deriving DecidableEq, Repr

/-- A pre-emption request in force (07 R177, R178): its start in the cob's island clocks, why it was sent. -/
structure PreReq where
  start : Nat
  /-- a DESCHEDULE or eviction, not a slice -/
  whole : Bool
  /-- work of the cob saved, its saves complete -/
  saving : Bool
  /-- the pod groups that it saved -/
  pods : List Nat := []
  deriving DecidableEq, Repr

/-- A message the part sends to the outside world. -/
inductive Msg where
  | pfMsix (v : Nat)
  | vfMsix (vd v : Nat)
  | hostData (off : Nat) (data : List Byte)
  | hostDone (off : Nat)
  | hostOld (off old : Nat)
  | bisnp (line : Nat)
  /-- a request to a peer, by the port that carries it (02 R55) -/
  | fabric (port dev vd : Nat) (acc : PeerAcc)
  /-- a sparse-reduce pair, with the address of its element (02 R57) -/
  | sparse (port dev vd pa : Nat) (op : SparseOp) (idx : Nat) (val : Word)
  | peerReply (dev : Nat) (ok : Bool) (cause : Nat) (data : List Byte)
  | sideband (cls payload : Nat)
  | debugReg (alloc : Bool) (val : Word) (slot pos idx : Nat)
  deriving DecidableEq, Repr

end Sys2Proof.Machine
end

