-- ==== Sys2Proof/Machine/State.lean ====
section
/-!
DEFINITION. The state of the machine as plain data, the reasons a step can stop, and the state after reset.
-/
namespace Sys2Proof.Machine

/-- Registers of one mailbox of the X-die register block: its words as written, its status code and time
(03 R66, 04 R97, R107, 05 R118). -/
structure Mbox where
  w0 : Nat := 0
  w1 : Nat := 0
  w2 : Nat := 0
  w3 : Nat := 0
  code : Nat := 0
  busyrej : Bool := false
  time : Nat := 0
  start : Nat := 0
  /-- a command that has started waits for the host to give up a line it reads (02 R48): the line, and the words of the
  command as they stood at GO -/
  wait : Option (Nat × List Nat) := none
  /-- that line was never given up: the command fails (02 R52) -/
  dead : Bool := false
  deriving DecidableEq, Repr

/-- A shedding step (03 R87). -/
structure ShedStep where
  thresh : Nat := 0
  en : Bool := false
  act : Nat := 0
  deriving DecidableEq, Repr

/-- A checkpoint in the safe tier (01 R38, R41): its header, with the image table (04 R109), and what its context and
cache regions hold, whose form the spec leaves to the part (log 31). The near region stands in memory. -/
structure Ckpt where
  valid : Bool := false
  config : Nat × Nat × Nat := (0, 0, 0)
  /-- byte offset in the reserve and size of the context, cache and near regions -/
  regions : List (Nat × Nat) := []
  time : Nat := 0
  images : Tab Image := []
  owner : Tab Nat := []
  vds : Tab Vd := []
  grids : Tab Grid := []
  teams : Tab Team := []
  pods : Tab Pod := []
  agents : Tab Agent := []
  bufs : Tab Buf := []
  copies : Tab Copy := []
  cache : List CLine := []
  deriving DecidableEq, Repr

/-- Boot, package and power state (01 R32 to R41, 03 R87). -/
structure Pkg where
  /-- step records 0 to 15, 64 bits each (01 R34) -/
  steps : List DWord := List.replicate 16 0
  ready : Bool := false
  fatal : Bool := false
  exDies : Nat := 0
  exExp : Nat := 0
  harvest : Nat := 0
  /-- for each step of boot the units its alternate method was last run for, or that have failed both methods: what a step
  whose alternate method does not come to an end has failed in (01 R35, log 30) -/
  tried : List Nat := List.replicate 10 0
  /-- N-dies over which the home map is written (01 R16) -/
  home : List Nat := []
  /-- dies whose links trained at half rate (01 R32) -/
  slowLinks : Nat := 0
  /-- routing table of each Husk: the link toward each die, the X-die last (01 R12) -/
  routes : List (List Nat) := []
  ckpt : Ckpt := {}
  ckptDue : Bool := false
  /-- the step a running checkpoint has come to, 0 for none (01 R38) -/
  ckptStage : Nat := 0
  /-- the package takes no kick, host request or dispatch (01 R38) -/
  stopped : Bool := false
  pwrCap : Nat := 4600
  trayCap : Nat := 4600
  pwrUnmet : Bool := false
  shed : Tab ShedStep := []
  hubSeq : Nat := 0
  deriving DecidableEq, Repr

/-- An access that has arrived from a peer and waits: for what, the device it is made for, and the access (02 R48, 03 R76). -/
structure HeldIn where
  st : OpSt
  vd : Nat
  acc : Instr
  deriving DecidableEq, Repr

/-- Host link, host coherence and scale-up ports (02). -/
structure Link where
  st : Nat := 0
  replays : Nat := 0
  /-- lane margins of the last link health flit, either way (02 R43) -/
  margins : Nat := 0
  badsb : Nat := 0
  bifail : Bool := false
  erraddr : Nat := 0
  /-- lines the host holds, most recently granted first, and whether modified (02 R48) -/
  tracker : List (Nat × Bool) := []
  snoops : List Snoop := []
  incoherent : Bool := false
  /-- port status registers (02 R54) -/
  ports : List DWord := List.replicate 36 0
  /-- device number of the part, once port 0 has been assigned one (02 R53) -/
  number : Option Nat := none
  /-- peer device numbers present (02 R56) -/
  peers : List Nat := []
  heldIn : List HeldIn := []
  deriving DecidableEq, Repr

/-- The mailboxes, the granule owner table and the image table of the X-die register block. -/
structure XDie where
  pcmd : Mbox := {}
  /-- partition command in progress: operation and device -/
  pcmdRun : Option (Nat × Nat) := none
  img : Mbox := {}
  att : Mbox := {}
  attGen : Nat := 0
  attLeaf : Nat := 0
  /-- identity leaves used: the first has certified generation 0 at manufacture (04 R106, log 26) -/
  idLeaf : Nat := 1
  code : Mbox := {}
  invVd : Nat := 0
  invCtx : Nat := 0
  invAll : Bool := false
  invVa : Nat := 0
  invPages : Nat := 0
  /-- shoot-downs under way: device, context unless all, first and last page unless all (08 R219) -/
  invRun : List (Nat × Option Nat × Option (Nat × Nat)) := []
  /-- owner of each near granule 0 to 1,023 and far granule 1,024 + f; an unlisted one is unavailable, 0xFE -/
  owner : Tab Nat := []
  images : Tab Image := []
  deriving DecidableEq, Repr

/-- The model's own data: what runs next, what the environment will do, the free-value counter (logs 1, 6). -/
structure Run where
  issueQ : List Nat := []
  cur : Option Nat := none
  /-- the word of the instruction being issued, reported in IWORD (05 R133) -/
  word : DWord := 0
  inputs : List (Nat × Instr) := []
  free : Nat := 0
  nextId : Nat := 1
  out : List Msg := []
  /-- when the last synchronisation pulse came (log 1) -/
  pulse : Nat := 0
  /-- a regulator window has begun and its budgets are still to be renewed (03 R76) -/
  window : Bool := false
  deriving DecidableEq, Repr

/-- The state of the machine. -/
structure State where
  /-- reference time, in ticks of 10 ns (01 R25) -/
  now : Nat := 0
  pkg : Pkg := {}
  link : Link := {}
  x : XDie := {}
  dies : Tab Die := []
  cobs : Tab CobSt := []
  cores : Tab CoreSt := []
  /-- physical memory: the bytes that are not 0, at rising addresses (log 4) -/
  mem : List Host.Cell := []
  /-- scratchpad: byte `off` of core `c` at `c * 2^20 + off`, in the same form -/
  scr : List Host.Cell := []
  /-- lines (by address div 128) with an uncorrectable error (01 R22) -/
  faulty : List Nat := []
  vds : Tab Vd := []
  grids : Tab Grid := []
  teams : Tab Team := []
  pods : Tab Pod := []
  agents : Tab Agent := []
  bufs : Tab Buf := []
  copies : Tab Copy := []
  tlb : List TlbEnt := []
  /-- what the memory-side cache slices hold (01 R22) -/
  sideCache : List CLine := []
  rows : Tab Row := []
  /-- groups that wait for a register bank port, by `4 * core + pip` (06 R149) -/
  portWaits : Tab PortWait := []
  /-- slices by 16 * 288 * vd + 288 * ctx + cob (06 R155) -/
  slices : Tab Slice := []
  /-- pre-emption requests by the same key (07 R177) -/
  preReqs : Tab PreReq := []
  run : Run := {}
  deriving DecidableEq, Repr

/-- Why a step stops with a fault. A fault or trap of the manual is no stop: it is the next state in which the
trap is entered. -/
inductive Fault where
  /-- Raised by the meaning of an instruction word when no agent is in focus: only `step` gives one its
  agent. Safe: the spec has no instruction without an agent, so nothing is claimed of this case. -/
  | noAgent
  deriving DecidableEq, Repr

/-- Why a step is refused. -/
inductive Refusal where
  /-- Raised by an arm of `exec` whose instruction has no meaning yet. Safe: nothing can be proved of it. -/
  | notModelled (mnemonic : String)
  deriving DecidableEq, Repr

/-- What a step answers. -/
abbrev Out := Host.Outcome State Fault Refusal

/-- The machine right after reset: cold, no boot step run, no agent, memory with nothing listed. -/
def State.reset : State := {}

end Sys2Proof.Machine
end

