-- ==== Sys2Proof/Machine/Memory.lean ====
section
/-!
DEFINITION. Named reads and writes of the parts of the state, and memory: bytes of physical memory and of the
scratchpads in one canonical form, the physical address map (01 R13 to R18), ownership of granules (03 R63 to
R65), uncorrectable errors, and what every write does besides (armed waits 09 R248, launch waits 06 R136,
migration logs 01 R20).
-/
namespace Sys2Proof.Machine

/-! Units and their numbers (01 R9 to R11, 03 R62). -/

def dieOfCob (cob : Nat) : Nat := cob / 24
def cobOfCore (core : Nat) : Nat := core / 4
def dieOfCore (core : Nat) : Nat := core / 96
/-- Core island A holds physical cobs 0 to 11 (01 R23). -/
def islandOfCob (cob : Nat) : Nat := if cob % 24 < 12 then 0 else 1
def isNDie (d : Nat) : Bool := d < 8

def State.die (s : State) (d : Nat) : Die := tgetD s.dies d {}
def State.setDie (s : State) (d : Nat) (x : Die) : State := { s with dies := tset s.dies d x }
def State.cob (s : State) (c : Nat) : CobSt := tgetD s.cobs c {}
def State.setCob (s : State) (c : Nat) (x : CobSt) : State := { s with cobs := tset s.cobs c x }
def State.core (s : State) (c : Nat) : CoreSt := tgetD s.cores c {}
def State.setCore (s : State) (c : Nat) (x : CoreSt) : State := { s with cores := tset s.cores c x }
def State.vd (s : State) (v : Nat) : Vd := tgetD s.vds v {}
def State.setVd (s : State) (v : Nat) (x : Vd) : State := { s with vds := tset s.vds v x }
def Vd.ctx (v : Vd) (c : Nat) : Ctx := tgetD v.ctxs c {}
def State.ctx (s : State) (v c : Nat) : Ctx := (s.vd v).ctx c
def State.setCtx (s : State) (v c : Nat) (x : Ctx) : State :=
  s.setVd v { s.vd v with ctxs := tset (s.vd v).ctxs c x }
def Vd.stream (v : Vd) (n : Nat) : Stream := tgetD v.streams n {}
def State.setStream (s : State) (v n : Nat) (x : Stream) : State :=
  s.setVd v { s.vd v with streams := tset (s.vd v).streams n x }
def State.setAgent (s : State) (a : Nat) (x : Agent) : State := { s with agents := tset s.agents a x }
def State.setGrid (s : State) (g : Nat) (x : Grid) : State := { s with grids := tset s.grids g x }
def State.setTeam (s : State) (t : Nat) (x : Team) : State := { s with teams := tset s.teams t x }
def State.setPod (s : State) (p : Nat) (x : Pod) : State := { s with pods := tset s.pods p x }
def State.setBuf (s : State) (b : Nat) (x : Buf) : State := { s with bufs := tset s.bufs b x }
def State.setCopy (s : State) (c : Nat) (x : Copy) : State := { s with copies := tset s.copies c x }
def State.image (s : State) (n : Nat) : Image := tgetD s.x.images n {}
def State.setImage (s : State) (n : Nat) (x : Image) : State :=
  { s with x := { s.x with images := tset s.x.images n x } }
def State.isl (s : State) (d i : Nat) : Island := if i = 0 then (s.die d).islA else (s.die d).islB
def State.setIsl (s : State) (d i : Nat) (x : Island) : State :=
  if i = 0 then s.setDie d { s.die d with islA := x } else s.setDie d { s.die d with islB := x }
/-- The island of a core. -/
def State.islOfCore (s : State) (c : Nat) : Island := s.isl (dieOfCore c) (islandOfCob (cobOfCore c))

/-- A message of the part to the outside. -/
def State.send (s : State) (m : Msg) : State := { s with run := { s.run with out := s.run.out ++ [m] } }

/-- An input put among the others by its time, behind those of the same time. -/
def insInput (e : Nat × Instr) : List (Nat × Instr) → List (Nat × Instr)
  | [] => [e]
  | x :: xs => if e.1 < x.1 then e :: x :: xs else x :: insInput e xs

/-- An input that has to wait is looked at again with the next pulse. -/
def State.later (s : State) (e : Instr) : State :=
  { s with run := { s.run with inputs := insInput (s.now + 1, e) s.run.inputs } }

/-- The cores of an island work: their die is there and ON, and the island is not relocking (01 R24, R25, R28, R30). -/
def State.atWork (s : State) (core : Nat) : Bool :=
  let d := s.die (dieOfCore core)
  d.gate == .on && !d.lost && !(s.islOfCore core).relock

/-- The next free value (log 6). -/
def State.fresh (s : State) : Nat × State :=
  (Config.freeNat s.run.free, { s with run := { s.run with free := s.run.free + 1 } })

/-- A new identifier. -/
def State.newId (s : State) : Nat × State :=
  (s.run.nextId, { s with run := { s.run with nextId := s.run.nextId + 1 } })

/-! Bytes of memory. -/

/-- What an address reads as: an unlisted one reads as 0 (log 4). -/
def memGet : List Host.Cell → Nat → Byte
  | [], _ => 0
  | (k, v) :: t, a => if a = k then v else memGet t a

/-- Memory without an address. -/
def memDel : List Host.Cell → Nat → List Host.Cell
  | [], _ => []
  | (k, v) :: t, a => if a = k then memDel t a else (k, v) :: memDel t a

/-- Memory with a non-zero byte at an address. -/
def memIns : List Host.Cell → Nat → Byte → List Host.Cell
  | [], a, b => [(a, b)]
  | (k, v) :: t, a, b =>
    if a = k then (a, b) :: t
    else if a < k then (a, b) :: (k, v) :: t
    else (k, v) :: memIns t a b

/-- Memory with a byte written: writing 0 unlists the address. -/
def memPut (m : List Host.Cell) (a : Nat) (b : Byte) : List Host.Cell :=
  if b = 0 then memDel m a else memIns m a b

/-- The canonical form: addresses strictly rising, no byte equal to what an unlisted address reads as. -/
def Memory.wf : List Host.Cell → Bool
  | [] => true
  | [(_, v)] => v != 0
  | (k, v) :: (k', v') :: t => v != 0 && decide (k < k') && Memory.wf ((k', v') :: t)

/-- Several bytes from an address upward. -/
def memGets (m : List Host.Cell) (a : Nat) : Nat → List Byte
  | 0 => []
  | n + 1 => memGet m a :: memGets m (a + 1) n

def memPuts (m : List Host.Cell) (a : Nat) : List Byte → List Host.Cell
  | [] => m
  | b :: bs => memPuts (memPut m a b) (a + 1) bs

/-- Every byte of a range zero (01 R37). -/
def memZero (m : List Host.Cell) (a n : Nat) : List Host.Cell :=
  m.filter fun c => !(decide (a ≤ c.1) && decide (c.1 < a + n))

/-- The listed bytes of a range of `n` from `a` that holds the number `f`, its low byte first. -/
def fillCells : Nat → Nat → Nat → List Host.Cell
  | _, 0, _ => []
  | a, n + 1, f =>
    if f = 0 then []
    else if f % 256 = 0 then fillCells (a + 1) n (f / 256)
    else (a, BitVec.ofNat 8 f) :: fillCells (a + 1) n (f / 256)

/-- A range filled with a number. -/
def memFill (m : List Host.Cell) (a n f : Nat) : List Host.Cell :=
  (fillCells a n f).foldl (fun m c => memIns m c.1 c.2) (memZero m a n)

/-- A range holds a number. -/
def memHas (m : List Host.Cell) (a n f : Nat) : Bool :=
  (m.filter fun c => decide (a ≤ c.1) && decide (c.1 < a + n)) == fillCells a n f

/-- Where byte `off` of core `c`'s scratchpad lies in `State.scr`. -/
def scrKey (c off : Nat) : Nat := c * 2 ^ 20 + off

def Loc.add : Loc → Nat → Loc
  | .mem a, n => .mem (a + n)
  | .scr c o, n => .scr c (o + n)

/-- The byte at a place. -/
def State.getByte (s : State) : Loc → Byte
  | .mem a => memGet s.mem a
  | .scr c o => memGet s.scr (scrKey c o)

/-- `n` bytes from a place upward. -/
def State.getBytes (s : State) (l : Loc) (n : Nat) : List Byte :=
  match l with
  | .mem a => memGets s.mem a n
  | .scr c o => memGets s.scr (scrKey c o) n

/-- The little-endian number of `n` bytes at a place. -/
def State.getNat (s : State) (l : Loc) (n : Nat) : Nat := ofBytes (s.getBytes l n)

/-- Bytes put at a place, with nothing else done. -/
def State.putBytes (s : State) (l : Loc) (bs : List Byte) : State :=
  match l with
  | .mem a => { s with mem := memPuts s.mem a bs }
  | .scr c o => { s with scr := memPuts s.scr (scrKey c o) bs }

/-- The address of a save page of a context (07 R180). -/
def State.savePage (s : State) (vd ctx p : Nat) : Nat := (s.ctx vd ctx).saveBase + 65536 * p

/-! The physical address map (01 R13, R16 to R18). -/

/-- Enabled N-dies in increasing index (01 R16). -/
def State.nDiesOn (s : State) : List Nat := (upFrom 0 8).filter fun d => !bitAt s.pkg.exDies d
/-- Expanders present in increasing index (01 R18): those of included F-dies that are not excluded. -/
def State.exps (s : State) : List Nat :=
  (upFrom 0 24).filter fun e => !bitAt s.pkg.exExp e && !bitAt s.pkg.exDies (8 + e / 6)

/-- The entry of region `n` in the package home map (01 R15, R16): DIE, STACK and VALID. Firmware writes the map over the
N-dies `Pkg.home` at boot, the same in every Husk; until then every entry is 0. -/
def State.homeEntry (s : State) (n : Nat) : Nat :=
  let l := s.pkg.home
  let m := l.length
  if n < 65536 * m then l.getD (n % m) 0 + 2 ^ 3 * (n / m % 2) + 2 ^ 7 else 0

/-- The die and the stack that hold region `n`, where its entry is valid (01 R15). -/
def State.homeMap (s : State) (n : Nat) : Option (Nat × Nat) :=
  let e := s.homeEntry n
  if bitAt e 7 then some (bits e 0 3, bits e 3 1) else none

/-- The storage offset of a near address within its stack: its region's rank among the regions of that stack
(01 R15). -/
def State.storageOf (s : State) (pa : Nat) : Nat := 2 ^ 21 * (pa / 2 ^ 21 / (2 * s.pkg.home.length)) + pa % 2 ^ 21

/-- The expander window of an address: expander and offset (01 R13). -/
def farOf (pa : Nat) : Option (Nat × Nat) :=
  if 0x010000000000 ≤ pa ∧ pa < 0x010000000000 + 24 * 0x8000000000 then
    let e := (pa - 0x010000000000) / 0x8000000000
    let o := (pa - 0x010000000000) % 0x8000000000
    if o < 0x6000000000 then some (e, o) else none
  else none

/-- GiB of the checkpoint reserve in expander `e` (01 R18). -/
def State.reserveGiB (s : State) (e : Nat) : Nat :=
  let l := s.exps
  let n := l.length
  if n = 0 then 0
  else
    let q := 1088 / n
    let k := 1088 - q * n
    let pos := (l.filter fun x => x < e).length
    if e ∉ l then 0 else if n - k ≤ pos then q + 1 else q

/-- The die that homes a backed physical address (01 R15, R17). -/
def State.homeDie (s : State) (pa : Nat) : Option Nat :=
  if pa < 0x010000000000 then (s.homeMap (pa / 2 ^ 21)).map (·.1)
  else match farOf pa with
    | some (e, _) => if e ∈ s.exps then some (8 + e / 6) else none
    | none => none

/-- The address lies in the checkpoint reserve (01 R18). -/
def State.inReserve (s : State) (pa : Nat) : Bool :=
  match farOf pa with
  | some (e, o) => decide (e ∈ s.exps) && decide (384 - s.reserveGiB e ≤ o / 2 ^ 30)
  | none => false

/-- The first address of an expander's window (01 R13). -/
def expBase (e : Nat) : Nat := 0x010000000000 + e * 0x8000000000

/-- Byte `off` of the reserve as a checkpoint writes it: 2 MiB units striped across the expanders in increasing index
(01 R38). -/
def State.reserveAt (s : State) (off : Nat) : Nat :=
  let l := s.exps
  let u := off / 2 ^ 21
  let e := l.getD (u % l.length) 0
  expBase e + (384 - s.reserveGiB e) * 2 ^ 30 + u / l.length * 2 ^ 21 + off % 2 ^ 21

/-- The byte of the reserve at a physical address in it. -/
def State.reserveOff (s : State) (pa : Nat) : Nat :=
  match farOf pa with
  | some (e, o) =>
    let l := s.exps
    let k := o - (384 - s.reserveGiB e) * 2 ^ 30
    (k / 2 ^ 21 * l.length + (l.filter fun x => x < e).length) * 2 ^ 21 + k % 2 ^ 21
  | none => 0

/-- Image store bytes of an entry (04 R98). -/
def imageStoreSize : Nat := 163840

/-- The image store area of an image: 160 KiB each in the top 160 MiB of the reserve (04 R98, log 52). -/
def State.imageStore (s : State) (n : Nat) : Nat :=
  expBase (s.exps.getLastD 0) + 0x6000000000 - 1024 * imageStoreSize + imageStoreSize * n

/-- The home slice of a line within the die that homes it (08 R213). -/
def homeSlice (pa : Nat) : Nat := bits pa 7 5 ^^^ bits pa 12 5

/-- The address is backed (01 R13). -/
def State.backed (s : State) (pa : Nat) : Bool := (s.homeDie pa).isSome

/-- The address lies in a backed near granule (03 R66). -/
def State.nearBacked (s : State) (pa n : Nat) : Bool :=
  decide (pa + n ≤ 0x010000000000) && s.backed pa && s.backed (pa + n - 1)

/-- The granule of an address: near `g`, far `1024 + f` (03 R63). -/
def granuleOf (pa : Nat) : Option Nat :=
  if pa < 0x010000000000 then some (pa / 2 ^ 30)
  else (farOf pa).map fun (e, o) => 1024 + e * 384 + o / 2 ^ 30

/-- The first address of a granule. -/
def granuleBase (g : Nat) : Nat :=
  if g < 1024 then g * 2 ^ 30
  else 0x010000000000 + (g - 1024) / 384 * 0x8000000000 + (g - 1024) % 384 * 2 ^ 30

/-- An entry of the granule owner table (03 R64). -/
def State.ownerOf (s : State) (g : Nat) : Nat := tgetD s.x.owner g 0xFE
def State.setOwner (s : State) (g o : Nat) : State := { s with x := { s.x with owner := tset s.x.owner g o } }

/-- The line of an address holds an uncorrectable error (01 R22). -/
def State.isFaulty (s : State) (pa n : Nat) : Bool :=
  s.faulty.any fun l => decide (pa / 128 ≤ l) && decide (l ≤ (pa + n - 1) / 128)

/-- The cause with which an access of device `vd` to `n` bytes at a physical address fails: unbacked (01 R13),
a lost die (01 R25), a granule of another owner (03 R65), an uncorrectable error (07 R176). -/
def State.physFail (s : State) (vd pa n : Nat) : Option Nat :=
  match s.homeDie pa, granuleOf pa with
  | some d, some g =>
    if (s.die d).lost then some 0x16
    else if s.ownerOf g ≠ vd ∨ (granuleOf (pa + n - 1)).map s.ownerOf ≠ some vd then some 0x0C
    else if s.isFaulty pa n then some 0x16
    else none
  | _, _ => some 0x0B

/-- A save page can be read and written: its die is there, and no line of it holds an error (07 R176). -/
def State.pageSound (s : State) (vd ctx p : Nat) : Bool :=
  let pa := s.savePage vd ctx p
  match s.homeDie pa with
  | some d => !(s.die d).lost && !s.isFaulty pa 65536
  | none => false

/-- Save pages of a context can be read back, and have the bytes that were written to them (07 R176, R180). -/
def State.pagesHold (s : State) (vd ctx : Nat) (ps : List (Nat × Nat)) : Bool :=
  ps.all fun (p, f) => s.pageSound vd ctx p && memHas s.mem (s.savePage vd ctx p) 65536 f

/-! What a write does besides putting its bytes. -/

/-- Two ranges of bytes at places overlap. -/
def overlaps (l : Loc) (n : Nat) (l' : Loc) (n' : Nat) : Bool :=
  match l, l' with
  | .mem a, .mem b => decide (a < b + n') && decide (b < a + n)
  | .scr c a, .scr d b => c == d && decide (a < b + n') && decide (b < a + n)
  | _, _ => false

/-- The issuing core of an agent (09 R226). -/
def Agent.issuer (a : Agent) : Nat := if a.id.seq then 4 * cobOfCore a.pos.core else a.pos.core

def Ctx.scope (c : Ctx) (k : Nat) : ScEnt := tgetD c.scopes k {}
def State.scope (s : State) (vd ctx k : Nat) : ScEnt := (s.ctx vd ctx).scope k

/-- `core` is a member of fixed entry `k` as formed from `issuer` (09 R230). -/
def fixedMember (k issuer core : Nat) : Bool :=
  match k with
  | 0 | 1 => core == issuer
  | 2 => cobOfCore core == cobOfCore issuer
  | 3 => dieOfCore core == dieOfCore issuer
  | _ => true

/-- `core` is a member of entry `k` of a context, named by an agent of `issuer`. -/
def State.member (s : State) (vd ctx k issuer core : Nat) : Bool :=
  if k < 6 then fixedMember k issuer core else bitAt (s.scope vd ctx k).members core

/-- Meeting cache and site of the fixed entries (09 R230). -/
def fixedMeet (k : Nat) : Nat := if k < 2 then 0 else if k < 4 then 1 else if k = 4 then 2 else 3
def fixedSite (k : Nat) : Nat := if k < 2 then 0 else if k = 2 then 1 else 2

/-- The site of an entry. -/
def State.siteOf (s : State) (vd ctx k : Nat) : Nat := if k < 6 then fixedSite k else (s.scope vd ctx k).site

/-- The cause with which the acquire of a `ctwait` faults at the moment it is satisfied, 0 for none (09 R235): while an
update is in flight the old definition is in force. -/
def State.scopeDenies (s : State) (a : Agent) (k : Nat) : Nat :=
  if k < 6 then 0
  else
    let e := s.scope a.id.vd a.id.ctx k
    if e.st = .invalid ∨ (e.st = .pending ∧ e.was = .invalid) then 0x08
    else if s.member a.id.vd a.id.ctx k a.issuer a.issuer then 0 else 0x09

/-- An armed wait has lasted as long as it may (14 R392). -/
def CtArm.expired (c : CtArm) (now : Nat) : Bool := match c.limit with | some l => decide (c.since + l ≤ now) | none => false

/-- An armed wait of an agent is examined (09 R248): satisfied by the first write after which C ≥ T, before its limit. The
scratchpad word of a team that is swapped out lies in its record (06 R146): no write reaches it. -/
def wakeAgent (s : State) (l : Loc) (n : Nat) (a : Agent) : Agent :=
  match a.pend.ct with
  | some c =>
    let gone := a.pos.out && (match c.loc with | .scr _ _ => true | .mem _ => false)
    if c.hit.isNone && !gone && !c.expired s.now && overlaps l n c.loc 8 && decide (c.thr ≤ s.getNat c.loc 8) then
      { a with pend := { a.pend with ct := some { c with
          hit := some (s.getNat c.loc 8), hitAt := s.now, denied := s.scopeDenies a c.sk } } }
    else a
  | none => a

/-- The wait entries of a launch met by a write (06 R136): each stays met. -/
def metBy (s : State) (l : Loc) (n : Nat) (g : Grid) : Nat :=
  g.arms.foldl (fun m (i, p) =>
    if overlaps l n p 8 && decide ((g.lrec.waits.getD i (0, 0)).2 ≤ s.getNat p 8) then setBit m i else m) g.met

/-- Every wait entry with a counter address is met (06 R136). -/
def Grid.allMet (g : Grid) : Bool :=
  (upFrom 0 4).all fun i => (g.lrec.waits.getD i (0, 0)).1 == 0 || bitAt g.met i

/-- A device holds a cob: one of its guaranteed set, of its margin set and not lent, or borrowed (03 R73, 06 R140). -/
def State.holdsCob (s : State) (vd cob : Nat) : Bool :=
  bitAt (s.vd vd).desc.gset cob || (bitAt (s.vd vd).desc.mset cob && (s.cob cob).lend == .own)
    || (s.cob cob).lend == .lent vd

/-- A cob is a device's, though it may be lent: the dispatch check of a launch asks for no more (05 R122). -/
def State.hasCob (s : State) (vd cob : Nat) : Bool := s.holdsCob vd cob || bitAt (s.vd vd).desc.mset cob

/-- A die a launch may use: included, not lost, named by AFFIN, where 0 reads as 0x0FFF (06 R140, 05 R122). -/
def State.dieFor (s : State) (r : LRec) (d : Nat) : Bool :=
  !bitAt s.pkg.exDies d && !(s.die d).lost && bitAt (if r.affin = 0 then 0x0FFF else r.affin) d

/-- A slot requirement holds: slot `j` is BOUND, to the image the object names unless it names none (05 R122). -/
def Ctx.slotMet (c : Ctx) (o : Obj) (j : Nat) : Bool :=
  let b := tgetD c.slots j {}
  let q := o.slotreq.getD j 0xFFFF
  b.st == 1 && (q == 0xFFFF || b.img == q)

/-- A scope entry a launch names is not INVALID (05 R122). -/
def Ctx.scopeMet (c : Ctx) (k : Nat) : Bool := decide (k < 6) || (tgetD c.scopes k {}).st != .invalid

/-- The status with which the dispatch checks of R122 end a launch. -/
def State.dispatchStatus (s : State) (g : Grid) : Option Nat :=
  let r := g.lrec
  let c := s.ctx g.vd r.ctx
  let o := tgetD (s.vd g.vd).objs g.obj {}
  if !(upFrom 0 12).any (fun d => s.dieFor r d && (upFrom (24 * d) 24).any (s.hasCob g.vd)) then some 4
  else if (setBitsFrom r.slots 0 16).any fun j => !c.slotMet o j then some 5
  else if (r.acq && !c.scopeMet r.ascope) || (r.rel && !c.scopeMet r.rscope) then some 7
  else none

/-- The trap vector of a grid from its object (05 R131). -/
def Obj.vector (o : Obj) : Option (Nat × Nat) :=
  if o.hentry = 0xFFFFFFFF then none else some (o.va + o.secOff.getD 0 0 + o.hentry, o.hdemand)

/-- A launch whose last wait is met becomes ready at this moment (06 R136, R138): the dispatch checks are made, the
trap vector and the core count are fixed (R137, 05 R122, R124, R131). -/
def State.makeReady (s : State) (g : Grid) : Grid :=
  match s.dispatchStatus g with
  | some st => { g with st := .ending, placed := true, failed := some (st, 0, 0) }
  | none =>
    { g with
      st := .ready
      readyAt := s.now
      acqWait := g.lrec.acq && decide (6 ≤ g.lrec.ascope) && (s.scope g.vd g.lrec.ctx g.lrec.ascope).st == .pending
      ncores := if g.lrec.ncores ≠ 0 then g.lrec.ncores else 4 * popCount (s.vd g.vd).desc.gset 288
      vector := (tgetD (s.vd g.vd).objs g.obj {}).vector }

/-- A launch whose waits a write may meet. -/
def wakeGrid (s : State) (l : Loc) (n : Nat) (g : Grid) : Grid :=
  if g.st = .waiting then
    let g' := { g with met := metBy s l n g }
    if g'.allMet then s.makeReady g' else g'
  else g

/-- Bytes of a migrated page by PGSZ (01 R19). -/
def pageBytes (pgsz : Nat) : Nat := if pgsz = 0 then 4096 else if pgsz = 1 then 65536 else 2097152

/-- A running move logs each 4 KiB block of SRC written (01 R20). -/
def logBlocks (l : Loc) (n : Nat) (m : Mig) : Mig :=
  match l with
  | .mem a =>
    if m.phase ≠ 0 ∧ a < m.src + pageBytes m.pgsz ∧ m.src < a + n then
      let b := (a - m.src) / 4096
      let e := (a + n - 1 - m.src) / 4096
      { m with log := ((upFrom b (e + 1 - b)) ++ m.log).eraseDups }
    else m
  | .scr _ _ => m

/-- The consequences of a write of `n` bytes at a place that has just performed. -/
def State.written (s : State) (l : Loc) (n : Nat) : State :=
  { s with
    agents := tmap s.agents fun _ a => wakeAgent s l n a
    grids := tmap s.grids fun _ g => wakeGrid s l n g
    dies := tmap s.dies fun _ d => { d with migs := tmap d.migs fun _ m => logBlocks l n m } }

/-- A write that performs: its bytes, then what depends on it. -/
def State.write (s : State) (l : Loc) (bs : List Byte) : State := (s.putBytes l bs).written l bs.length

/-- A range of memory filled with a number, with the consequences of a write. -/
def State.refill (s : State) (pa n f : Nat) : State := { s with mem := memFill s.mem pa n f }.written (.mem pa) n

/-- A write over several chunks of places, each a single write. -/
def State.writeChunks (s : State) : List (Loc × Nat) → List Byte → State
  | [], _ => s
  | (l, n) :: t, bs => State.writeChunks (s.write l (bs.take n)) t (bs.drop n)

def State.readChunks (s : State) : List (Loc × Nat) → List Byte
  | [] => []
  | (l, n) :: t => s.getBytes l n ++ State.readChunks s t

/-- An interrupt cause of a device (03 R86): it raises its vector when enabled and not already set; while the
function has MSI-X disabled the cause goes to PF vector 64 + n (03 R85). -/
def State.setCause (s : State) (vd i : Nat) : State :=
  let v := s.vd vd
  if bitAt v.intcause i then s
  else
    let s := s.setVd vd { v with intcause := setBit v.intcause i }
    if v.msixOff then s.send (.pfMsix (64 + vd))
    else if bitAt v.inten i then s.send (.vfMsix vd i) else s

end Sys2Proof.Machine
end

