-- ==== Sys2Proof/Machine/SideCache.lean ====
section
/-!
DEFINITION. What every access of a part of memory passes on its way: the memory-side cache slices (01 R22, 03 R75), the
regulators (03 R76 to R78) and the host holder tracker (02 R48); accesses of the part's own that wait there.
-/
namespace Sys2Proof.Machine

/-! Memory-side cache slices. -/

/-- Lines of a way of 32 MiB (01 R22). -/
def waySets : Nat := 262144
/-- Ways of a die's slice. -/
def wayCount (d : Nat) : Nat := if d < 8 then 20 else 8

/-- A device holds a way of a die (03 R75). -/
def Vd.holdsWay (v : Vd) (d w : Nat) : Bool := v.st != .absent && bitAt (v.desc.ways.getD d 0) w

/-- The ways in which a fill for a device, or for the host, may allocate (03 R75): its own on that die, else the
unassigned ones. -/
def State.fillWays (s : State) (vd : Option Nat) (d : Nat) : List Nat :=
  let all := upFrom 0 (wayCount d)
  let own := match vd with
    | some v => all.filter fun w => (s.vd v).holdsWay d w
    | none => []
  if own.isEmpty then all.filter fun w => !(s.vds.any fun e => e.2.holdsWay d w) else own

/-- One line of memory homed on a die accessed: the bytes that move at the memory, none for a hit in any way. A line that
is not held is filled; the line of its set in the way it takes is written back if it has been written. Which way, and
which set a line belongs to, the spec leaves open (log 58). A die that is not ON allocates nothing (01 R28). -/
def State.accessLine (s : State) (vd : Option Nat) (d line : Nat) (wr : Bool) : Nat × State :=
  if s.sideCache.any (fun c => c.line == line) then
    (0, if wr then { s with sideCache := s.sideCache.map fun c => if c.line = line then { c with dirty := true } else c }
        else s)
  else
    match if (s.die d).gate = .on then s.fillWays vd d else [] with
    | [] => (128, s)
    | w :: ws =>
      let (f, s) := s.fresh
      let way := (w :: ws).getD (f % (ws.length + 1)) w
      let victim (c : CLine) : Bool := c.line % waySets == line % waySets && c.die == d && c.way == way
      (128 + 128 * (s.sideCache.countP fun c => victim c && c.dirty),
        { s with sideCache := ⟨line, d, way, wr⟩ :: s.sideCache.filter fun c => !victim c })

/-- Several lines from one upward. -/
def State.accessLines (s : State) (vd : Option Nat) (d : Nat) (wr : Bool) : Nat → Nat → Nat × State
  | _, 0 => (0, s)
  | line, n + 1 =>
    let r := s.accessLine vd d line wr
    let q := r.2.accessLines vd d wr (line + 1) n
    (r.1 + q.1, q.2)

/-- `n` bytes of memory accessed: the bytes that move at the memory of its die. -/
def State.accessMem (s : State) (vd : Option Nat) (pa n : Nat) (wr : Bool) : Nat × State :=
  s.accessLines vd ((s.homeDie pa).getD 0) wr (pa / 128) ((pa + n - 1) / 128 + 1 - pa / 128)

/-- Ways that change owner are written back and invalidated (03 R75); `p` names them. -/
def State.flushWays (s : State) (p : Nat → Nat → Bool) : State :=
  { s with sideCache := s.sideCache.filter fun c => !p c.die c.way }

/-! Regulators. -/

/-- Whether `count` bytes lie below what a rate in GB/s, shared `num` of `den`, allows in a window of 10 µs. -/
def below (count rate num den : Nat) : Bool := decide (count * den < rate * 10000 * num)

/-- Ceiling, guarantee and share of a device at a site: dies 0 to 11 for the tiers, 12 for the fabric
(03 R76). -/
def State.regRule (s : State) (vd site : Nat) : Nat × Nat × Nat × Nat :=
  let d := (s.vd vd).desc
  if site < 8 then (d.nearc, d.nearg, 1, s.nDiesOn.length)
  else if site < 12 then (d.farc, d.farg, (s.exps.filter fun e => e / 6 == site - 8).length, s.exps.length)
  else (d.fabc, d.fabg, 1, 1)

def State.regOf (s : State) (vd site : Nat) : Reg := tgetD (s.vd vd).regs site {}
def State.setReg (s : State) (vd site : Nat) (r : Reg) : State :=
  s.setVd vd { s.vd vd with regs := tset (s.vd vd).regs site r }

/-- A request of `n` bytes at a site: admitted and counted, or `none` while the window has no budget. A
device below its guarantee is never held (03 R76, R77). -/
def State.letIn (s : State) (vd site n : Nat) : Option State :=
  let (ceil, guar, num, den) := s.regRule vd site
  let r := s.regOf vd site
  if ceil = 0 then some s
  else if below r.count ceil num den || below r.count guar num den then
    some (s.setReg vd site { r with count := r.count + n })
  else none

/-- A regulator of a device holds a request in this window (03 R79). -/
def State.markHeld (s : State) (vd : Nat) : State :=
  if (s.vd vd).windowHeld then s else s.setVd vd { s.vd vd with windowHeld := true }

/-- The outcome of regulating an access. -/
inductive Reg1 where
  | go
  | hold (site : Nat)
  deriving DecidableEq, Repr

/-- An access of a device to places of memory taken through the slices and the regulators of their dies (03 R75, R76):
what moves at the memory is counted, a hit is not. A request that is held has not been made yet. -/
def State.regulate (s : State) (vd : Nat) (wr : Bool) : List (Loc × Nat) → Reg1 × State
  | [] => (.go, s)
  | (.scr _ _, _) :: t => s.regulate vd wr t
  | (.mem pa, n) :: t =>
    let site := (s.homeDie pa).getD 0
    let r := s.accessMem (some vd) pa n wr
    if (s.regRule vd site).1 = 0 then r.2.regulate vd wr t
    else if r.1 = 0 then r.2.regulate vd wr t
    else
      match r.2.letIn vd site r.1 with
      | some s' => s'.regulate vd wr t
      | none => (.hold site, s.markHeld vd)

/-- Bytes of memory that the part itself reads or writes for a device, whatever its budgets: they pass the slices, and what
moves at the memory is counted where it counts (03 R75, R76, log 58). -/
def State.passMem (s : State) (vd : Nat) (counted : Bool) (pa n : Nat) (wr : Bool) : State :=
  let r := s.accessMem (some vd) pa n wr
  let site := (s.homeDie pa).getD 0
  if !counted || (s.regRule vd site).1 == 0 then r.2
  else r.2.setReg vd site { r.2.regOf vd site with count := (r.2.regOf vd site).count + r.1 }

/-- The same for places. -/
def State.passAll (s : State) (vd : Nat) (counted wr : Bool) (l : List (Loc × Nat)) : State :=
  l.foldl (fun s p => match p with
    | (.mem pa, n) => s.passMem vd counted pa n wr
    | (.scr _ _, _) => s) s

/-- An access waits in the regulator queue of a site. -/
def OpSt.queued (site : Nat) : OpSt → Bool
  | .regul k b => k == site && b
  | .ready _ | .parked _ _ | .walker _ _ | .snoop _ | .remote _ _ | .held => false

/-- Requests of a device that wait in the queue of a site: of its agents, copy requests, streams and launches, and of peers
that act for it (03 R76). -/
def State.heldAt (s : State) (vd site : Nat) : Nat :=
  let own (l : List Own) : Nat := l.countP fun o => o.st.queued site
  (s.agents.map fun (_, a) =>
    if a.id.vd = vd then (a.pend.ops.countP fun o => o.st.queued site) + own a.pend.own else 0).sum
    + (s.copies.countP fun (_, c) => c.vd == vd && (c.wait.any fun w => w.queued site))
    + ((s.vd vd).streams.map fun (_, x) => own x.own).sum
    + (s.grids.map fun (_, g) => if g.vd = vd then own g.own else 0).sum
    + (s.link.heldIn.countP fun h => h.vd == vd && h.st.queued site)

/-- A held request goes into the site's queue of 256, or waits outside it (03 R76). -/
def State.enqueue (s : State) (vd site : Nat) : OpSt :=
  .regul site (decide (s.heldAt vd site < 256))

/-- It waits for a regulator. -/
def OpSt.isRegul : OpSt → Bool
  | .regul _ _ => true
  | .ready _ | .parked _ _ | .walker _ _ | .snoop _ | .remote _ _ | .held => false

/-- It waits for a peer. -/
def OpSt.isRemote : OpSt → Bool
  | .remote _ _ => true
  | .ready _ | .parked _ _ | .walker _ _ | .snoop _ | .regul _ _ | .held => false

/-- It waits outside a full regulator queue, so its agent waits with it (03 R76). -/
def OpSt.outside : OpSt → Bool
  | .regul _ b => !b
  | .ready _ | .parked _ _ | .walker _ _ | .snoop _ | .remote _ _ | .held => false

/-! Host holders (02 R48): before an access the home slice asks the tracker. -/

/-- The first line of a range of physical bytes for which a snoop is needed: a read of a line the host may
hold modified, a write of a line it holds. -/
def State.snoopNeeded (s : State) (locs : List (Loc × Nat)) (write : Bool) : Option Nat :=
  if s.link.incoherent then none
  else
    (s.link.tracker.find? fun (line, m) =>
      (m || write) && locs.any fun (l, n) =>
        match l with
        | .mem a => decide (a / 128 * 128 ≤ line) && decide (line < a + n)
        | .scr _ _ => false).map (·.1)

/-- A snoop sent for a line, unless one is out already (02 R48). -/
def State.sendSnoop (s : State) (line : Nat) (inval : Bool) : State :=
  if s.link.snoops.any (fun x => x.line == line) then s
  else
    let n : Snoop := { line, sent := s.now, resent := false, inval }
    { s.send (.bisnp line) with link := { s.link with snoops := s.link.snoops ++ [n] } }

/-- Whole lines are about to be written by the part: a copy the host holds of one is invalidated, and what it had modified
is overwritten when its answer comes (01 R37, 02 R48). -/
def State.claimLines (s : State) (pa n : Nat) : State :=
  if s.link.incoherent then s
  else
    let mine (l : Nat) : Bool := decide (pa ≤ l) && decide (l < pa + n)
    let s := ((s.link.tracker.filter fun e => mine e.1).map (·.1)).foldl (fun s l => s.sendSnoop l true) s
    { s with link := { s.link with snoops := s.link.snoops.map fun x => if mine x.line then { x with inval := true, whole := true } else x } }

/-- Save pages of a context written, each with what is kept as its tag: the form of a record is the part's own, so the
bytes of a page are a free value (07 R180, R181, log 34). A checkpoint writes to the reserve instead. -/
def State.fillPages (s : State) (vd ctx : Nat) : List Nat → List (Nat × Nat) × State
  | [] => ([], s)
  | p :: ps =>
    let (f, t) := s.fresh
    let pa := s.savePage vd ctx p
    let t := if s.pkg.stopped then t else ((t.claimLines pa 65536).passMem vd true pa 65536 true).refill pa 65536 f
    let (l, t) := t.fillPages vd ctx ps
    ((p, f) :: l, t)

/-- What holds an access of a device to places of memory at their home: a line the host holds, then a regulator. -/
def State.atHome (s : State) (vd : Nat) (wr : Bool) (locs : List (Loc × Nat)) : Option OpSt × State :=
  match s.snoopNeeded locs wr with
  | some line => (some (.snoop line), s.sendSnoop line wr)
  | none =>
    match s.regulate vd wr locs with
    | (.go, s) => (none, s)
    | (.hold site, s) => (some (s.enqueue vd site), s)

/-- What holds the reads of a walk at their homes: a line the host holds modified. They pass the slices like loads of the
host driver, no regulator counts them (08 R220). -/
def State.atWalk (s : State) (locs : List (Loc × Nat)) : Option OpSt × State :=
  match s.snoopNeeded locs false with
  | some line => (some (.snoop line), s.sendSnoop line false)
  | none =>
    (none, locs.foldl (fun s l => match l with
      | (.mem pa, n) => (s.accessMem none pa n false).2
      | (.scr _ _, _) => s) s)

/-! Requests that wait: where, and since when (01 R26, 02 R56). -/

/-- The die at whose home a request waits: for a line the host holds, or in its regulator. -/
def State.waitsAt (s : State) : OpSt → Option Nat
  | .snoop l => s.homeDie l
  | .regul k _ => if k < 12 then some k else none
  | .ready _ | .parked _ _ | .walker _ _ | .remote _ _ | .held => none

/-- It is a request to a peer: sent, or waiting in the fabric regulator (03 R78). -/
def OpSt.toPeer : OpSt → Bool
  | .remote _ _ | .regul 12 _ => true
  | .regul _ _ | .ready _ | .parked _ _ | .walker _ _ | .snoop _ | .held => false

/-- What waits now is the request that waited before: for the same line, at the same home, or for a peer. -/
def State.sameWait (s : State) (old new : OpSt) : Bool :=
  match old, new with
  | .snoop l, .snoop k => l == k
  | _, _ => (old.toPeer && new.toPeer) || ((s.waitsAt old).isSome && s.waitsAt old == s.waitsAt new)

/-- Since when a request waits, given what waited before. -/
def State.waitsSince (s : State) (old new : OpSt) (since : Nat) : Nat := if s.sameWait old new then since else s.now

/-- A request has waited 200,000 ticks at the home of another die than one (01 R26). -/
def State.timedOut (s : State) (core : Nat) (st : OpSt) (since : Nat) : Bool :=
  (match s.waitsAt st with | some d => d != dieOfCore core | none => false) && decide (since + 200000 ≤ s.now)

/-- A request to a peer has waited 500,000 ticks (02 R56). -/
def State.peerLate (s : State) (st : OpSt) (since : Nat) : Bool := st.toPeer && decide (since + 500000 ≤ s.now)

/-! Accesses of the part's own that wait. -/

def Own.is (va n : Nat) (wr : Bool) (o : Own) : Bool := o.va == va && o.n == n && o.wr == wr

/-- The accesses after one of them has come to wait, for the first time or again; `far` are the parts peers are asked
for. -/
def State.ownWait (s : State) (l : List Own) (va n : Nat) (wr : Bool) (st : OpSt)
    (far : List (Option Nat × Nat × Nat) := []) : List Own :=
  match l.find? (Own.is va n wr) with
  | some _ => l.map fun o => if o.is va n wr then { o with st, since := s.waitsSince o.st st o.since, far } else o
  | none => l ++ [{ va, n, wr, st, since := s.now, far }]

/-- The accesses without one. -/
def ownDone (l : List Own) (va n : Nat) (wr : Bool) : List Own := l.filter fun o => !o.is va n wr

/-- The cause with which an access has failed while it waited (01 R26, 02 R52, R55, R56). -/
def ownDead (l : List Own) (va n : Nat) (wr : Bool) : Option Nat := (l.find? (Own.is va n wr)).bind (·.dead)

/-- Every access of the part's own that satisfies a test fails with cause 0x16 when it is next tried. -/
def killOwn (p : Own → Bool) (l : List Own) : List Own := l.map fun o => if p o then { o with dead := some 0x16 } else o

/-- The same for those of a table's entries. -/
def State.killOwns (s : State) (p : Own → Bool) : State :=
  { s with
    agents := tmap s.agents fun _ a => if a.pend.own.isEmpty then a else { a with pend := { a.pend with own := killOwn p a.pend.own } }
    grids := tmap s.grids fun _ g => if g.own.isEmpty then g else { g with own := killOwn p g.own }
    vds := tmap s.vds fun _ v => { v with streams := tmap v.streams fun _ x => { x with own := killOwn p x.own } } }

end Sys2Proof.Machine
end

