-- ==== Sys2Proof/Machine/Translate.lean ====
section
/-!
DEFINITION. Address translation (08 R215 to R220): the two stages of five levels, malformed entries,
permissions, replayable faults (07 R163), translations that may be older than the tables until a shoot-down,
and the pages a migration holds (01 R20).
-/
namespace Sys2Proof.Machine

/-- What an access does at an address: read, write, or fetch an instruction. -/
inductive Acs where
  | r | w | x
  deriving DecidableEq, Repr

/-- A translated page: physical address, what every entry read in stage 1 allows, the peer of a remote page, what every
entry of the last walk of stage 2 allows, and the page's size, `2 ^ lg` bytes. -/
structure Page where
  pa : Nat
  w : Bool
  x : Bool
  rmt : Option Nat
  w2 : Bool := true
  x2 : Bool := true
  lg : Nat := 12
  deriving DecidableEq, Repr

/-- The outcome of a walk. -/
inductive Walk where
  | ok (p : Page)
  | fail (cause : Nat) (repl : Bool)
  deriving DecidableEq, Repr

/-- The index of an address at level 5 to 1 (08 R216). -/
def levelIndex (va level : Nat) : Nat := bits va (12 + 9 * (level - 1)) 9
/-- Bytes of a leaf at a level. -/
def leafLg (level : Nat) : Nat := 12 + 9 * (level - 1)
def leafBytes (level : Nat) : Nat := 2 ^ leafLg level

/-- A present entry that breaks a rule of R217 or R218, at a level, in stage 1 or stage 2. -/
def malformed (e level : Nat) (stage1 : Bool) : Bool :=
  let leaf := bitAt e 3
  let c16 := bitAt e 4
  let rmt := bitAt e 5
  (leaf && decide (4 ≤ level)) || (!leaf && level == 1) || (c16 && level != 1)
    || (rmt && !(leaf && stage1)) || bits e 6 6 != 0 || bits e 60 4 != 0 || (!rmt && bits e 52 8 != 0)
    || (leaf && bits e 12 40 * 4096 % leafBytes level != 0)

/-- An entry of a translation table in physical memory, or the cause with which its read fails: walks read
like the host-driver agent, whose accesses are not checked against the owner table (08 R220, 03 R65). -/
def State.readEntry (s : State) (pa : Nat) : Except Nat Nat :=
  match s.homeDie pa with
  | none => .error 0x0B
  | some d =>
    if (s.die d).lost then .error 0x16
    else if s.isFaulty pa 8 then .error 0x16
    else .ok (s.getNat (.mem pa) 8)

/-- The 16 leaves of the 64 KiB group of a leaf at a physical address are used as one page (08 R218). -/
def State.group16 (s : State) (pa va e : Nat) : Bool :=
  let k := levelIndex va 1 % 16
  let ppn := bits e 12 40 - k
  bitAt e 4 && ppn % 16 == 0 && decide (k ≤ bits e 12 40) && (upFrom 0 16).all fun j =>
    match s.readEntry (pa - 8 * k + 8 * j) with
    | .ok x => bits x 0 12 == bits e 0 12 && bits x 52 8 == bits e 52 8 && bits x 12 40 == ppn + j
    | .error _ => false

/-- Stage 2 from a level down, `fuel` levels left: every failure is cause 0x0B without replay (08 R217). -/
def walk2 (s : State) (gpa : Nat) : Nat → Nat → Bool → Bool → Walk
  | 0, _, _, _ => .fail 0x0B false
  | level + 1, table, w, x =>
    let at_ := table + 8 * levelIndex gpa (level + 1)
    match s.readEntry at_ with
    | .error c => .fail c false
    | .ok e =>
      if !bitAt e 0 then .fail 0x0B false
      else if malformed e (level + 1) false then .fail 0x0B false
      else
        let w := w && bitAt e 1
        let x := x && bitAt e 2
        if bitAt e 3 then
          .ok { pa := bits e 12 40 * 4096 + gpa % leafBytes (level + 1), w, x, rmt := none
                lg := if s.group16 at_ gpa e then 16 else leafLg (level + 1) }
        else walk2 s gpa level (bits e 12 40 * 4096) w x

/-- A guest physical address to a device physical address, where stage 2 applies to the device (08 R216). -/
def State.stage2 (s : State) (vd gpa : Nat) : Walk :=
  if (s.vd vd).s2en then walk2 s gpa 5 ((s.vd vd).s2root * 4096) true true
  else .ok { pa := gpa, w := true, x := true, rmt := none, lg := 57 }

/-- Stage 1 from a level down. -/
def walk1 (s : State) (vd va : Nat) : Nat → Nat → Bool → Bool → Walk
  | 0, _, _, _ => .fail 0x0B false
  | level + 1, table, w, x =>
    match s.stage2 vd (table + 8 * levelIndex va (level + 1)) with
    | .fail c r => .fail c r
    | .ok p =>
      match s.readEntry p.pa with
      | .error c => .fail c false
      | .ok e =>
        if !bitAt e 0 then .fail 0x0B true
        else if malformed e (level + 1) true then .fail 0x0B false
        else
          let w := w && bitAt e 1
          let x := x && bitAt e 2
          if bitAt e 3 then
            let pa := bits e 12 40 * 4096 + va % leafBytes (level + 1)
            .ok { pa, w, x, rmt := if bitAt e 5 then some (bits e 52 8) else none
                  lg := if s.group16 p.pa va e then 16 else leafLg (level + 1) }
          else walk1 s vd va level (bits e 12 40 * 4096) w x

/-- The cause with which a page denies an access: stage 1 first (08 R217). -/
def Page.denies (p : Page) (acs : Acs) : Option Nat :=
  if (acs = .w ∧ !p.w) ∨ (acs = .x ∧ !p.x) then some 0x0C
  else if (acs = .w ∧ !p.w2) ∨ (acs = .x ∧ !p.x2) then some 0x0B
  else none

/-- A walk for one access (08 R217): stage 1 and its permissions, then stage 2 of the final address and its. -/
def State.walk (s : State) (vd ctx va : Nat) (acs : Acs) : Walk :=
  if 2 ^ 57 ≤ va then .fail 0x0B false
  else
    match walk1 s vd va 5 ((s.ctx vd ctx).s1root * 4096) true true with
    | .fail c r => .fail c r
    | .ok p =>
      if (acs = .w ∧ !p.w) ∨ (acs = .x ∧ !p.x) then .fail 0x0C false
      else if p.rmt.isSome then .ok p
      else
        match s.stage2 vd p.pa with
        | .fail c _ => .fail c false
        | .ok q =>
          if (acs = .w ∧ !q.w) ∨ (acs = .x ∧ !q.x) then .fail 0x0B false
          else .ok { p with pa := q.pa, w2 := q.w, x2 := q.x, lg := min p.lg q.lg }

/-! The entries a walk reads (08 R220). -/

/-- The table an entry of a level leads to. -/
def onward (e : Except Nat Nat) (level : Nat) (stage1 : Bool) : Option Nat :=
  match e with
  | .ok e => if bitAt e 0 && !bitAt e 3 && !malformed e level stage1 then some (bits e 12 40 * 4096) else none
  | .error _ => none

def reads2 (s : State) (gpa : Nat) : Nat → Nat → List Nat
  | 0, _ => []
  | level + 1, table =>
    let at_ := table + 8 * levelIndex gpa (level + 1)
    at_ :: (match onward (s.readEntry at_) (level + 1) false with
      | some t => reads2 s gpa level t
      | none => [])

def State.stage2Reads (s : State) (vd gpa : Nat) : List Nat :=
  if (s.vd vd).s2en then reads2 s gpa 5 ((s.vd vd).s2root * 4096) else []

def reads1 (s : State) (vd va : Nat) : Nat → Nat → List Nat
  | 0, _ => []
  | level + 1, table =>
    let at_ := table + 8 * levelIndex va (level + 1)
    s.stage2Reads vd at_ ++
      match s.stage2 vd at_ with
      | .ok p =>
        p.pa :: (match onward (s.readEntry p.pa) (level + 1) true with
          | some t => reads1 s vd va level t
          | none => [])
      | .fail _ _ => []

/-- The places of the entries a walk reads, in order. -/
def State.walkReads (s : State) (vd ctx va : Nat) : List (Loc × Nat) :=
  let root := (s.ctx vd ctx).s1root * 4096
  if 2 ^ 57 ≤ va then []
  else (reads1 s vd va 5 root ++
    match walk1 s vd va 5 root true true with
    | .ok p => if p.rmt.isSome then [] else s.stage2Reads vd p.pa
    | .fail _ _ => []).map fun pa => (.mem pa, 8)

/-- The outcome of translating an address. -/
inductive Xlat where
  | ok (pa : Nat) (rmt : Option Nat)
  | fail (cause : Nat) (repl : Bool)
  | wait (st : OpSt)
  deriving DecidableEq, Repr

/-- A held translation covers an address. -/
def TlbEnt.covers (e : TlbEnt) (vd ctx va : Nat) : Bool :=
  e.vd == vd && e.ctx == ctx && e.page * 4096 / 2 ^ e.lg == va / 2 ^ e.lg

/-- A held translation of an address. -/
def State.tlbGet (s : State) (vd ctx va : Nat) : Option TlbEnt := s.tlb.find? fun e => e.covers vd ctx va

/-- A translation put among those held. -/
def State.tlbPut (s : State) (vd ctx va : Nat) (p : Page) : State :=
  match s.tlbGet vd ctx va with
  | some _ => s
  | none =>
    let e : TlbEnt :=
      ⟨vd, ctx, va / 2 ^ p.lg * 2 ^ p.lg / 4096, p.lg, p.pa - p.pa % 2 ^ p.lg, p.w, p.x, p.rmt, p.w2, p.x2⟩
    { s with tlb := e :: s.tlb }

/-- A held entry as a page for an address. -/
def TlbEnt.at_ (e : TlbEnt) (va : Nat) : Page := ⟨e.pa + va % 2 ^ e.lg, e.w, e.x, e.rmt, e.w2, e.x2, e.lg⟩

/-- The page lies in one a migration holds in phase 2 (01 R20). -/
def State.migHeld (s : State) (pa : Nat) : Bool :=
  s.dies.any fun (_, d) => d.migs.any fun (_, m) =>
    m.phase == 2 && decide (m.src ≤ pa) && decide (pa < m.src + pageBytes m.pgsz)

/-- The outcome of a page that was found. -/
def State.useWalk (s : State) (vd ctx va : Nat) (acs : Acs) (w : Walk) : Xlat × State :=
  match w with
  | .fail c r => (.fail c r, s)
  | .ok p =>
    if let some c := p.denies acs then (.fail c false, s)
    else if p.rmt.isNone ∧ s.migHeld p.pa then (.wait .held, s)
    else (.ok p.pa p.rmt, s.tlbPut vd ctx va p)

/-- The tables are walked for an address: the reads of the entries wait at their homes for what the host holds modified
(08 R220, 02 R48). -/
def State.useFresh (s : State) (vd ctx va : Nat) (acs : Acs) : Xlat × State :=
  match s.atWalk (s.walkReads vd ctx va) with
  | (some st, s) => (.wait st, s)
  | (none, s) => s.useWalk vd ctx va acs (s.walk vd ctx va acs)

/-- Translating an address (08 R216 to R220): where a held translation differs from what the tables now say,
a free value decides which one the access uses, until a shoot-down drops it (log 13). -/
def State.translate (s : State) (vd ctx va : Nat) (acs : Acs) : Xlat × State :=
  match s.tlbGet vd ctx va with
  | some e =>
    if s.walk vd ctx va .r = .ok (e.at_ va) then s.useWalk vd ctx va acs (.ok (e.at_ va))
    else
      let (f, s) := s.fresh
      if f % 2 = 0 then s.useWalk vd ctx va acs (.ok (e.at_ va)) else s.useFresh vd ctx va acs
  | none => s.useFresh vd ctx va acs

/-- The address lies in the scratchpad window (08 R215). -/
def inWindow (va : Nat) : Bool := decide (va < 2 ^ 57) && decide (va / 2 ^ 40 = 0x1FFFF)

/-- The outcome of resolving a range of bytes. -/
inductive Rng where
  | ok (locs : List (Loc × Nat))
  /-- at least one page is remote: the parts in order, each at a peer or here, with its address and bytes -/
  | remote (parts : List (Option Nat × Nat × Nat))
  | fail (cause : Nat) (repl : Bool) (addr : Nat)
  | wait (st : OpSt)
  deriving DecidableEq, Repr

/-- One page's part of a range, checked for ownership, backing and errors where it is local. -/
def State.resolvePage (s : State) (vd ctx va n : Nat) (acs : Acs) : Rng × State :=
  match s.translate vd ctx va acs with
  | (.fail c r, s) => (.fail c r va, s)
  | (.wait st, s) => (.wait st, s)
  | (.ok pa (some d), s) => (.remote [(some d, pa, n)], s)
  | (.ok pa none, s) =>
    match s.physFail vd pa n with
    | some c => (.fail c false va, s)
    | none => (.ok [(.mem pa, n)], s)

/-- Places of memory as parts of a range that lies here. -/
def hereParts (l : List (Loc × Nat)) : List (Option Nat × Nat × Nat) :=
  l.filterMap fun
    | (.mem pa, n) => some (none, pa, n)
    | (.scr _ _, _) => none

/-- The places of the parts that lie here. -/
def partLocs (l : List (Option Nat × Nat × Nat)) : List (Loc × Nat) :=
  l.filterMap fun
    | (none, pa, n) => some (.mem pa, n)
    | (some _, _, _) => none

/-- Two parts of a range together (14 R383). -/
def Rng.join : Rng → Rng → Rng
  | .ok a, .ok b => .ok (a ++ b)
  | .remote a, .remote b => .remote (a ++ b)
  | .ok a, .remote b => .remote (hereParts a ++ b)
  | .remote a, .ok b => .remote (a ++ hereParts b)
  | .wait st, _ => .wait st
  | .fail c r a, _ => .fail c r a
  | _, .fail c r a => .fail c r a
  | _, .wait st => .wait st

/-- A range of bytes of at most two pages in a context. -/
def State.resolve (s : State) (vd ctx va n : Nat) (acs : Acs) : Rng × State :=
  let n1 := min n (4096 - va % 4096)
  match s.resolvePage vd ctx va n1 acs with
  | (.ok l, s1) =>
    if n1 = n then (.ok l, s1)
    else
      let (r, s2) := s1.resolvePage vd ctx (va + n1) (n - n1) acs
      ((Rng.ok l).join r, s2)
  | (r, s1) =>
    if n1 = n then (r, s1)
    else
      let (r', s2) := s1.resolvePage vd ctx (va + n1) (n - n1) acs
      (r.join r', s2)

/-- The outcome of an internal read or write by the part itself for a device. -/
inductive Got (α : Type) where
  | ok (a : α)
  | fail (cause : Nat) (repl : Bool) (addr : Nat)
  | wait (st : OpSt)
  deriving DecidableEq, Repr

/-- The places of a range of a context that the part reads or writes for itself, once nothing holds the access: records,
descriptors, frames (not the scratchpad, nor a peer's memory). What a frame spill engine writes is not counted by the
regulators (08 R202). -/
def State.ownPlaces (s : State) (vd ctx va n : Nat) (acs : Acs) (counted : Bool) : Got (List (Loc × Nat)) × State :=
  if inWindow va then (.fail 0x0C false va, s)
  else
    match s.resolve vd ctx va n acs with
    | (.fail c r a, s) => (.fail c r a, s)
    | (.wait st, s) => (.wait st, s)
    | (.remote _, s) => (.fail 0x0C false va, s)
    | (.ok l, s) =>
      if counted then
        match s.atHome vd (acs == .w) l with
        | (some st, s) => (.wait st, s)
        | (none, s) => (.ok l, s)
      else
        match s.snoopNeeded l (acs == .w) with
        | some line => (.wait (.snoop line), s.sendSnoop line (acs == .w))
        | none => (.ok l, s.passAll vd false (acs == .w) l)

/-- Bytes read at a virtual address of a context. -/
def State.readVa (s : State) (vd ctx va n : Nat) : Got (List Byte) × State :=
  match s.ownPlaces vd ctx va n .r true with
  | (.fail c r a, s) => (.fail c r a, s)
  | (.wait st, s) => (.wait st, s)
  | (.ok l, s) => (.ok (s.readChunks l), s)

/-- Bytes written at a virtual address of a context by the part itself. -/
def State.writeVa (s : State) (vd ctx va : Nat) (bs : List Byte) (counted : Bool := true) : Got Unit × State :=
  match s.ownPlaces vd ctx va bs.length .w counted with
  | (.fail c r a, s) => (.fail c r a, s)
  | (.wait st, s) => (.wait st, s)
  | (.ok l, s) => (.ok (), s.writeChunks l bs)

/-- An access of the part's own tried in a state, given those that wait; what remains of them comes back. -/
def State.ownTry {α : Type} (s : State) (l : List Own) (va n : Nat) (wr : Bool) (r : Got α × State) :
    Got α × List Own × State :=
  match ownDead l va n wr, r with
  | some c, _ => (.fail c false va, ownDone l va n wr, s)
  | none, (.wait st, t) => (.wait st, t.ownWait l va n wr st, t)
  | none, (x, t) => (x, ownDone l va n wr, t)

/-- The accesses of an agent's own that wait or have been answered. -/
def State.ownsOf (s : State) (i : Nat) : List Own := match tget s.agents i with | some a => a.pend.own | none => []

def State.setOwns (s : State) (i : Nat) (l : List Own) : State :=
  if s.ownsOf i = l then s
  else { s with agents := tmod s.agents i fun a => { a with pend := { a.pend with own := l } } }

/-- An access an agent makes of its own. -/
def State.ownOf {α : Type} (s : State) (i va n : Nat) (wr : Bool) (r : Got α × State) : Got α × State :=
  let q := s.ownTry (s.ownsOf i) va n wr r
  (q.1, q.2.2.setOwns i q.2.1)

end Sys2Proof.Machine
end

