-- ==== Sys2Proof/Machine/Operands.lean ====
section
/-!
DEFINITION. Operand forms (08 R189 to R192, R196, 11 R286 to R289, 12 R310): the result queue, the top frame's
registers, inline immediates, the writing of results and what a guarded-off instruction pushes.
-/
namespace Sys2Proof.Machine

/-- The outcome of reading operands: a value, an issue fault with its cause and ADDR, or a wait at issue
for a deferred write (11 R293). -/
inductive Rd (α : Type) where
  | ok (a : α)
  | fault (cause addr : Nat)
  | wait
  deriving DecidableEq, Repr

/-- One reading after another. -/
def Rd.andThen {α β : Type} : Rd α → (α → Rd β) → Rd β
  | .ok a, k => k a
  | .fault c ad, _ => .fault c ad
  | .wait, _ => .wait

/-- How an inline immediate is read (11 R287). -/
inductive As where
  | int | f32 | f64 | f16x2 | bf16x2
  deriving DecidableEq, Repr

/-- A source operand: its code, its width and the kind of its immediates. -/
structure Opnd where
  src : Src
  w : Nat
  imm : As := .int
  deriving DecidableEq, Repr

/-- A small integer as a number of a binary format, exactly (11 R287). -/
def packSmall (eb mb : Nat) (n : Int) : Nat :=
  let m := n.natAbs
  let e := Nat.log2 m
  if m = 0 then 0
  else b2n (n < 0) * 2 ^ (eb + mb) + (e + 2 ^ (eb - 1) - 1) * 2 ^ mb + (m * 2 ^ mb / 2 ^ e - 2 ^ mb)

/-- An inline immediate at a width and kind (11 R286, R287). -/
def immValue (n : BitVec 6) (w : Nat) : As → Nat
  | .int => truncInt (sextInt n.toNat 6) w
  | .f32 => packSmall 8 23 (sextInt n.toNat 6)
  | .f64 => packSmall 11 52 (sextInt n.toNat 6)
  | .f16x2 => let h := packSmall 5 10 (sextInt n.toNat 6); h + h * 65536
  | .bf16x2 => let h := packSmall 8 7 (sextInt n.toNat 6); h + h * 65536

/-! The queue. -/

/-- Words pushed in order, each becoming age 0; what passes age 15 leaves (08 R189). -/
def pushEnts (q ws : List QEnt) : List QEnt := (ws.foldl (fun q w => w :: q) q).take 16

def Agent.pushEnts (a : Agent) (ws : List QEnt) : Agent :=
  { a with arch := { a.arch with queue := Machine.pushEnts a.arch.queue ws } }

/-- Ready words pushed. -/
def Agent.push (a : Agent) (ws : List Word) : Agent := a.pushEnts (ws.map fun w => { val := w })

/-- The words of queue ages, in the order given; a pending one is an early read (08 R193). -/
def Agent.readQ (a : Agent) : List Nat → Rd (List Word)
  | [] => .ok []
  | n :: ns =>
    let e := a.arch.queue.getD n {}
    if e.pend.isSome then .fault 0x03 0
    else (a.readQ ns).andThen fun ws => .ok (e.val :: ws)

/-! The top frame. -/

/-- A frame that holds nothing. -/
def noFrame : Frame := ⟨0, 0, 0, false, false, 0, [], []⟩

/-- The top frame, while it is resident. -/
def Agent.top (a : Agent) : Frame := a.arch.frames.headD noFrame

/-- The demand of the top frame (08 R196). -/
def Agent.demand (a : Agent) : Nat := a.top.dem

/-- Call depth: frames above the entry frame (08 R188). -/
def Agent.depth (a : Agent) : Nat := a.arch.frames.length + a.arch.evicted.length - 1

def OpSt.isParked : OpSt → Bool
  | .parked _ _ => true
  | .ready _ | .walker _ _ | .snoop _ | .regul _ _ | .remote _ _ | .held => false

/-- A deferred write to one of `k` registers of the top frame from `n` is still to come (11 R293); that of a parked
access is not waited for, and the register keeps its value until the replay (07 R162 to R164). -/
def Agent.regBusy (a : Agent) (n k : Nat) : Bool :=
  a.pend.ops.any fun o =>
    !o.st.isParked &&
    match o.regw with
    | some (u, r) => u == a.top.uid && decide (r < n + k) && decide (n < r + o.words)
    | none => false

/-- `k` frame registers from `n`, the lowest first (08 R190, R196). -/
def Agent.readV (a : Agent) (n k : Nat) : Rd (List Word) :=
  if a.demand < n + k then .fault 0x04 n
  else if a.regBusy n k then .wait
  else .ok ((a.top.regs.drop n).take k)

/-- Frame registers written from `n`. -/
def putRegs (regs : List Word) (n : Nat) : List Word → List Word
  | [] => regs
  | w :: ws => putRegs (regs.set n w) (n + 1) ws

def Agent.setRegs (a : Agent) (n : Nat) (ws : List Word) : Agent :=
  match a.arch.frames with
  | [] => a
  | f :: fs => { a with arch := { a.arch with frames := { f with regs := putRegs f.regs n ws } :: fs } }

/-! Sources. -/

/-- The words of a source, the lowest first (08 R190, 11 R286, R288). -/
def Agent.srcWords (a : Agent) (o : Opnd) : Rd (List Word) :=
  let k := o.w / 32
  match o.src with
  | .imm n => .ok (wordsOf (immValue n o.w o.imm) k)
  | .q n => a.readQ ((upFrom n.val k).reverse)
  | .v n => a.readV n.val k

/-- The value of a source (12 R310). -/
def Agent.src (a : Agent) (o : Opnd) : Rd Nat := (a.srcWords o).andThen fun ws => .ok (ofWords ws)

/-- Every source, in the order of the word's fields, before anything is written (12 R310). -/
def Agent.srcs (a : Agent) : List Opnd → Rd (List Nat)
  | [] => .ok []
  | o :: os => (a.src o).andThen fun x => (a.srcs os).andThen fun xs => .ok (x :: xs)

/-! Destinations. -/

/-- A deferred write to a predicate is still to come (11 R293, 07 R162). -/
def Agent.predBusy (a : Agent) (p : Nat) : Bool :=
  a.pend.ops.any fun o => !o.st.isParked && o.preds.any fun e => e.1 == p

/-- A destination of `k` words can be written now (08 R196, 12 R310). -/
def Agent.dstReady (a : Agent) (d : Dst) (k : Nat) : Rd Unit :=
  match d with
  | .reg n =>
    if a.demand < n.val + k then .fault 0x04 n.val
    else if a.regBusy n.val k then .wait else .ok ()
  | .pred p => if a.predBusy p.val then .wait else .ok ()
  | .push | .nil => .ok ()

/-- `result(x, w)` in words: a push and a frame register, or nothing (12 R310, 11 R289). -/
def Agent.putWords (a : Agent) (d : Dst) (ws : List Word) : Agent :=
  match d with
  | .push => a.push ws
  | .reg n => (a.push ws).setRegs n.val ws
  | .pred _ | .nil => a

/-- `result(x, w)` with `k` words. -/
def Agent.putResult (a : Agent) (d : Dst) (k x : Nat) : Agent := a.putWords d (wordsOf x k)

/-- Words a destination takes from the queue. -/
def dstPushes (d : Dst) (k : Nat) : Nat :=
  match d with
  | .push | .reg _ => k
  | .pred _ | .nil => 0

/-- The words `ws` as `k` words: the low ones, or followed by zeros (08 R191). -/
def fitWords (ws : List Word) (k : Nat) : List Word := ws.take k ++ List.replicate (k - ws.length) 0

/-- What a guarded-off instruction does: it pushes as many words as it would have, from its first source,
and writes nothing (08 R191). -/
def Agent.pushOff (a : Agent) (first : Option Opnd) (d : Dst) (k : Nat) : Rd Agent :=
  if dstPushes d k = 0 then .ok a
  else
    match first with
    | none => .ok (a.push (List.replicate k 0))
    | some o => (a.srcWords o).andThen fun ws => .ok (a.push (fitWords ws k))

end Sys2Proof.Machine
end

