-- ==== Sys2Proof/Machine/Flags.lean ====
section
/-!
DEFINITION. Predicates, the part's only flags (08 R188): guards (11 R282), predicate selectors (12 R319),
predicate results (12 R310), and the body-end test of the loop stack (12 R335).
-/
namespace Sys2Proof.Machine

/-- Predicate `p`; `%pt` reads true. -/
def Agent.pred (a : Agent) (p : Nat) : Bool := if p < 7 then bitAt a.arch.preds.toNat p else true

def Agent.setPred (a : Agent) (p : Nat) (b : Bool) : Agent :=
  { a with arch := { a.arch with preds := BitVec.ofNat 7 (setBits a.arch.preds.toNat p 1 (b2n b)) } }

/-- A predicate read as an operand waits for its deferred write (11 R293). -/
def Agent.readPred (a : Agent) (p : Nat) (neg : Bool) : Rd Bool :=
  if a.predBusy p then .wait else .ok (a.pred p != neg)

/-- A predicate selector (12 R319). -/
def Agent.psel (a : Agent) (p : PSel) : Rd Bool := a.readPred p.p.toNat p.neg

/-- The guard of an instruction (11 R282), ANDed with the guard of the `macro` whose operation it is
(R299). -/
def Agent.guard (a : Agent) (h : Hdr) : Rd Bool :=
  (a.readPred h.gp.toNat h.gn).andThen fun g =>
    match a.arch.mac with
    | none => .ok g
    | some m => (a.readPred m.gp.toNat m.gn).andThen fun g' => .ok (g && g')

/-- `presult(b)` (12 R310). -/
def Agent.putPred (a : Agent) (d : Dst) (b : Bool) : Agent :=
  match d with
  | .pred p => a.setPred p.val b
  | .push | .reg _ | .nil => a.putResult d 1 (b2n b)

/-- The body-end test (12 R335) on a loop stack: what NPC and the stack become. -/
def bodyEnd (npc : DWord) : List Loop → DWord × List Loop
  | [] => (npc, [])
  | l :: ls =>
    if npc = l.start + BitVec.ofNat 64 (8 * l.len) then
      if 1 < l.count.toNat then (l.start, { l with count := l.count - 1 } :: ls)
      else bodyEnd npc ls
    else (npc, l :: ls)

/-- The PC with the tag of a microprogram operation (11 R301). -/
def taggedPc (pc : DWord) (m : MacRun) : DWord := BitVec.ofNat 64 (2 ^ 62 + m.j % 32 * 2 ^ 57 + pc.toNat % 2 ^ 57)

/-- The PC of the next instruction to issue. -/
def Agent.curPc (a : Agent) : DWord :=
  match a.arch.mac with
  | none => a.arch.pc
  | some m => taggedPc a.arch.pc m

end Sys2Proof.Machine
end

