-- ==== Sys2Proof/Machine/Frames.lean ====
section
/-!
DEFINITION. Frame pools and requests (08 R195 to R199), the spill area and the frames the spill engine moves
(05 R123, 08 R202 to R204).
-/
namespace Sys2Proof.Machine

def State.grid (s : State) (g : Nat) : Grid := tgetD s.grids g {}
def LRec.threads (r : LRec) : Nat := r.tx * r.ty * r.tz
def LRec.teams (r : LRec) : Nat := r.gx * r.gy * r.gz
/-- The linear index of a team in its grid. -/
def State.teamN (s : State) (t : Nat) : Nat := ((tget s.teams t).map (·.n)).getD 0
/-- The number of a pod group in its grid. -/
def State.podK (s : State) (p : Nat) : Nat := ((tget s.pods p).map (·.k)).getD 0

/-- The spill area of an agent, whose first 256 bytes are its trap save area (05 R123). -/
def State.spillBase (s : State) (a : Agent) : Nat :=
  let r := (s.grid a.id.grid).lrec
  if a.id.seq then r.spill + r.teams * r.threads * r.spillb + 256 * s.podK a.id.pod
  else r.spill + (s.teamN a.id.team * r.threads + a.id.tid) * r.spillb

/-! Pools. -/

/-- The pool an agent's frames occupy (08 R195, R210, 12 R331). -/
def poolOf (i : Nat) (a : Agent) : Pool :=
  if a.id.seq then .seq i else .lane a.pos.core a.pos.pip a.pos.lane a.pos.away

/-- The granules of a pool (08 R195, 12 R331). -/
def poolGran : Pool → List Nat
  | .lane _ _ _ false => upFrom 0 64
  | .lane _ _ _ true => upFrom 64 8
  | .seq _ => upFrom 0 16

/-- Granules of an agent's resident frames. -/
def Agent.granules (a : Agent) : List Nat := a.arch.frames.flatMap (·.gran)

/-- Granules of a pool in use: by resident frames, or held for a request. -/
def State.usedGran (s : State) (p : Pool) : List Nat :=
  s.agents.flatMap fun (i, a) =>
    (if !a.pos.out && poolOf i a == p then a.granules else []) ++
      (match a.pend.freq with
       | some r => if r.pool == p then r.held else []
       | none => [])

def State.freeGran (s : State) (p : Pool) : List Nat :=
  let used := s.usedGran p
  (poolGran p).filter fun g => !used.contains g

/-- Granules of an agent's own that its request counts as available (12 R332, R333). -/
def FReq.ownGran (r : FReq) (a : Agent) : Nat := if r.own then a.granules.length else 0

/-- The request has what it asks for. -/
def FReq.served (r : FReq) (a : Agent) : Bool := decide (r.want ≤ r.held.length + r.ownGran a)

/-- The agent is frame-blocked (08 R198). -/
def Agent.frameBlocked (a : Agent) : Bool :=
  match a.pend.freq with
  | some r => !r.served a
  | none => false

/-- Two pools are of one lane: its general and its landing pool (08 R195, R198). -/
def Pool.oneLane : Pool → Pool → Bool
  | .lane c p l _, .lane c' p' l' _ => c == c' && p == p' && l == l'
  | .seq a, .seq b => a == b
  | .lane _ _ _ _, .seq _ | .seq _, .lane _ _ _ _ => false

/-- The frame-blocked agents of a pool's lane with their requests (08 R198). -/
def State.blockedIn (s : State) (p : Pool) : List (Nat × Agent × FReq) :=
  s.agents.filterMap fun (i, a) =>
    match a.pend.freq with
    | some r => if r.pool.oneLane p && !r.served a then some (i, a, r) else none
    | none => none

/-- A thread of the pool itself is frame-blocked (12 R341). -/
def State.poolBlocked (s : State) (p : Pool) : Bool := (s.blockedIn p).any fun x => x.2.2.pool == p

/-- The agent of a pool's lane that has waited longest. -/
def State.oldestBlocked (s : State) (p : Pool) : Option (Nat × Agent × FReq) :=
  (s.blockedIn p).foldl (fun m x =>
    match m with
    | some y => if x.2.2.since < y.2.2.since then some x else m
    | none => some x) none

/-- A frame request of an agent (08 R198): `none` when it is served at once, otherwise the state in which
it waits behind the older ones. -/
def State.frameReq (s : State) (i : Nat) (a : Agent) (p : Pool) (want : Nat) (own : Bool) (args : List Nat) :
    Option State :=
  match a.pend.freq with
  | some r => if r.served a then none else some s
  | none =>
    let r : FReq := { pool := p, want, own, since := 0, args }
    if (s.blockedIn p).isEmpty && decide (want ≤ (s.freeGran p).length + r.ownGran a) then none
    else
      let (t, s) := s.newId
      some (s.setAgent i { a with pend := { a.pend with freq := some { r with since := t } } })

/-- `n` granules picked from those available: the part chooses, in no fixed order (08 R201, log 6). -/
def pickGran (s : State) (avail : List Nat) : Nat → List Nat × State
  | 0 => ([], s)
  | n + 1 =>
    let (f, s) := s.fresh
    let g := avail.getD (f % avail.length) 0
    let (gs, s) := pickGran s (avail.filter fun x => x != g) n
    (g :: gs, s)

/-- Granules for a served request of agent `i`: from what it holds and what is free in the pool. The
request ends. -/
def State.takeGran (s : State) (i : Nat) (p : Pool) (n : Nat) : List Nat × State :=
  match tget s.agents i with
  | none => ([], s)
  | some a =>
    let s := s.setAgent i { a with pend := { a.pend with freq := none } }
    pickGran s (s.freeGran p) n

/-- Granules of a pool were freed: the waits of its requests count anew (08 R202). -/
def State.noteFreed (s : State) (p : Pool) : State :=
  { s with agents := tmap s.agents fun _ a =>
      match a.pend.freq with
      | some r => if r.pool == p then { a with pend := { a.pend with freq := some { r with cycles := 0 } } } else a
      | none => a }

/-- The same, where there were any. -/
def State.noteFreedIf (s : State) (b : Bool) (p : Pool) : State := if b then s.noteFreed p else s

/-- A frame request withdrawn: what is held for it returns to the pool (07 R187, 08 R206), and the waits of the pool count
anew where that is a granule (R202). -/
def State.dropReq (s : State) (i : Nat) : State :=
  match tget s.agents i with
  | none => s
  | some a =>
    match a.pend.freq with
    | none => s
    | some r =>
      let s := s.setAgent i { a with pend := { a.pend with freq := none } }
      s.noteFreedIf (!r.held.isEmpty) r.pool

/-- A new frame: every register zero (08 R196). -/
def newFrame (uid dem : Nat) (ret : DWord) (hf trf : Bool) (land : Word) (gran : List Nat) : Frame :=
  ⟨uid, ret, dem, hf, trf, land, List.replicate dem 0, gran⟩

/-! The spill area. -/

/-- Bytes of an evicted frame: link record and registers, padded to 16 (08 R203). -/
def spillBytes (dem : Nat) : Nat := ceilDiv (16 + 4 * dem) 16 * 16

/-- The link record and registers of a frame (08 R197, R203). -/
def frameBytes (f : Frame) : List Byte :=
  let l := bytesOf (f.ret.toNat % 2 ^ 57) 8
    ++ bytesOf (f.dem + 256 * b2n f.hf + 512 * b2n f.trf) 4 ++ bytesOf f.land.toNat 4
    ++ f.regs.flatMap fun w => bytesOf w.toNat 4
  l ++ List.replicate (spillBytes f.dem - l.length) 0

/-- The words of little-endian bytes. -/
def wordsOfBytes (bs : List Byte) : Nat → List Word
  | 0 => []
  | n + 1 => BitVec.ofNat 32 (ofBytes (bs.take 4)) :: wordsOfBytes (bs.drop 4) n

/-- The outcome of moving a frame. -/
inductive Evict where
  | ok (s : State)
  | noFit
  | fail (cause : Nat) (s : State)
  | wait (s : State)
  deriving Repr

/-- The bottom resident frame of an agent evicted, when it fits in the spill area (08 R202, R203); one
whose area cannot be written does not fit (log 19), but one whose write fails while it waits fails with its cause (01 R26,
02 R52). -/
def State.evictBottom (s : State) (i : Nat) : Evict :=
  match tget s.agents i with
  | none => .noFit
  | some a =>
    match a.arch.frames.getLast? with
    | none => .noFit
    | some f =>
      let n := spillBytes f.dem
      if a.id.seq || decide ((s.grid a.id.grid).lrec.spillb < 256 + a.arch.spill + n) then .noFit
      else
        let va := s.spillBase a + 256 + a.arch.spill
        match s.ownOf i va (frameBytes f).length true (s.writeVa a.id.vd a.id.ctx va (frameBytes f) false) with
        | (.fail c _ _, t) => if (ownDead (s.ownsOf i) va (frameBytes f).length true).isSome then .fail c t else .noFit
        | (.wait _, s) => .wait s
        | (.ok (), s) =>
          let a := (tget s.agents i).getD a
          let arch := { a.arch with
            frames := a.arch.frames.dropLast
            evicted := ⟨f.uid, f.dem, f.hf, f.trf⟩ :: a.arch.evicted
            spill := a.arch.spill + n }
          .ok ((s.setAgent i { a with arch }).noteFreed (poolOf i a))

/-- The frame that the bytes of an evicted one hold (08 R203). -/
def frameOf (uid : Nat) (bs : List Byte) (gran : List Nat) : Frame :=
  let w := ofBytes ((bs.drop 8).take 4)
  { uid, ret := BitVec.ofNat 64 (ofBytes (bs.take 8) % 2 ^ 57), dem := bits w 0 8, hf := bitAt w 8, trf := bitAt w 9
    land := BitVec.ofNat 32 (ofBytes ((bs.drop 12).take 4)), regs := wordsOfBytes (bs.drop 16) (bits w 0 8), gran }

/-- The topmost evicted frame of agent `i` read back into granules (08 R204): everything of it as the spill area holds it.
DESIGN CHOICE (log 19): how far it lies there, and the granules it takes, go by its demand at the eviction, whatever DEM the
area now holds, and registers beyond those bytes read zero. -/
def State.restoreTop (s : State) (i : Nat) (a : Agent) (gran : List Nat) : Got Agent × State :=
  match a.arch.evicted with
  | [] => (.ok a, s)
  | e :: es =>
    let n := spillBytes e.dem
    let va := s.spillBase a + 256 + (a.arch.spill - n)
    match s.ownOf i va n false (s.readVa a.id.vd a.id.ctx va n) with
    | (.fail c r ad, s) => (.fail c r ad, s)
    | (.wait st, s) => (.wait st, s)
    | (.ok bs, s) =>
      let own := match tget s.agents i with | some b => b.pend.own | none => []
      (.ok { a with
        pend := { a.pend with own }
        arch := { a.arch with
          frames := a.arch.frames ++ [frameOf e.uid bs gran], evicted := es, spill := a.arch.spill - n } }, s)

end Sys2Proof.Machine
end

