-- ==== Sys2Proof/Machine/Float.lean ====
section
/-!
DEFINITION. Number formats and arithmetic (10 R258 to R275): exact values, rounding, decoding and encoding of
elements, lane arithmetic.
-/
namespace Sys2Proof.Machine

/-- An exact value (10 R258): (−1)^s × m × 2^x, an infinity, or NaN. -/
inductive Val where
  | fin (s : Bool) (m : Nat) (x : Int)
  | inf (s : Bool)
  | nan
  deriving DecidableEq, Repr

/-- A non-negative magnitude `m × 2^x`; with `more`, the exact value lies strictly between it and
`(m + 1) × 2^x`. -/
structure Mag where
  m : Nat
  x : Int
  more : Bool := false
  deriving DecidableEq, Repr

/-- The integer part of a magnitude over `2^q`, and how the rest compares with one half:
0 nothing, 1 below, 2 equal, 3 above. -/
def Mag.over (v : Mag) (q : Int) : Nat × Nat :=
  if q ≤ v.x then (v.m * 2 ^ (v.x - q).toNat, if v.more then 1 else 0)
  else
    let k := (q - v.x).toNat
    let n := v.m / 2 ^ k
    let r := v.m % 2 ^ k
    let h := 2 ^ (k - 1)
    (n, if r = 0 then (if v.more then 1 else 0)
        else if r < h then 1
        else if r = h then (if v.more then 3 else 2)
        else 3)

/-- Whether a value between two neighbours goes to the larger magnitude (10 R270): `odd` tells bit 0 of the
smaller, `odd'` of the larger, `rest` how it compares with the midpoint. -/
def roundsUp (rm : RM) (s odd odd' : Bool) (rest : Nat) : Bool :=
  if rest = 0 then false
  else
    match rm with
    | .rne => rest == 3 || (rest == 2 && odd && !odd')
    | .rz => false
    | .ru => !s
    | .rd => s
    | .ro => !odd

/-- A magnitude rounded to an integer (10 R270). -/
def roundInt (rm : RM) (s : Bool) (v : Mag) : Nat :=
  let (n, rest) := v.over 0
  n + b2n (roundsUp rm s (n % 2 == 1) (n % 2 == 0) rest)

/-! FLOAT formats (10 R259, R270, R271). -/

def Fmt.emax (f : Fmt) : Nat := 2 ^ f.eb - 1

/-- The value of a magnitude code of a FLOAT format (10 R259), taken finite. -/
def Fmt.magVal (f : Fmt) (c : Nat) : Mag :=
  let fr := c % 2 ^ f.mb
  let e := c / 2 ^ f.mb
  if e = 0 then ⟨if f.subn then fr else 0, 1 - f.bias - f.mb, false⟩
  else ⟨2 ^ f.mb + fr, e - f.bias - f.mb, false⟩

/-- A magnitude code that decodes to NaN, or to an infinity. -/
def Fmt.isNan (f : Fmt) (c : Nat) : Bool :=
  c / 2 ^ f.mb == f.emax &&
    ((f.nanp == 1 && c % 2 ^ f.mb != 0) || (f.nanp == 2 && c % 2 ^ f.mb == 2 ^ f.mb - 1))
def Fmt.isInf (f : Fmt) (c : Nat) : Bool :=
  f.inf == 1 && c / 2 ^ f.mb == f.emax && c % 2 ^ f.mb == 0 && !f.isNan c

/-- The code of the maximum finite magnitude (10 R259). -/
def Fmt.maxCode (f : Fmt) : Nat :=
  let top := f.emax * 2 ^ f.mb
  let all := top + 2 ^ f.mb - 1
  (([all, all - 1, top, top - 1]).find? fun c => !f.isNan c && !f.isInf c).getD 0

/-- The canonical NaN, where the format has one (10 R259). -/
def Fmt.nanCode (f : Fmt) : Option Nat :=
  if f.nanp = 1 ∧ 1 ≤ f.mb then some (f.emax * 2 ^ f.mb + 2 ^ (f.mb - 1))
  else if f.nanp = 2 then some (f.emax * 2 ^ f.mb + 2 ^ f.mb - 1)
  else none

/-- A magnitude rounded on the grid of a FLOAT format, as the code it has or would have (10 R270). -/
def Fmt.roundMag (f : Fmt) (rm : RM) (s : Bool) (v : Mag) : Nat :=
  let least := if f.subn then 1 else 2 ^ f.mb
  let e := (Nat.log2 v.m : Int) + v.x + f.bias
  if v.m = 0 ∨ e < -(f.mb : Int) - 2 then
    b2n (roundsUp rm s false true (b2n (v.more || decide (v.m ≠ 0)))) * least
  else if (f.emax : Int) + 1 < e then (f.emax + 2) * 2 ^ f.mb
  else if e < 1 ∧ !f.subn then
    let (half, rest) := v.over (-f.bias)
    b2n (roundsUp rm s false (f.mb == 0) (if half = 0 then 1 else if rest = 0 then 2 else 3)) * least
  else
    let e := if e < 1 then 1 else min e.toNat f.emax
    let (n, rest) := v.over ((e : Int) - f.bias - f.mb)
    let c := n + (e - 1) * 2 ^ f.mb
    c + b2n (roundsUp rm s (c % 2 == 1) (c % 2 == 0) rest)

/-- The sign bit of a format's codes. -/
def Fmt.signBit (f : Fmt) (s : Bool) : Nat := if f.sign && s then 2 ^ (f.w - 1) else 0

/-- The bound of a format's range on one side (10 R271); a bound of zero has the positive-zero code where NZ is 1 (R267). -/
def Fmt.bound (f : Fmt) (s : Bool) : Nat :=
  if (s && !f.sign) || (f.nz && f.maxCode == 0) then 0 else f.signBit s + f.maxCode

/-- What an infinite input, or an overflow away from zero, becomes without `.sat` (10 R271). -/
def Fmt.infCode (f : Fmt) (s : Bool) : Nat :=
  if f.inf = 1 ∧ (f.sign ∨ !s) ∧ f.isInf (f.emax * 2 ^ f.mb) then f.signBit s + f.emax * 2 ^ f.mb
  else f.nanCode.getD (f.bound s)

/-- An overflow under a rounding mode goes away from zero (10 R271). -/
def overflowsOut (rm : RM) (s : Bool) : Bool :=
  match rm with
  | .rne => true
  | .rz | .ro => false
  | .ru => !s
  | .rd => s

/-- A signed magnitude encoded in a FLOAT format (10 R270 to R272). -/
def Fmt.encFloat (f : Fmt) (rm : RM) (sat : Bool) (s : Bool) (v : Mag) : Nat :=
  let c := f.roundMag rm s v
  if c = 0 then (if f.nz then 0 else f.signBit s)
  else if (s && !f.sign) || decide (f.maxCode < c) then
    if sat || !overflowsOut rm s then f.bound s else f.infCode s
  else f.signBit s + c

/-! INT formats (10 R260, R271). -/

/-- An integer brought into the range of a W-bit integer type. -/
def clampInt (w : Nat) (sign : Bool) (i : Int) : Int :=
  if sign then max (-(2 ^ (w - 1) : Nat)) (min i ((2 ^ (w - 1) : Nat) - 1))
  else max 0 (min i ((2 ^ w : Nat) - 1))

def signed (s : Bool) (n : Nat) : Int := if s then -(n : Int) else n

/-- A value as a W-bit integer (10 R274): rounded, the bound beyond the range, NaN as 0. -/
def encInt (w : Nat) (sign : Bool) (rm : RM) : Val → Nat
  | .nan => 0
  | .inf s => truncInt (clampInt w sign (signed s (2 ^ 200))) w
  | .fin s m x => truncInt (clampInt w sign (signed s (roundInt rm s ⟨m, x, false⟩))) w

/-- An integer as an exact value (10 R260). -/
def Val.ofInt (i : Int) : Val := .fin (decide (i < 0)) i.natAbs 0

/-! The lane formats. -/

def f32F : Fmt := {}
def f64F : Fmt := { w := 64, eb := 11, mb := 52, bias := 1023 }
def f16F : Fmt := { w := 16, eb := 5, mb := 10, bias := 15 }
def bf16F : Fmt := { w := 16, eb := 8, mb := 7, bias := 127 }

/-- A FLOAT code decoded (10 R259). -/
def Fmt.decFloat (f : Fmt) (code : Nat) : Val :=
  let s := f.sign && bitAt code (f.w - 1)
  let c := code % 2 ^ (f.eb + f.mb)
  if f.isNan c then .nan
  else if f.isInf c then .inf s
  else .fin s (f.magVal c).m (f.magVal c).x

/-- A value encoded in a FLOAT format (10 R270 to R272); NaN as the canonical NaN, or code 0. -/
def Fmt.encVal (f : Fmt) (rm : RM) (sat : Bool) : Val → Nat
  | .nan => f.nanCode.getD 0
  | .inf s => if sat then f.bound s else f.infCode s
  | .fin s m x => f.encFloat rm sat s ⟨m, x, false⟩

/-! Exact operations (10 R272, R275). -/

/-- The integer of a signed magnitude at exponent `q ≤ x`. -/
def atExp (s : Bool) (m : Nat) (x q : Int) : Int := signed s (m * 2 ^ (x - q).toNat)

/-- The sign of an exact zero sum (10 R272). -/
def zeroSign (rm : RM) (s t : Bool) : Bool := if s == t then s else rm == .rd

/-- An exact sum; the rounding mode gives the sign of a zero. -/
def vadd (rm : RM) : Val → Val → Val
  | .nan, _ | _, .nan => .nan
  | .inf s, .inf t => if s = t then .inf s else .nan
  | .inf s, .fin _ _ _ => .inf s
  | .fin _ _ _, .inf t => .inf t
  | .fin s m x, .fin t n y =>
    if m = 0 ∧ n = 0 then .fin (zeroSign rm s t) 0 0
    else
      let q := min x y
      let z := atExp s m x q + atExp t n y q
      if z = 0 then .fin (rm == .rd) 0 0 else .fin (decide (z < 0)) z.natAbs q

def vneg : Val → Val
  | .nan => .nan
  | .inf s => .inf !s
  | .fin s m x => .fin (!s) m x

/-- An exact product. -/
def vmul : Val → Val → Val
  | .nan, _ | _, .nan => .nan
  | .inf s, .inf t => .inf (s != t)
  | .inf s, .fin t n _ => if n = 0 then .nan else .inf (s != t)
  | .fin s m _, .inf t => if m = 0 then .nan else .inf (s != t)
  | .fin s m x, .fin t n y => .fin (s != t) (m * n) (x + y)

/-- How two values compare: `none` when one is NaN. Zeros are equal. -/
def vcmp : Val → Val → Option Ordering
  | .nan, _ | _, .nan => none
  | .inf s, .inf t => some (if s = t then .eq else if s then .lt else .gt)
  | .inf s, .fin _ _ _ => some (if s then .lt else .gt)
  | .fin _ _ _, .inf t => some (if t then .gt else .lt)
  | .fin s m x, .fin t n y =>
    let q := min x y
    some (compare (atExp s m x q) (atExp t n y q))

def Val.neg? : Val → Bool
  | .nan => false
  | .inf s | .fin s _ _ => s
def Val.isZero : Val → Bool
  | .fin _ m _ => m == 0
  | _ => false
def Val.isNan : Val → Bool
  | .nan => true
  | _ => false
def Val.isInf : Val → Bool
  | .inf _ => true
  | _ => false

/-! Lane operations on codes of one format (10 R275, 13 R344 to R350). -/

def Fmt.add (f : Fmt) (rm : RM) (a b : Nat) : Nat := f.encVal rm false (vadd rm (f.decFloat a) (f.decFloat b))
def Fmt.sub (f : Fmt) (rm : RM) (a b : Nat) : Nat :=
  f.encVal rm false (vadd rm (f.decFloat a) (vneg (f.decFloat b)))
def Fmt.mul (f : Fmt) (rm : RM) (a b : Nat) : Nat := f.encVal rm false (vmul (f.decFloat a) (f.decFloat b))
def Fmt.fma (f : Fmt) (rm : RM) (a b c : Nat) : Nat :=
  f.encVal rm false (vadd rm (vmul (f.decFloat a) (f.decFloat b)) (f.decFloat c))

/-- `fmin` and `fmax` (13 R345): −0 is below +0; a single NaN gives the other operand. -/
def Fmt.minmax (f : Fmt) (mx : Bool) (a b : Nat) : Nat :=
  let x := f.decFloat a
  let y := f.decFloat b
  match vcmp x y with
  | none => if x.isNan && y.isNan then f.nanCode.getD 0 else if x.isNan then b else a
  | some o =>
    let aLess := o == .lt || (o == .eq && x.neg? && !y.neg?)
    if aLess == mx then b else a

/-- `frnd` (13 R348). -/
def Fmt.rnd (f : Fmt) (rm : RM) (a : Nat) : Nat :=
  match f.decFloat a with
  | .nan => f.nanCode.getD 0
  | .inf _ => a
  | .fin s m x => f.encVal rm false (.fin s (roundInt rm s ⟨m, x, false⟩) 0)

/-- `fscale` (13 R350). -/
def Fmt.scale (f : Fmt) (rm : RM) (a : Nat) (n : Int) : Nat :=
  match f.decFloat a with
  | .fin s m x => if m = 0 then a else f.encVal rm false (.fin s m (x + n))
  | v => f.encVal rm false v

/-- `fgetexp` (13 R350). -/
def Fmt.getexp (f : Fmt) (a : Nat) : Nat :=
  match f.decFloat a with
  | .fin _ m x => if m = 0 then 0x80000000 else truncInt ((Nat.log2 m : Int) + x) 32
  | _ => 0x7FFFFFFF

/-- `fgetman` (13 R350). -/
def Fmt.getman (f : Fmt) (a : Nat) : Nat :=
  match f.decFloat a with
  | .fin s m _ => if m = 0 then a else f.encVal .rne false (.fin s m (-(Nat.log2 m : Int)))
  | v => f.encVal .rne false v

/-- `fclass` (13 R347). -/
def Fmt.fclass (f : Fmt) (a : Nat) : Nat :=
  let e := a % 2 ^ (f.eb + f.mb) / 2 ^ f.mb
  match f.decFloat a with
  | .nan => 2 ^ 8
  | .inf s => if s then 2 ^ 0 else 2 ^ 7
  | .fin s m _ =>
    if m = 0 then (if s then 2 ^ 3 else 2 ^ 4)
    else if e = 0 then (if s then 2 ^ 2 else 2 ^ 5)
    else if s then 2 ^ 1 else 2 ^ 6

/-- A floating-point relation (13 R346). -/
def frel (r : FRel) (a b : Val) : Bool :=
  match r, vcmp a b with
  | .eq, some .eq => true
  | .ne, o => o != some .eq
  | .lt, some .lt => true
  | .le, some o => o != .gt
  | .gt, some .gt => true
  | .ge, some o => o != .lt
  | .unord, none => true
  | .ord, some _ => true
  | _, _ => false

/-- A function of 16-bit halves on packed words (13 R344). -/
def onHalves1 (g : Nat → Nat) (a : Nat) : Nat := g (bits a 0 16) + g (bits a 16 16) * 65536
def onHalves2 (g : Nat → Nat → Nat) (a b : Nat) : Nat :=
  g (bits a 0 16) (bits b 0 16) + g (bits a 16 16) (bits b 16 16) * 65536
def onHalves3 (g : Nat → Nat → Nat → Nat) (a b c : Nat) : Nat :=
  g (bits a 0 16) (bits b 0 16) (bits c 0 16) + g (bits a 16 16) (bits b 16 16) (bits c 16 16) * 65536

def hFmt : HTy → Fmt
  | .f16x2 => f16F
  | .bf16x2 => bf16F
def fFmt : FTy → Fmt
  | .f32 => f32F
  | .f64 => f64F

end Sys2Proof.Machine
end

