-- ==== Sys2Proof/Machine/Formats.lean ====
section
/-!
DEFINITION. Elements of slot formats (10 R258 to R274): decoding and encoding by a descriptor, blocks, codebooks,
the extra value, lane types, and packed bit strings (08 R224).
-/
namespace Sys2Proof.Machine

/-- The negative-zero code of a format (10 R267). -/
def Fmt.negZero (f : Fmt) : Nat := 2 ^ (f.w - 1)

/-- A block with one of its exponent bytes 0xFF (10 R265). -/
def Fmt.nanBlock (f : Fmt) (e0 e1 : Nat) : Bool := e0 == 255 || (f.nse == 2 && e1 == 255)

/-- An element decoded under its descriptor, the extra value and the block's exponents (10 R259 to R267). -/
def Fmt.decode (f : Fmt) (code : Nat) (extra : Word) (e0 e1 : Nat) : Val :=
  let c := code % 2 ^ f.w
  if f.nz ∧ c = f.negZero then f32F.decFloat extra.toNat
  else
    match f.kind with
    | 0 => f.decFloat c
    | 1 => Val.ofInt (if f.sign then sextInt c f.w else c)
    | 2 =>
      if f.nanBlock e0 e1 then .nan
      else .fin (bitAt c (f.w - 1)) (c % 2 ^ f.mb)
        (((if f.nse = 2 ∧ bitAt c f.mb then e1 else e0) : Nat) - 127)
    | _ => f32F.decFloat (f.codebook.getD c 0)

/-- The f32 pattern of an exact value, where an f32 represents it; NaN as 0x7FC00000 (10 R267). -/
def f32Pattern (v : Val) : Option Nat :=
  let c := f32F.encVal .rne false v
  match v with
  | .nan => some c
  | .inf _ => some c
  | .fin s m _ => if m = 0 then some (if s then 0x80000000 else 0)
      else if vcmp (f32F.decFloat c) v = some .eq then some c else none

/-! Codebooks (10 R273). -/

/-- The finite entries of a codebook with their codes, in rising order of codes. -/
def Fmt.entries (f : Fmt) : List (Nat × Val) :=
  ((upFrom 0 (min (2 ^ f.w) 256)).map fun c => (c, f32F.decFloat (f.codebook.getD c 0))).filter fun e =>
    !e.2.isNan && !e.2.isInf && !(f.nz && e.1 == f.negZero)

/-- The first of the best entries by a strict preference. -/
def bestEntry (better : Val → Val → Bool) : List (Nat × Val) → Option (Nat × Val)
  | [] => none
  | e :: es =>
    match bestEntry better es with
    | none => some e
    | some e' => if better e'.2 e.2 then some e' else some e

/-- The magnitude of a difference of finite values. -/
def vdist (a b : Val) : Val :=
  match vadd .rne a (vneg b) with
  | .fin _ m x => .fin false m x
  | v => v

def vless (a b : Val) : Bool := vcmp a b == some .lt

/-- The code a codebook gives a value that is no NaN. -/
def Fmt.encBook (f : Fmt) (rm : RM) (x : Val) : Nat :=
  let es := f.entries
  let largest := bestEntry (fun a b => vless b a) es
  let smallest := bestEntry vless es
  let down :=
    match bestEntry (fun a b => vless b a) (es.filter fun e => !vless x e.2) with
    | some e => some e
    | none => smallest
  let up :=
    match bestEntry vless (es.filter fun e => !vless e.2 x) with
    | some e => some e
    | none => largest
  let near :=
    match x with
    | .inf s => if s then smallest else largest
    | _ => bestEntry (fun a b => vless (vdist a x) (vdist b x)) es
  let pick :=
    match rm with
    | .rd => down
    | .ru => up
    | .rz => if vless x (.fin false 0 0) then up else down
    | .rne | .ro => near
  (pick.map (·.1)).getD 0

/-- The lowest code whose codebook entry is NaN, or 0 (10 R273). -/
def Fmt.bookNan (f : Fmt) : Nat :=
  ((upFrom 0 (min (2 ^ f.w) 256)).find? fun c =>
    (f32F.decFloat (f.codebook.getD c 0)).isNan && !(f.nz && c == f.negZero)).getD 0

/-- A value encoded as one element of a format without blocks; `pat` is its f32 pattern, where it has one
(10 R267, R270 to R274). -/
def Fmt.encode (f : Fmt) (rm : RM) (sat : Bool) (x : Val) (pat : Option Nat) (extra : Word) : Nat :=
  if f.nz ∧ pat = some extra.toNat then f.negZero
  else
    match f.kind with
    | 0 => f.encVal rm sat x
    | 1 => encInt f.w f.sign rm x
    | _ => if x.isNan then f.bookNan else f.encBook rm x

/-- A code of a format without blocks taken to the same format: unchanged, except that a NaN becomes canonical and the
negative-zero code of a format with NZ = 1 is encoded anew (10 R274). -/
def Fmt.sameCode (f : Fmt) (rm : RM) (sat : Bool) (code : Nat) (src dst : Word) : Nat :=
  let c := code % 2 ^ f.w
  if f.nz ∧ c = f.negZero then f.encode rm sat (f32F.decFloat src.toNat) (some src.toNat) dst
  else if (f.decode c src 0 0).isNan then f.encode rm sat .nan none dst
  else c

/-- The descriptor of f32 (10 R262). -/
def Fmt.isF32 (f : Fmt) : Bool :=
  f.kind == 0 && f.w == 32 && f.sign && f.subn && f.inf == 1 && f.nanp == 1 && f.eb == 8 && f.mb == 23 &&
    f.bias == 127 && !f.nz

/-- An f32 code that a conversion to the format leaves unchanged: the format is f32, and it is no NaN (10 R274). -/
def Fmt.keeps (f : Fmt) (x : Nat) : Bool := f.isF32 && !(f32F.decFloat x).isNan

/-! Blocks (10 R264 to R266). -/

/-- `|rint(x / 2^(E − 127))|`. -/
def rintOver (rm : RM) (s : Bool) (m : Nat) (x : Int) (e : Nat) : Nat :=
  roundInt rm s ⟨m, x - ((e : Int) - 127), false⟩

/-- The loop body of R266: an element against its block's exponents. -/
def Fmt.blockElem (f : Fmt) (rm : RM) (e0 e1 : Nat) (x : Val) : Nat :=
  let mmax := 2 ^ f.mb - 1
  let code (s : Bool) (q a : Nat) := b2n s * 2 ^ (f.w - 1) + q * 2 ^ f.mb + a
  match x with
  | .nan => 0
  | .inf s => code s 0 mmax
  | .fin s m y =>
    let a1 := rintOver rm s m y e1
    if f.nse = 2 ∧ e1 < e0 ∧ a1 ≤ mmax then code s 1 a1
    else code s 0 (min (rintOver rm s m y e0) mmax)

/-- The largest finite magnitude among values. -/
def maxMag : List Val → Val
  | [] => .fin false 0 0
  | v :: vs =>
    let m := maxMag vs
    match v with
    | .fin _ n x => if vless m (.fin false n x) then .fin false n x else m
    | _ => m

/-- A block encoded: E0, E1 and the element codes (10 R266). -/
def Fmt.encBlock (f : Fmt) (rm : RM) (sat : Bool) (xs : List Val) : Nat × Nat × List Nat :=
  let mmax := 2 ^ f.mb - 1
  let nanB := (255, 255, xs.map fun _ => 0)
  if xs.any fun x => x.isNan || (x.isInf && !sat) then nanB
  else
    let e0 : Nat :=
      if xs.any (·.isInf) then 254
      else
        match maxMag xs with
        | .fin _ m x =>
          if m = 0 then 0
          else
            let e := ((Nat.log2 m : Int) + x - ((f.mb : Int) - 1) + 127).toNat
            if mmax < rintOver rm false m x e then e + 1 else e
        | _ => 0
    if 254 < e0 ∧ !sat then nanB
    else
      let e0 := min e0 254
      let e1 := e0 - f.mb
      (e0, e1, xs.map (f.blockElem rm e0 e1))

/-- Bytes of a block in memory (10 R264). -/
def Fmt.blockBytes (f : Fmt) : Nat := f.nse + 4 * f.w

/-! Lane types (10 R274). -/

def decLane (t : CTy) (a : Nat) : Val :=
  match t with
  | .i32 => Val.ofInt (sextInt a 32)
  | .n32 => Val.ofInt (a % 2 ^ 32 : Nat)
  | .i64 => Val.ofInt (sextInt a 64)
  | .n64 => Val.ofInt (a % 2 ^ 64 : Nat)
  | .f32 => f32F.decFloat a
  | .f64 => f64F.decFloat a

def encLane (t : CTy) (rm : RM) (sat : Bool) (v : Val) : Nat :=
  match t with
  | .i32 => encInt 32 true rm v
  | .n32 => encInt 32 false rm v
  | .i64 => encInt 64 true rm v
  | .n64 => encInt 64 false rm v
  | .f32 => f32F.encVal rm sat v
  | .f64 => f64F.encVal rm sat v

def ltyC : LTy → CTy
  | .i32 => .i32
  | .n32 => .n32
  | .f32 => .f32

/-- The f32 pattern with which a lane value is compared with an extra value (10 R267). -/
def lanePattern (t : LTy) (a : Nat) : Option Nat :=
  match t with
  | .f32 => some (a % 2 ^ 32)
  | _ => f32Pattern (decLane (ltyC t) a)

/-! Packed bit strings (08 R224). -/

/-- `n` bits of little-endian bytes from bit `b`. -/
def bitsAt (bs : List Byte) (b n : Nat) : Nat := bits (ofBytes bs) b n

/-- Little-endian bytes with `n` bits from bit `b` replaced (08 R225). -/
def putBits (bs : List Byte) (b n v : Nat) : List Byte := bytesOf (setBits (ofBytes bs) b n v) bs.length

end Sys2Proof.Machine
end

