-- ==== Sys2Proof/Machine/Iterators.lean ====
section
/-!
DEFINITION. Iterators, windows and tile buffers as bit strings (15 R408, R420 to R423).
-/
namespace Sys2Proof.Machine

/-! Elements of an iterator. -/

/-- BLOCK formats are moved by whole blocks (15 R421). -/
def Fmt.isBlock (f : Fmt) : Bool := f.kind == 2
/-- Elements in one unit of movement. -/
def Fmt.per (f : Fmt) : Nat := if f.isBlock then 32 else 1
/-- Bits of one unit of movement. -/
def Fmt.unitBits (f : Fmt) : Nat := if f.isBlock then 8 * f.blockBytes else f.w

/-- Extents of an iterator in units. -/
def Iter.ext (it : Iter) (f : Fmt) : List Nat :=
  match it.shape with
  | s0 :: t => s0 / f.per :: t
  | [] => []

def prodOf : List Nat → Nat
  | [] => 1
  | n :: t => n * prodOf t

/-- Units of an iterator (15 R433). -/
def Iter.total (it : Iter) (f : Fmt) : Nat := prodOf (it.ext f)

/-- The indexes of a linear position, the innermost first. -/
def indexOf : List Nat → Nat → List Nat
  | [], _ => []
  | e :: es, n => n % e :: indexOf es (n / e)

/-- The linear position of indexes. -/
def linearOf : List Nat → List Nat → Nat
  | e :: es, i :: is => i + e * linearOf es is
  | _, _ => 0

/-- The position at which a driving iterator starts. -/
def Iter.start (it : Iter) (f : Fmt) : Nat :=
  match it.index with
  | i0 :: t => linearOf (it.ext f) (i0 / f.per :: t)
  | [] => 0

/-- Stride of dimension `d` in bits, 0 for a broadcast dimension (15 R421). -/
def Iter.bitStride (it : Iter) (f : Fmt) (d : Nat) : Int :=
  if bitAt it.bcast d then 0
  else (if d = 0 then (f.unitBits : Int) else 8) * it.stride.getD d 0

def dotInt : List Nat → List Int → Int
  | a :: as, b :: bs => (a : Int) * b + dotInt as bs
  | _, _ => 0

/-- The bit address of a unit (15 R421). -/
def Iter.bitAddr (it : Iter) (f : Fmt) (idx : List Nat) : Int :=
  8 * (it.base : Int) + dotInt idx ((upFrom 0 4).map (it.bitStride f))

/-- Every unit lies within 57 bits of byte address (15 R421). -/
def Iter.fits57 (it : Iter) (f : Fmt) : Bool :=
  let step := (upFrom 0 4).map fun d => ((((it.ext f).getD d 1 : Nat) : Int) - 1) * it.bitStride f d
  let lo := step.foldl (fun m x => m + min 0 x) (8 * (it.base : Int))
  let hi := step.foldl (fun m x => m + max 0 x) (8 * (it.base : Int))
  decide (0 ≤ lo) && decide (hi + f.unitBits ≤ 8 * 2 ^ 57)

/-- A BLOCK iterator addresses whole blocks (15 R421). -/
def Iter.blockOk (it : Iter) (f : Fmt) : Bool :=
  !f.isBlock || (it.shape.getD 0 1 % 32 == 0 && it.stride.getD 0 0 == 1 && !bitAt it.bcast 0)

/-- The tile row of a unit (15 R422). -/
def Iter.row (it : Iter) (idx : List Nat) : Nat :=
  idx.getD 1 0 + it.shape.getD 1 1 * (idx.getD 2 0 + it.shape.getD 2 1 * idx.getD 3 0)

/-! Windows (15 R423). -/

/-- The code address of tile element (row, column), or `none` where the padding code is taken. -/
def Win.bitAddr (w : Win) (width i k : Nat) : Option Int :=
  let sh (d : Nat) := w.shape.getD d 1
  let st (d : Nat) := w.stride.getD d 0
  let p := w.row0 + i
  let ox := p % w.ow
  let oy := p / w.ow % w.oh
  let n := p / (w.ow * w.oh)
  let q := w.col0 + k
  let c := q % sh 0
  let fx := q / sh 0 % w.fw
  let fy := q / (sh 0 * w.fw)
  let x : Int := (ox * w.sx : Nat) - (w.padx : Int) + (fx * w.dx : Nat)
  let y : Int := (oy * w.sy : Nat) - (w.pady : Int) + (fy * w.dy : Nat)
  if sh 3 ≤ n ∨ w.fh ≤ fy ∨ x < 0 ∨ (sh 1 : Int) ≤ x ∨ y < 0 ∨ (sh 2 : Int) ≤ y then none
  else some (8 * (w.base : Int) + (width * c : Nat) * st 0 + 8 * (x * st 1 + y * st 2 + n * st 3))

/-! Tile buffers (15 R408). -/

/-- The container width of a slot's W. -/
def containerOf (w : Nat) : Nat := (([2, 4, 8, 16, 32] : List Nat).find? fun c => decide (w ≤ c)).getD 32

/-- Bits of a block in a row, and blocks in a row. -/
def rowBlockBits (c nse : Nat) : Nat := 32 * c + 8 * nse

/-- K of an operand tile. -/
def tileK (c : Nat) (f : Fmt) : Nat :=
  if f.isBlock then 32 * (1024 / rowBlockBits c f.nse) else 1024 / c

/-- Where element (row, column) of a buffer lies. -/
def elemAt (acc : Bool) (c : Nat) (f : Fmt) (row col : Nat) : Nat :=
  if acc then 32 * (64 * row + col)
  else if f.isBlock then
    1024 * row + col / 32 * rowBlockBits c f.nse + 8 * f.nse + col % 32 * c
  else 1024 * row + col * c

/-- Where the exponent bytes of the block of a column lie. -/
def expsAt (c : Nat) (f : Fmt) (row col : Nat) : Nat := 1024 * row + col / 32 * rowBlockBits c f.nse

/-- An element's container. -/
def Buf.cont (b : Buf) (f : Fmt) (row col : Nat) : Nat :=
  bits b.data (elemAt b.acc b.cw f row col) (if b.acc then 32 else b.cw)

def putCont (b : Buf) (bs : Nat) (f : Fmt) (row col code : Nat) : Nat :=
  setBits bs (elemAt b.acc b.cw f row col) (if b.acc then 32 else b.cw) code

/-- E0 and E1 of the block of a column. -/
def Buf.exps (b : Buf) (f : Fmt) (row col : Nat) : Nat × Nat :=
  (bits b.data (expsAt b.cw f row col) 8, bits b.data (expsAt b.cw f row col + 8) 8)

/-- The codes of a block from its bits in memory, put into 32 containers. -/
def putCodes (b : Buf) (f : Fmt) (row col x : Nat) : Nat → Nat → Nat
  | 0, bs => bs
  | n + 1, bs => putCodes b f row col x n (putCont b bs f row (col + n) (bits x (8 * f.nse + n * f.w) f.w))

/-- One unit of memory put into a buffer: an element's code zero-extended into its container, or a block with
its exponent bytes. -/
def putUnit (b : Buf) (f : Fmt) (row u x : Nat) (bs : Nat) : Nat :=
  if f.isBlock then
    putCodes b f row (32 * u) x 32 (if b.acc then bs else setBits bs (expsAt b.cw f row (32 * u)) (8 * f.nse) x)
  else putCont b bs f row u x

/-- The codes of a block's containers as packed bits. -/
def getCodes (b : Buf) (f : Fmt) (row col : Nat) : Nat → Nat
  | 0 => 0
  | n + 1 => getCodes b f row col n + bits (b.cont f row (col + n)) 0 f.w * 2 ^ (n * f.w)

/-- Exponent bits of a block's unit that have no place in a buffer: an accumulator holds elements only (15 R408, R422). -/
def Buf.lacksExps (b : Buf) (f : Fmt) : Nat := if b.acc && f.isBlock then 8 * f.nse else 0

/-- One unit of a buffer as it is written to memory. -/
def getUnit (b : Buf) (f : Fmt) (row u : Nat) : Nat :=
  if f.isBlock then
    bits b.data (expsAt b.cw f row (32 * u)) (8 * f.nse) + getCodes b f row (32 * u) 32 * 2 ^ (8 * f.nse)
  else bits (b.cont f row u) 0 f.w

/-- The fit rule of `tld` and `tst` (15 R422), with the container and K of the slot. -/
def Buf.fits (b : Buf) (it : Iter) (f : Fmt) : Bool :=
  decide (prodOf (it.shape.drop 1) ≤ 64) &&
    (if b.acc then f.w == 32 && decide (it.shape.getD 0 1 ≤ 64)
     else b.cw == containerOf f.w && b.blk == f.isBlock && decide (it.shape.getD 0 1 ≤ tileK b.cw f))

end Sys2Proof.Machine
end

