-- ==== Sys2Proof/Machine/Access.lean ====
section
/-!
DEFINITION. Performing the accesses of agents: the scratchpad window (08 R215, 14 R375), parking (07 R163, R164),
host holders (02 R48), regulators (03 R76), remote pages (02 R55), and what each kind of access does at its
place (14 R378 to R394, 15 R422 to R424).
-/
namespace Sys2Proof.Machine

/-! The scratchpad window. -/

/-- An agent's team and the first byte and size of its scratchpad area (06 R141). -/
def State.areaOf (s : State) (a : Agent) : Nat × Nat :=
  match tget s.teams a.id.team with
  | some t => (t.scr, (s.grid a.id.grid).lrec.scratch)
  | none => (0, 0)

/-- The cause with which a window access of an agent faults at issue (14 R375). -/
def State.windowFault (s : State) (a : Agent) (va n : Nat) : Option Nat :=
  let off := va % 2 ^ 40
  let (base, size) := s.areaOf a
  if a.id.seq then some 0x0C
  else if a.pos.away then some 0x19
  else if off < base ∨ base + size < off + n then some 0x0C
  else none

/-! Touching bytes. -/

/-- What stands in the way of an access to a range of bytes. -/
inductive Touch where
  | ok (locs : List (Loc × Nat))
  | remote (parts : List (Option Nat × Nat × Nat))
  | fail (cause addr : Nat)
  | park (addr : Nat)
  | hold (st : OpSt)
  deriving DecidableEq, Repr

/-- Handler mode (07 R168). -/
def Agent.inHandler (a : Agent) : Bool := !a.flt.entries.isEmpty

/-- An earlier operation of the agent keeps an access to a range parked: one parked on the same page (07 R164), or,
outside handler mode, a parked acquire (14 R378, log 22). -/
def parksBehind (a : Agent) (id va n : Nat) (o : Op) : Option Nat :=
  match o.st with
  | .parked _ ad =>
    if o.id < id ∧ va / 4096 ≤ ad / 4096 ∧ ad / 4096 ≤ (va + n - 1) / 4096 then some (max va (ad / 4096 * 4096))
    else if o.id < id ∧ o.acq ∧ !a.inHandler then some va
    else none
  | .ready _ | .walker _ _ | .snoop _ | .regul _ _ | .remote _ _ | .held => none

/-- The address in a range at which the agent's access parks behind an earlier one. -/
def Agent.parkedOn (a : Agent) (id va n : Nat) : Option Nat := (a.pend.ops.filterMap (parksBehind a id va n)).head?

/-- Trained ports (02 R54). -/
def State.trained (s : State) : List Nat := (upFrom 0 36).filter fun p => bits (s.link.ports.getD p 0).toNat 0 2 == 2

/-- The peers of the parts of a range. -/
def partDevs (l : List (Option Nat × Nat × Nat)) : List Nat := l.filterMap (·.1)

/-- Every peer of the parts of a range is in the domain, and a port is trained (02 R56). -/
def State.peersUp (s : State) (parts : List (Option Nat × Nat × Nat)) : Bool :=
  ((partDevs parts).all fun d => s.link.peers.contains d) && !s.trained.isEmpty

/-- The bytes of a range outside the scratchpad window, once nothing stands in the way of an access of a context. -/
def State.reach (s : State) (vd ctx va n : Nat) (acs : Acs) : Touch × State :=
  match s.resolve vd ctx va n acs with
  | (.fail _ true ad, s) => (.park ad, s)
  | (.fail c false ad, s) => (.fail c ad, s)
  | (.wait st, s) => (.hold st, s)
  | (.remote parts, s) =>
    match s.atHome vd (acs == .w) (partLocs parts) with
    | (some st, s) => (.hold st, s)
    | (none, s) => (.remote parts, s)
  | (.ok locs, s) =>
    match s.atHome vd (acs == .w) locs with
    | (some st, s) => (.hold st, s)
    | (none, s) => (.ok locs, s)

/-- The bytes an access of an agent touches, once nothing stands in its way; `id` orders it among the agent's
parked accesses. -/
def State.touch (s : State) (a : Agent) (id va n : Nat) (acs : Acs) : Touch × State :=
  match a.parkedOn id va n with
  | some ad => (.park ad, s)
  | none =>
    if inWindow va then
      match s.windowFault a va n with
      | some c => (.fail c va, s)
      | none => (.ok [(.scr a.pos.core (va % 2 ^ 40), n)], s)
    else s.reach a.id.vd a.id.ctx va n acs

/-! Updates. -/

/-- The operands of an integer type as integers (12 R310). -/
def valOf (t : IntTy) (x : Nat) : Int :=
  match t with
  | .i32 => sextInt x 32
  | .n32 => (x % 2 ^ 32 : Nat)
  | .i64 => sextInt x 64
  | .n64 => (x % 2 ^ 64 : Nat)

/-- The value an atomic writes, or `none` where it writes nothing (14 R386). -/
def atomNew (f : AtomOp) (old v cmp : Nat) : Option Nat :=
  match f with
  | .arith .add ty => some ((old + v) % 2 ^ ty.width)
  | .arith .min ty => some (if valOf ty v < valOf ty old then v else old)
  | .arith .max ty => some (if valOf ty old < valOf ty v then v else old)
  | .bitop .and _ => some (old &&& v)
  | .bitop .or _ => some (old ||| v)
  | .bitop .xor _ => some (old ^^^ v)
  | .bitop .exch _ => some v
  | .cas _ _ => if old = cmp then some v else none
  | .fadd .f32 => some (f32F.add .rne old v)
  | .fadd .f16x2 => some (onHalves2 (f16F.add .rne) old v)
  | .fadd .bf16x2 => some (onHalves2 (bf16F.add .rne) old v)

/-- `ctadd` (09 R247). -/
def satAdd (c v : Nat) : Nat := min (c + v) (2 ^ 64 - 1)

/-- Words a load fills (14 R378). -/
def loadWords (x n : Nat) (sx : Bool) : List Word :=
  if sx then wordsOf (truncInt (sextInt x (8 * n)) 32) 1 else wordsOf x (max 1 (n / 4))

/-! Attempts. -/

/-- The outcome of attempting an access: performed, with the words it returns; failed; or what holds it, and what it has
come to so far. -/
inductive Att where
  | done (ws : List Word)
  | fail (cause addr : Nat)
  | park (addr pos : Nat)
  | hold (st : OpSt) (left : Left)
  deriving DecidableEq, Repr

/-- What a touch that is not local comes to; `k` is what a local one does. -/
def onTouch (t : Touch × State) (far : State → List (Option Nat × Nat × Nat) → Att × State)
    (k : State → List (Loc × Nat) → Att × State) : Att × State :=
  match t with
  | (.ok locs, s) => k s locs
  | (.remote parts, s) => far s parts
  | (.fail c ad, s) => (.fail c ad, s)
  | (.park ad, s) => (.park ad 0, s)
  | (.hold st, s) => (.hold st {}, s)

/-! Requests to peers (02 R55, 03 R76). -/

/-- The port that carries a request to a peer: the trained ports take turns by 256 bytes of its address (02 R55). -/
def State.portOf (s : State) (pa : Nat) : Nat := s.trained.getD (pa / 256 % s.trained.length) 0

/-- The address a request to a peer names, and the bytes of data it carries. -/
def peerPlace : PeerAcc → Nat × Nat
  | .load pa _ => (pa, 0)
  | .store pa d _ => (pa, d.length)
  | .bits pa _ _ w _ _ => (pa, (w + 7) / 8)
  | .rmw f pa _ _ _ => (pa, f.width / 8)
  | .ctadd pa _ _ => (pa, 8)

/-- A request that has gone out: the peer of the first of them, and the port that carries it. -/
def State.askedOf (s : State) (l : List (Nat × PeerAcc)) : OpSt :=
  match l with
  | (d, acc) :: _ => .remote d (s.portOf (peerPlace acc).1)
  | [] => .held

/-- Requests to peers, one for each remote part, sent once the fabric regulator lets them through: what they carry is
counted (03 R76). What the access then waits for, and whether they have gone out. -/
def State.sendPeers (s : State) (vd : Nat) (l : List (Nat × PeerAcc)) : Bool × OpSt × State :=
  match s.letIn vd 12 ((l.map fun e => (peerPlace e.2).2).sum) with
  | none => (false, s.enqueue vd 12, s.markHeld vd)
  | some s => (true, s.askedOf l, l.foldl (fun s e => s.send (.fabric (s.portOf (peerPlace e.2).1) e.1 vd e.2)) s)

/-- The accesses to make at the peers of the parts of a range. -/
def farParts (l : List (Option Nat × Nat × Nat)) (f : Nat → Nat → PeerAcc) : List (Nat × PeerAcc) :=
  l.filterMap fun
    | (some d, pa, n) => some (d, f pa n)
    | (none, _, _) => none

/-- The bytes of the parts of a range that lie here, in order. -/
def State.hereBytes (s : State) : List (Option Nat × Nat × Nat) → List Byte
  | [] => []
  | (none, pa, n) :: t => s.getBytes (.mem pa) n ++ s.hereBytes t
  | (some _, _, _) :: t => s.hereBytes t

/-- The bytes of a range from those that lie here and what peers have answered, in order. -/
def joinParts : List (Option Nat × Nat × Nat) → List Byte → List Byte → List Byte
  | [], _, _ => []
  | (none, _, n) :: t, bs, ans => bs.take n ++ joinParts t (bs.drop n) ans
  | (some _, _, n) :: t, bs, ans => ans.take n ++ joinParts t bs (ans.drop n)

/-- Two ranges of parts share a byte that lies here. -/
def hereMeet (p q : List (Option Nat × Nat × Nat)) : Bool :=
  (partLocs p).any fun (l, n) => (partLocs q).any fun (k, m) => overlaps l n k m

/-- An access to a range that lies both here and at peers waits while another one to its bytes is out: each is single-copy
atomic for the agents of this part (08 R225, 14 R383). -/
def State.spanBusy (s : State) (parts : List (Option Nat × Nat × Nat)) : Bool :=
  s.agents.any (fun (_, a) => a.pend.ops.any fun o => o.st.isRemote && hereMeet parts o.left.far)
    || s.copies.any fun (_, c) => c.asking.isSome && c.wait.any OpSt.isRemote && hereMeet parts c.askLeft.far

/-- Requests for the parts of a range sent to peers, unless one of them is not there (02 R56); what lies here is read or,
by `put`, written as they go out. -/
def State.askPeers (s : State) (vd va pos : Nat) (parts : List (Option Nat × Nat × Nat)) (reqs : List (Nat × PeerAcc))
    (put : State → State) : Att × State :=
  if !s.peersUp parts then (.fail 0x16 va, s)
  else if s.spanBusy parts then (.hold .held { pos }, s)
  else
    match s.sendPeers vd reqs with
    | (false, st, s) => (.hold st { pos }, s)
    | (true, st, s) => (.hold st { pos, far := parts, here := s.hereBytes parts }, put s)

/-- The bytes of an element of `w` bits at bit address `b` (14 R382). -/
def elemBytes (b w : Nat) : Nat := (b % 8 + w + 7) / 8

/-- The pieces of an element of `w` bits from bit `lo` of the first part: of each part its first bit, its bits and their
value. -/
def elemPieces : Nat → Nat → Nat → List (Option Nat × Nat × Nat) → List ((Option Nat × Nat × Nat) × Nat × Nat × Nat)
  | _, _, _, [] => []
  | lo, w, code, p :: t =>
    let k := min w (8 * p.2.2 - lo)
    (p, lo, k, code % 2 ^ k) :: elemPieces 0 (w - k) (code / 2 ^ k) t

/-- The pieces of an element that peers are to write. -/
def pieceReqs (rel : Bool) (l : List ((Option Nat × Nat × Nat) × Nat × Nat × Nat)) : List (Nat × PeerAcc) :=
  l.filterMap fun
    | ((some d, pa, n), lo, k, x) => some (d, .bits pa n lo k x rel)
    | ((none, _, _), _, _, _) => none

/-- The pieces of an element that lie here written. -/
def State.putPieces (s : State) : List ((Option Nat × Nat × Nat) × Nat × Nat × Nat) → State
  | [] => s
  | ((none, pa, n), lo, k, x) :: t => (s.write (.mem pa) (putBits (s.getBytes (.mem pa) n) lo k x)).putPieces t
  | ((some _, _, _), _, _, _) :: t => s.putPieces t

/-- An element with remote parts written: what lies here at the moment the peers are asked for the rest (14 R383). -/
def State.writeFar (s : State) (vd va pos lo w code : Nat) (rel : Bool) (parts : List (Option Nat × Nat × Nat)) : Att × State :=
  let l := elemPieces lo w code parts
  s.askPeers vd va pos parts (pieceReqs rel l) fun s => s.putPieces l

/-- Read a bit string for a tile or copy element. -/
inductive Bits1 where
  | ok (x : Nat)
  | no (a : Att)
  deriving Repr

/-- Unit `pos` of a tile load, or an element, read at a bit address. -/
def State.unitLoad (s : State) (a : Agent) (id pos b n : Nat) : Bits1 × State :=
  match s.touch a id (b / 8) (elemBytes b n) .r with
  | (.ok locs, s) => (.ok (bitsAt (s.readChunks locs) (b % 8) n), s)
  | (.remote parts, s) =>
    let r := s.askPeers a.id.vd (b / 8) pos parts (farParts parts .load) fun s => s
    (.no r.1, r.2)
  | (.fail c ad, s) => (.no (.fail c ad), s)
  | (.park ad, s) => (.no (.park ad pos), s)
  | (.hold st, s) => (.no (.hold st { pos }), s)

/-- A bit string written as one single-copy-atomic write of its bits (08 R225). -/
def State.unitStore (s : State) (a : Agent) (id pos b n code : Nat) (rel : Bool) : Att × State :=
  match s.touch a id (b / 8) (elemBytes b n) .w with
  | (.ok locs, s) => (.done [], s.writeChunks locs (putBits (s.readChunks locs) (b % 8) n code))
  | (.remote parts, s) => s.writeFar a.id.vd (b / 8) pos (b % 8) n code rel parts
  | (.fail c ad, s) => (.fail c ad, s)
  | (.park ad, s) => (.park ad pos, s)
  | (.hold st, s) => (.hold st { pos }, s)

/-- What a failed tile load leaves in the `n` units from position `p` that it has not written: free values
(15 R424). -/
def State.scramble (s : State) (it : Iter) (f : Fmt) (buf : Nat) : Nat → Nat → State
  | 0, _ => s
  | n + 1, p =>
    let (x, s) := s.fresh
    let idx := indexOf (it.ext f) p
    match tget s.bufs buf with
    | some b =>
      (s.setBuf buf { b with data := putUnit b f (it.row idx) (idx.getD 0 0) (x % 2 ^ f.unitBits) b.data }).scramble
        it f buf n (p + 1)
    | none => s

/-- The same for a window load: the `n` elements from element `e`. -/
def State.scrambleWin (s : State) (f : Fmt) (buf k : Nat) : Nat → Nat → State
  | 0, _ => s
  | n + 1, e =>
    let (x, s) := s.fresh
    match tget s.bufs buf with
    | some b =>
      (s.setBuf buf { b with data := putCont b b.data f (e / k) (e % k) (x % 2 ^ f.w) }).scrambleWin f buf k n (e + 1)
    | none => s

/-- EXTRA of a tile set from a header (15 R422, R423). -/
def State.setExtra (s : State) (buf : Nat) (x : Option Word) : State :=
  match tget s.bufs buf, x with
  | some b, some w => s.setBuf buf { b with extra := w }
  | _, _ => s

/-- The outcome of a tile load, with EXTRA set when it has performed. -/
def withExtra (buf : Nat) (x : Option Word) (r : Att × State) : Att × State :=
  match r with
  | (.done ws, s) => (.done ws, s.setExtra buf x)
  | r => r

/-- A unit put into the buffer of a tile load. -/
def State.putTile (s : State) (it : Iter) (f : Fmt) (buf p x : Nat) : State :=
  let idx := indexOf (it.ext f) p
  match tget s.bufs buf with
  | some b => s.setBuf buf { b with data := putUnit b f (it.row idx) (idx.getD 0 0) x b.data }
  | none => s

/-- `n` units of a tile load from linear position `p`: each is put into the buffer; the first that has to wait is where
the access goes on (15 R422, R424). -/
def tileLdLoop (a : Agent) (id : Nat) (it : Iter) (f : Fmt) (buf : Nat) : Nat → Nat → State → Att × State
  | 0, _, s => (.done [], s)
  | n + 1, p, s =>
    match s.unitLoad a id p (it.bitAddr f (indexOf (it.ext f) p)).toNat f.unitBits with
    | (.ok x, s) => tileLdLoop a id it f buf n (p + 1) (s.putTile it f buf p x)
    | (.no (.fail c ad), s) => (.fail c ad, s.scramble it f buf (n + 1) p)
    | (.no r, s) => (r, s)

/-- Units of a tile store; `b` holds the tile as it was at issue (15 R415, R424). -/
def tileStLoop (a : Agent) (id : Nat) (it : Iter) (f : Fmt) (b : Buf) : Nat → Nat → State → Att × State
  | 0, _, s => (.done [], s)
  | n + 1, p, s =>
    let idx := indexOf (it.ext f) p
    let e := b.lacksExps f
    match s.unitStore a id p ((it.bitAddr f idx).toNat + e) (f.unitBits - e)
        (getUnit b f (it.row idx) (idx.getD 0 0) / 2 ^ e) false with
    | (.done _, s) => tileStLoop a id it f b n (p + 1) s
    | r => r

/-- An element put into the buffer of a window load. -/
def State.putWin (s : State) (f : Fmt) (buf k e x : Nat) : State :=
  match tget s.bufs buf with
  | some b => s.setBuf buf { b with data := putCont b b.data f (e / k) (e % k) x }
  | none => s

/-- Elements of a window load; element `e` is row `e / K`, column `e % K` (15 R423). -/
def tileWinLoop (a : Agent) (id : Nat) (w : Win) (f : Fmt) (buf k : Nat) : Nat → Nat → State → Att × State
  | 0, _, s => (.done [], s)
  | n + 1, e, s =>
    match w.bitAddr f.w (e / k) (e % k) with
    | none => tileWinLoop a id w f buf k n (e + 1) (s.putWin f buf k e (w.padv % 2 ^ f.w))
    | some ba =>
      if ba < 0 then (.fail 0x0B (truncInt (ba / 8) 64), s.scrambleWin f buf k (n + 1) e)
      else
        match s.unitLoad a id e ba.toNat f.w with
        | (.ok x, s) => tileWinLoop a id w f buf k n (e + 1) (s.putWin f buf k e x)
        | (.no (.fail c ad), s) => (.fail c ad, s.scrambleWin f buf k (n + 1) e)
        | (.no r, s) => (r, s)

/-- What a tile load that ends by a failure from outside leaves in the units it has not written, from position `p`: free
values (15 R424). -/
def State.scrambleFrom (s : State) (acc : Acc) (p : Nat) : State :=
  match acc with
  | .tileLd it buf img _ =>
    let f := (s.image img).fmt
    let p := max p (it.start f)
    s.scramble it f buf (it.total f - p) p
  | .tileWin _ buf img _ =>
    let f := (s.image img).fmt
    match tget s.bufs buf with
    | some b => s.scrambleWin f buf (tileK b.cw f) (64 * tileK b.cw f - p) p
    | none => s
  | .load .. | .store .. | .elemLd .. | .elemSt .. | .rmw .. | .ctadd .. | .ctrd .. | .pref .. | .tileSt .. => s

/-- The site of the scope of an operation that goes to a remote page is not the fabric port (09 R245). -/
def State.wrongSite (s : State) (a : Agent) (id : Nat) : Bool :=
  a.pend.ops.any fun o => o.id == id && (match o.scope with | some k => s.siteOf a.id.vd a.id.ctx k != 3 | none => false)

/-- A prefetch that cannot be made does nothing (14 R385). -/
def quietly (r : Att × State) : Att × State :=
  match r with
  | (.fail _ _, s) | (.park _ _, s) => (.done [], s)
  | (.done ws, s) => (.done ws, s)
  | (.hold st l, s) => (.hold st l, s)

/-- What an operation of an agent has come to. -/
def Agent.leftOf (a : Agent) (id : Nat) : Left := ((a.pend.ops.find? fun o => o.id == id).map (·.left)).getD {}

/-- The first position a tile access goes on from: where it waited, at first its start. -/
def startAt (l : Left) (start : Nat) : Nat := max l.pos start

/-- An access of an agent attempted at its place. -/
def State.attemptHere (s : State) (a : Agent) (id : Nat) (acc : Acc) : Att × State :=
  let ask (va : Nat) (parts : List (Option Nat × Nat × Nat)) (f : Nat → Nat → PeerAcc) (s : State) : Att × State :=
    s.askPeers a.id.vd va 0 parts (farParts parts f) fun s => s
  match acc with
  | .load va n sx =>
    onTouch (s.touch a id va n .r) (fun s parts => ask va parts .load s)
      (fun s locs => (.done (loadWords (ofBytes (s.readChunks locs)) n sx), s))
  | .ctrd va =>
    onTouch (s.touch a id va 8 .r) (fun s parts => ask va parts .load s)
      (fun s locs => (.done (wordsOf (ofBytes (s.readChunks locs)) 2), s))
  | .store va bs rel =>
    onTouch (s.touch a id va bs.length .w) (fun s parts => ask va parts (fun pa _ => .store pa bs rel) s)
      (fun s locs => (.done [], s.writeChunks locs bs))
  | .elemLd b w =>
    match s.unitLoad a id 0 b w with
    | (.ok x, s) => (.done (wordsOf x 1), s)
    | (.no r, s) => (r, s)
  | .elemSt b w code rel => s.unitStore a id 0 b w code rel
  | .rmw f va v cmp rel =>
    let n := f.width / 8
    onTouch (s.touch a id va n .w)
      (fun s parts => if s.wrongSite a id then (.fail 0x0C va, s) else ask va parts (fun pa _ => .rmw f pa v cmp rel) s)
      (fun s locs =>
        let old := ofBytes (s.readChunks locs)
        (.done (wordsOf old (n / 4)),
          match atomNew f old v cmp with
          | some x => s.writeChunks locs (bytesOf x n)
          | none => s))
  | .ctadd va v rel =>
    onTouch (s.touch a id va 8 .w)
      (fun s parts => if s.wrongSite a id then (.fail 0x0C va, s) else ask va parts (fun pa _ => .ctadd pa v rel) s)
      (fun s locs => (.done [], s.writeChunks locs (bytesOf (satAdd (ofBytes (s.readChunks locs)) v) 8)))
  | .pref va =>
    quietly (onTouch (s.touch a id va 128 .r) (fun s parts => ask va parts .load s) (fun s _ => (.done [], s)))
  | .tileLd it buf img _ =>
    let f := (s.image img).fmt
    let p := startAt (a.leftOf id) (it.start f)
    withExtra buf (if it.hdren then some it.extra else none) (tileLdLoop a id it f buf (it.total f - p) p s)
  | .tileSt it buf img _ bits =>
    let f := (s.image img).fmt
    let p := startAt (a.leftOf id) (it.start f)
    match tget s.bufs buf with
    | some b => tileStLoop a id it f { b with data := bits } (it.total f - p) p s
    | none => (.done [], s)
  | .tileWin w buf img _ =>
    let f := (s.image img).fmt
    let p := (a.leftOf id).pos
    match tget s.bufs buf with
    | some b =>
      withExtra buf (some w.extra) (tileWinLoop a id w f buf (tileK b.cw f) (64 * tileK b.cw f - p) p s)
    | none => (.done [], s)

/-- An access goes on with what peers have answered: it has performed with the translation it was sent by, and a tile
access goes on with its next unit (02 R55, 08 R219). -/
def State.attemptFar (s : State) (a : Agent) (id : Nat) (acc : Acc) (ans : List Byte) : Att × State :=
  let l := a.leftOf id
  let bs := joinParts l.far l.here ans
  match acc with
  | .load _ n sx => (.done (loadWords (ofBytes bs) n sx), s)
  | .ctrd _ => (.done (wordsOf (ofBytes bs) 2), s)
  | .elemLd b w => (.done (wordsOf (bitsAt bs (b % 8) w) 1), s)
  | .rmw f _ _ _ _ => (.done (wordsOf (ofBytes bs) (f.width / 32)), s)
  | .store _ _ _ | .elemSt _ _ _ _ | .ctadd _ _ _ | .pref _ => (.done [], s)
  | .tileLd it buf img _ =>
    let f := (s.image img).fmt
    let p := startAt l (it.start f)
    let x := bitsAt bs ((it.bitAddr f (indexOf (it.ext f) p)).toNat % 8) f.unitBits
    withExtra buf (if it.hdren then some it.extra else none)
      (tileLdLoop a id it f buf (it.total f - (p + 1)) (p + 1) (s.putTile it f buf p x))
  | .tileSt it buf img _ bits =>
    let f := (s.image img).fmt
    let p := startAt l (it.start f)
    match tget s.bufs buf with
    | some b => tileStLoop a id it f { b with data := bits } (it.total f - (p + 1)) (p + 1) s
    | none => (.done [], s)
  | .tileWin w buf img _ =>
    let f := (s.image img).fmt
    match tget s.bufs buf with
    | none => (.done [], s)
    | some b =>
      let k := tileK b.cw f
      let x := bitsAt bs (((w.bitAddr f.w (l.pos / k) (l.pos % k)).getD 0).toNat % 8) f.w
      withExtra buf (some w.extra)
        (tileWinLoop a id w f buf k (64 * k - (l.pos + 1)) (l.pos + 1) (s.putWin f buf k l.pos x))

/-- An access of an agent attempted; `data` is what peers have answered. -/
def State.attempt (s : State) (a : Agent) (id : Nat) (acc : Acc) (data : Option (List Byte)) : Att × State :=
  match data with
  | none => s.attemptHere a id acc
  | some ans => s.attemptFar a id acc ans

end Sys2Proof.Machine
end

