-- ==== Sys2Proof/Machine/Ending.lean ====
section
/-!
DEFINITION. Ends of agents, teams, pod groups and grids, and what returns to whom (05 R126, R131, 06 R144,
08 R211, 14 R403, 15 R407, R411).
-/
namespace Sys2Proof.Machine

/-- The key of a row. -/
def rowKey (core pip slot : Nat) : Nat := (4 * core + pip) * 17 + slot

/-- A row that holds no running thread is empty, neither active nor pending (06 R147). -/
def State.sweepRows (s : State) : State :=
  { s with rows := s.rows.filter fun (k, _) =>
      s.agents.any fun (_, a) => !a.id.seq && !a.pos.out && rowKey a.pos.core a.pos.pip a.pos.slot == k }

/-- A team that holds its place on its core. -/
def Team.holds (t : Team) : Bool := t.place == .resident && !t.done

/-- A core holds a team. -/
def State.coreHeld (s : State) (c : Nat) : Bool := s.teams.any fun (_, t) => t.holds && t.core == c

/-- A core among those of a test holds a team of an object of a device. -/
def State.objHeld (s : State) (vd obj : Nat) (p : Nat → Bool) : Bool :=
  s.teams.any fun (_, t) =>
    t.holds && p t.core && (s.grid t.grid).vd == vd && (s.grid t.grid).obj == obj

/-- What ends with the last team of a core or die: the scratchpad split (06 R141), pinned lines (14 R403). -/
def State.settleCores (s : State) : State :=
  { s with
    cores := tmap s.cores fun c x =>
      { x with
        split := if s.coreHeld c then x.split else 0
        pins := x.pins.filter fun p => s.objHeld p.vd p.obj fun k => k == c }
    dies := tmap s.dies fun d x =>
      { x with l2pins := x.l2pins.filter fun p => s.objHeld p.vd p.obj fun k => dieOfCore k == d } }

/-- An access as data uses a tile buffer. -/
def Acc.buf : Acc → Option Nat
  | .tileLd _ b _ _ | .tileSt _ b _ _ _ | .tileWin _ b _ _ => some b
  | .load .. | .store .. | .elemLd .. | .elemSt .. | .rmw .. | .ctadd .. | .ctrd .. | .pref .. => none

/-- A buffer is named, or resolved by an instruction or request not yet complete (15 R411). -/
def State.bufUsed (s : State) (b : Nat) : Bool :=
  s.pods.any (fun (_, p) => p.names.any fun (_, x) => x == b)
    || s.agents.any (fun (_, a) =>
        a.pend.mq.any (fun e => e.hd == b || e.ha == b || e.hb == b)
          || a.pend.ops.any fun o => o.acc.any fun c => c.buf == some b)
    || s.copies.any fun (_, c) =>
        (c.kind == .tileLoad || c.kind == .tileStore || c.kind == .window) && c.buf == b

/-- Orphaned buffers no longer used are freed (15 R411). -/
def State.sweepBufs (s : State) : State := { s with bufs := s.bufs.filter fun (b, _) => s.bufUsed b }

/-- A unit that nothing of a grid remains to place or run ends (05 R126). -/
def State.gridCheck (s : State) (g : Nat) : State :=
  let x := s.grid g
  if x.placed && !(s.pods.any fun (_, p) => p.grid == g) then s.setGrid g { x with st := .ending } else s

/-- Granules of a buffer: an accumulator is a pair (15 R408). -/
def Buf.granules (b : Buf) : Nat := if b.acc then 2 else 1

/-- Granules of a pod group's tiles. -/
def State.tilesOf (s : State) (p : Nat) : Nat := (s.bufs.map fun (_, b) => if b.pod = p then b.granules else 0).sum

/-- Pages of the tile record of a context for a cob, which exists while a pod group of it is saved (07 R181, log 32). -/
def State.tilePagesFor (s : State) (vd ctx cob : Nat) : Nat :=
  let ps := s.pods.filter fun (_, p) => p.out && p.vd == vd && p.ctx == ctx && p.cob == cob
  if ps.isEmpty then 0 else ceilDiv ((ps.map fun (i, _) => s.tilesOf i).sum) 8 + 1

/-- The tile record shrinks to what it needs. -/
def State.trimTilePages (s : State) (vd ctx cob : Nat) : State :=
  let c := s.ctx vd ctx
  let ps := tgetD c.tilePages cob []
  s.setCtx vd ctx { c with tilePages := tset c.tilePages cob (ps.take (s.tilePagesFor vd ctx cob)) }

/-- The tile record written again (07 R181). -/
def State.writeTilePages (s : State) (vd ctx cob : Nat) : State :=
  let (ps, s) := s.fillPages vd ctx ((tgetD (s.ctx vd ctx).tilePages cob []).map (·.1))
  let c := s.ctx vd ctx
  s.setCtx vd ctx { c with tilePages := tset c.tilePages cob ps }

/-- A pod group ends when its teams have ended and its sequencer context, if any, is gone (06 R144); its
teams that ended by `exit` are counted for the completion record (05 R128). -/
def State.podCheck (s : State) (p : Nat) : State :=
  match tget s.pods p with
  | none => s
  | some x =>
    let ts := s.teams.filter fun (_, t) => t.pod == p
    if x.seq.isSome || ts.any fun (_, t) => !t.done then s
    else
      let n := if x.seqClean then (ts.filter fun (_, t) => t.clean).length else 0
      let g := s.grid x.grid
      let s := s.setGrid x.grid { g with good := g.good + n }
      let s := { s with pods := tdel s.pods p, teams := s.teams.filter fun (_, t) => t.pod != p }
      ((s.sweepBufs.settleCores).trimTilePages x.vd x.ctx x.cob).gridCheck x.grid

/-- A team ends when no thread of it runs and no copy request it kicked is active (06 R144). -/
def State.teamCheck (s : State) (t : Nat) : State :=
  match tget s.teams t with
  | none => s
  | some x =>
    if x.done || x.live != 0 || s.copies.any fun (_, c) => c.team == t then s
    else ((s.setTeam t { x with done := true, pages := [] }).settleCores).podCheck x.pod

/-- An agent leaves the queues it stands in. -/
def State.leaveQueues (s : State) (i : Nat) : State :=
  { s with cobs := tmap s.cobs fun _ c =>
      { c with
        tallocQ := c.tallocQ.filter fun k => k != i
        waitOps := c.waitOps.filter fun k => k.1 != i
        planes := c.planes.map fun p => if p.reserved = some i then { p with reserved := none } else p } }

def State.leaveAll (s : State) (ids : List Nat) : State := ids.foldl (fun s i => s.leaveQueues i) s

/-- Entries running for a sequencer context that ends are over: their buffers, which only the sequencer could
read, are no longer BUSY (15 R409, R410). -/
def State.endEntries (s : State) : List MEnt → State
  | [] => s
  | e :: es =>
    let s := s.leaveQueues e.id
    match tget s.bufs e.hd with
    | some b => (if e.array.isSome ∧ b.st = .busy then s.setBuf e.hd { b with st := .ready 0 } else s).endEntries es
    | none => s.endEntries es

/-- An agent is gone with everything it held (12 R337). -/
def State.removeAgent (s : State) (i : Nat) : State :=
  match tget s.agents i with
  | none => s
  | some a =>
    let s := s.dropReq i
    (({ s with agents := tdel s.agents i }.leaveAll (i :: (a.pend.ops.map fun o : Op => o.id))).endEntries a.pend.mq).noteFreedIf
      (!a.pos.out && !a.granules.isEmpty) (poolOf i a)

/-- The operation is a prefetch: nothing waits for it, and its failure goes unnoticed (14 R385). -/
def Op.light (o : Op) : Bool := match o.acc with | some (.pref _) => true | _ => false

/-- What is left of an agent that ends by `exit` while accesses of it are still to perform (08 R193, 12 R337): it
stands nowhere, belongs to no team and no pod group, and goes with the last of them (log 56). -/
def Agent.late (a : Agent) : Option Agent :=
  let os := a.pend.ops.filter fun o =>
    match o.st with
    | .ready _ | .parked _ _ => false
    | .walker _ _ | .snoop _ | .regul _ _ | .remote _ _ | .held => o.acc.isSome && !o.light
  if os.isEmpty then none
  else
    some { id := { a.id with team := 0, pod := 0 }, pos := { a.pos with out := true }
           pend := { ops := os.map fun o => { o with det := true, regw := none, preds := [] } } }

/-- A thread or sequencer context ends: by `exit` when `good` (06 R144, 12 R337). -/
def State.endAgent (s : State) (i : Nat) (good : Bool) : State :=
  match tget s.agents i with
  | none => s
  | some a =>
    let s := (s.removeAgent i).sweepBufs
    let s := match a.late with | some b => if good then s.setAgent i b else s | none => s
    if a.id.seq then
      match tget s.pods a.id.pod with
      | none => s
      | some p => (s.setPod a.id.pod { p with seq := none, seqClean := p.seqClean && good }).podCheck a.id.pod
    else
      match tget s.teams a.id.team with
      | none => s
      | some t =>
        (s.setTeam a.id.team { t with live := t.live - 1, clean := t.clean && good, endAt := s.now }).teamCheck a.id.team

/-- A list of teams examined for their end. -/
def State.teamChecks (s : State) : List Nat → State
  | [] => s
  | t :: ts => (s.teamCheck t).teamChecks ts

def State.podChecks (s : State) : List Nat → State
  | [] => s
  | p :: ps => (s.podCheck p).podChecks ps

def State.removeAgents (s : State) : List Nat → State
  | [] => s
  | i :: is => (s.removeAgent i).removeAgents is

/-- The admission slot of a launch empties (06 R135), and its child entry (14 R406). -/
def State.leaveSlot (s : State) (g : Nat) : State :=
  let x := s.grid g
  let s := s.setGrid g { x with childDie := none }
  match x.stream with
  | none => s
  | some n =>
    let st := (s.vd x.vd).stream n
    if st.slot = some g then s.setStream x.vd n { st with slot := none } else s

/-- A grid fails: its first failure is kept, every agent of it ends, no further unit of it is placed and its
saved requests are dropped (05 R126, R131, R134, 07 R183). -/
def State.endGrid (s : State) (g status cause : Nat) (pc : DWord) : State :=
  let ids := (s.agents.filter fun (_, a) => a.id.grid == g).map (·.1)
  let tids := (s.teams.filter fun (_, t) => t.grid == g).map (·.1)
  let pids := (s.pods.filter fun (_, p) => p.grid == g).map (·.1)
  let x := s.grid g
  let s := (s.removeAgents ids).setGrid g
    { x with placed := true, failed := some (x.failed.getD (status, cause, pc)) }
  let s := { s with
    copies := s.copies.filter fun (_, c) => !(c.saved && tids.contains c.team)
    teams := tmap s.teams fun _ t =>
      if t.grid = g then { t with clean := t.clean && t.live == 0, live := 0 } else t
    pods := tmap s.pods fun _ p =>
      if p.grid = g then { p with seqClean := p.seqClean && p.seq.isNone, seq := none } else p }
  (((s.leaveSlot g).sweepBufs.teamChecks tids).podChecks pids).gridCheck g

end Sys2Proof.Machine
end

