-- ==== Sys2Proof/Machine/Ops.lean ====
section
/-!
DEFINITION. The shared operations of every instruction: fetching its word (09 R256, 11 R297 to R301, 12 R327), the
checks at issue (11 R290), deferred results and accesses (08 R192, 07 R162 to R164), settle waits (08 R193), taking a
trap and returning from one (07 R167 to R173, 05 R133, R134), and the advance to the next instruction (12 R335).
-/
namespace Sys2Proof.Machine

/-- What an instruction's own effect comes to. -/
inductive Fx where
  /-- performed; the next instruction follows -/
  | done (s : State)
  /-- performed; control goes elsewhere, with the body-end test (12 R335) -/
  | jump (npc : DWord) (s : State)
  /-- performed; the program counter is already as it should be -/
  | moved (s : State)
  /-- the agent stays at the instruction, or a microprogram has been entered -/
  | keep (s : State)
  /-- the agent stays at the instruction, which is a point of 07 R162 -/
  | point (s : State)
  /-- an issue fault: the instruction has no effect (07 R160) -/
  | fault (f : FaultInfo)

/-- A fault of the instruction being issued, whose resume point is its own address (07 R161). -/
def faultAt (s : State) (a : Agent) (cause addr : Nat) (repl : Bool := false) : FaultInfo :=
  { cause, repl, pc := a.curPc, resume := some a.curPc, addr := BitVec.ofNat 64 addr, iword := s.run.word }

/-- An effect that follows the reading of operands. -/
def onRd {α : Type} (s : State) (a : Agent) (r : Rd α) (k : α → Fx) : Fx :=
  match r with
  | .ok x => k x
  | .fault c ad => .fault (faultAt s a c ad)
  | .wait => .keep s

/-! Outstanding results and accesses. -/

/-- MGP and MGN of the microprogram in progress (07 R169); 7 outside one. -/
def Agent.macGuard (a : Agent) : Nat :=
  match a.arch.mac with
  | some m => m.gp.toNat + 8 * b2n m.gn
  | none => 7

def Agent.op (a : Agent) (id : Nat) : Option Op := a.pend.ops.find? fun o => o.id == id

def Agent.setOps (a : Agent) (os : List Op) : Agent := { a with pend := { a.pend with ops := os } }

/-- An operation replaced by its number. -/
def Agent.putOp (a : Agent) (o : Op) : Agent := a.setOps (a.pend.ops.map fun x => if x.id = o.id then o else x)

def Agent.dropOp (a : Agent) (id : Nat) : Agent := a.setOps (a.pend.ops.filter fun x => x.id != id)

/-- The queue entries of an operation filled with words; a failed one's read zero (07 R162, 08 R192). -/
def fillQ (q : List QEnt) (id : Nat) (ws : List Word) : List QEnt :=
  q.map fun e =>
    match e.pend with
    | some (o, k) => if o = id then { val := ws.getD k 0 } else e
    | none => e

def Agent.fill (a : Agent) (id : Nat) (ws : List Word) : Agent :=
  { a with arch := { a.arch with queue := fillQ a.arch.queue id ws } }

/-- Bytes of the spill area below an evicted frame. -/
def evictedAt : List EvFrame → Nat → Option Nat
  | [], _ => none
  | e :: es, u => if e.uid = u then some ((es.map fun x => spillBytes x.dem).sum) else evictedAt es u

/-- What is left of an agent that has ended (log 56). -/
def Agent.ended (a : Agent) : Bool := a.pos.out && a.id.team == 0 && a.id.pod == 0

/-- An access of an agent that has ended is over, and with the last the agent. -/
def State.dropLate (s : State) (i : Nat) (a : Agent) (id : Nat) : State :=
  let b := a.dropOp id
  if b.pend.ops.isEmpty then { s with agents := tdel s.agents i } else s.setAgent i b

/-- An operation is over: if it used a tile buffer that no name refers to any longer, that may be freed (15 R411), and it
waits for no plane. -/
def State.opOver (s : State) (o : Op) : State :=
  if (o.acc.bind Acc.buf).isSome then (s.leaveQueues o.id).sweepBufs else s

/-- An operation fails: its queue entries hold zero, nothing else is written, and the completion fault waits for
its point of delivery (07 R162). -/
def State.opFails (s : State) (i : Nat) (o : Op) (cause addr : Nat) : State :=
  match tget s.agents i with
  | none => s
  | some a =>
    if a.ended then s.dropLate i a o.id
    else if o.light then s.setAgent i (a.dropOp o.id)
    else
    let a := (a.fill o.id []).dropOp o.id
    let info : FaultInfo := { cause, pc := o.pc, addr := BitVec.ofNat 64 addr, iword := o.iword, guard := o.guard }
    let f : Fail := ⟨o.id, o.stop || o.det, info⟩
    s.setAgent i { a with flt := { a.flt with fails := a.flt.fails ++ [f] } }

/-- An operation fails by what happens elsewhere: what a tile load has not written is undefined (15 R424). -/
def State.failOp (s : State) (i : Nat) (o : Op) (cause addr : Nat) : State :=
  ((match o.acc with
    | some acc => s.scrambleFrom acc o.left.pos
    | none => s).opFails i o cause addr).opOver o

/-- An access of an agent's own outlives the instruction it waits beside. -/
def State.keepOwn (s : State) (i va n : Nat) : State :=
  s.setOwns i ((s.ownsOf i).map fun o => if o.is va n true then { o with late := true } else o)

/-- A deferred write to frame registers lands: in the resident frame, or in the spill area when the frame has
been evicted (11 R293, 08 R204); a frame that is gone takes nothing. -/
def State.putFrame (s : State) (i u n : Nat) (ws : List Word) : Got Unit × State :=
  match tget s.agents i with
  | none => (.ok (), s)
  | some a =>
    if a.arch.frames.any fun f => f.uid == u then
      (.ok (), s.setAgent i { a with arch := { a.arch with
        frames := a.arch.frames.map fun f => if f.uid = u then { f with regs := putRegs f.regs n ws } else f } })
    else
      match evictedAt a.arch.evicted u with
      | none => (.ok (), s)
      | some off =>
        let va := s.spillBase a + 256 + off + 16 + 4 * n
        let bs := ws.flatMap fun w => bytesOf w.toNat 4
        match s.ownOf i va bs.length true (s.writeVa a.id.vd a.id.ctx va bs) with
        | (.wait st, s) => (.wait st, s.keepOwn i va bs.length)
        | r => r

/-- A result lands: its queue entries, its predicates, its frame registers (08 R192, 11 R293); it waits, or fails, with a
write to an evicted frame. -/
def State.land (s : State) (i : Nat) (o : Op) (ws : List Word) : State :=
  match (match o.regw with | some (u, n) => s.putFrame i u n ws | none => (.ok (), s)) with
  | (.wait _, s) => s
  | (.fail c _ ad, s) => s.failOp i o c ad
  | (.ok (), s) =>
    match tget s.agents i with
    | none => s
    | some a => s.setAgent i (o.preds.foldl (fun a p => a.setPred p.1 p.2) ((a.fill o.id ws).dropOp o.id))

/-- The fault buffer of a die has room among its 4,096 entries (07 R163). -/
def State.bufferRoom (s : State) (d : Nat) : Bool :=
  decide ((s.agents.map fun (_, a) =>
    (a.pend.ops.filter fun o => match o.st with | .parked e _ => e == d | _ => false).length).sum < 4096)

/-- An access that a save cancels and the unit issues again when it resumes: a load, or a prefetch (07 R184). -/
def Acc.again : Acc → Bool
  | .load .. | .elemLd .. | .ctrd .. | .pref .. => true
  | .store .. | .elemSt .. | .rmw .. | .ctadd .. | .tileLd .. | .tileSt .. | .tileWin .. => false

/-- An access has performed: its words wait to return, or nothing remains of it. -/
def State.performed (s : State) (i : Nat) (o : Op) (ws : List Word) : State :=
  match tget s.agents i with
  | none => s
  | some a =>
    if a.ended then s.dropLate i a o.id
    else if o.words = 0 ∧ !o.silent then (s.setAgent i (a.dropOp o.id)).opOver o
    else s.setAgent i (a.putOp { o with st := .ready ws, acc := o.acc.filter Acc.again })

/-- A plane holds an image, loaded. -/
def CobSt.holds (c : CobSt) (m : Nat) : Bool := c.planes.any fun p => p.img == some m && !p.loading

/-- An operation on a cob asks for the planes of its images: all are held and it goes, or it waits in the order
of the cob (04 R104). -/
def State.usePlanes (s : State) (cob id : Nat) (imgs : List Nat) : Bool × State :=
  let c := s.cob cob
  let n := c.clockUse + 1
  if imgs.all fun m => c.holds m then
    (true, s.setCob cob { c with
      clockUse := n
      waitOps := c.waitOps.filter fun w => w.1 != id
      planes := c.planes.map fun p =>
        let p := if p.reserved = some id then { p with reserved := none } else p
        match p.img with
        | some m => if imgs.contains m then { p with used := n } else p
        | none => p })
  else if c.waitOps.any fun w => w.1 == id then (false, s)
  else (false, s.setCob cob { c with waitOps := c.waitOps ++ [(id, imgs)] })

/-- The image an access of a tile has captured, and the slot whose binding it holds. -/
def Acc.captured : Acc → Option (Nat × Nat)
  | .tileLd _ _ m k | .tileSt _ _ m k _ | .tileWin _ _ m k => some (m, k)
  | .load .. | .store .. | .elemLd .. | .elemSt .. | .rmw .. | .ctadd .. | .ctrd .. | .pref .. => none

/-- What an attempt at an access of an agent comes to. The wait that begins now, or goes on, is dated (01 R26, 02 R56). -/
def State.tried (s : State) (i : Nat) (o : Op) (since : Nat) (r : Att × State) : State :=
  match r with
  | (.done ws, s) => s.performed i o ws
  | (.fail c ad, s) => (s.opFails i o c ad).opOver o
  | (.park ad pos, s) =>
    match tget s.agents i with
    | none => s
    | some a =>
      let d := dieOfCore a.pos.core
      let st := if s.bufferRoom d then OpSt.parked d ad else OpSt.walker d ad
      if a.ended then s.dropLate i a o.id else s.setAgent i (a.putOp { o with st, since, left := { pos } })
  | (.hold st left, t) =>
    match tget t.agents i with
    | none => t
    | some a => t.setAgent i (a.putOp { o with st, left, since := s.waitsSince o.st st since })

/-- An outstanding access of an agent attempted; `data` is what a peer answered. An access of a tile that has no plane for
its image waits for one (04 R104); one that was parked performs every element again (15 R424). -/
def State.tryOp (s : State) (i id : Nat) (data : Option (List Byte)) : State :=
  match tget s.agents i with
  | none => s
  | some a =>
    match a.op id with
    | none => s
    | some o =>
      match o.acc with
      | none => s
      | some acc =>
        let o := if o.st.isParked then { o with left := {} } else o
        let a := a.putOp o
        let since := if data.isSome then s.now else o.since
        match acc.captured with
        | none => s.tried i o since (s.attempt a id acc data)
        | some (m, _) =>
          match s.usePlanes (cobOfCore a.pos.core) id [m] with
          | (true, s) => s.tried i o since (s.attempt a id acc data)
          | (false, s) => s.setAgent i (a.putOp { o with st := .held })

/-- Queue slots reserved for an operation of `k` words, the lowest word first (08 R189, R192). -/
def reserved (id k : Nat) : List QEnt := (upFrom 0 k).map fun j => { pend := some (id, j) }

/-- An operation issued by an agent, its slots reserved (08 R192, 11 R289). -/
def Agent.addOp (a : Agent) (o : Op) (d : Dst) : Agent :=
  let a := a.pushEnts (reserved o.id (dstPushes d o.words))
  a.setOps (a.pend.ops ++ [o])

def opRegw (a : Agent) : Dst → Option (Nat × Nat)
  | .reg n => some (a.top.uid, n.val)
  | .push | .pred _ | .nil => none

/-- An access issued and attempted at once. -/
def State.startOp (s : State) (i : Nat) (a : Agent) (acc : Acc) (words : Nat) (d : Dst) (stop acq : Bool)
    (scope : Option Nat) : State :=
  let (id, s) := s.newId
  let o : Op :=
    { id, pc := a.curPc, iword := s.run.word, words, regw := opRegw a d, preds := []
      silent := decide (d = .nil) && decide (0 < words), stop, acq, st := .held, acc := some acc, since := s.now
      scope, guard := a.macGuard }
  (s.setAgent i (a.addOp o d)).tryOp i id none

/-- A deferred result whose value is fixed at issue (11 R293). -/
def State.startReady (s : State) (i : Nat) (a : Agent) (ws : List Word) (d : Dst) (preds : List (Nat × Bool)) : State :=
  let (id, s) := s.newId
  let o : Op :=
    { id, pc := a.curPc, iword := s.run.word, words := ws.length, regw := opRegw a d, preds
      silent := dstPushes d 1 == 0, stop := false, acq := false, st := .ready ws, acc := none, since := s.now
      guard := a.macGuard }
  s.setAgent i (a.addOp o d)

/-- Later accesses of the agent wait: an earlier one that is not parked has not performed (log 22). -/
def Agent.memHeld (a : Agent) : Bool :=
  a.pend.ops.any fun o =>
    match o.st with
    | .ready _ | .parked _ _ => false
    | .walker _ _ | .snoop _ | .regul _ _ | .remote _ _ | .held => !o.light

/-- An access of the agent is parked (07 R164). -/
def Agent.hasParked (a : Agent) : Bool := a.pend.ops.any fun o => o.st.isParked

/-- Nothing of the agent is outstanding but parked accesses (07 R168). -/
def Agent.quiet (a : Agent) : Bool := a.pend.ops.all fun o => o.st.isParked || o.light

/-! Instruction words. -/

/-- The word held for an address by a core's instruction cache, and what the fetch finds there. -/
def State.icGet (s : State) (core vd ctx va : Nat) : Option (List Byte) :=
  ((s.core core).icache.find? fun l => l.vd == vd && l.ctx == ctx && l.va == va).map (·.bytes)

def State.icPut (s : State) (core vd ctx va : Nat) (bs : List Byte) : State :=
  let c := s.core core
  s.setCore core { c with icache := ⟨vd, ctx, va, bs⟩ :: c.icache }

/-- The eight bytes at an address, as a fetch finds them (09 R256, 08 R217): where the cache of the core holds other
bytes than memory, a free value decides which it returns (log 13). -/
def State.fetchWord (s : State) (a : Agent) (va : Nat) : Got DWord × State :=
  let word (bs : List Byte) : DWord := BitVec.ofNat 64 (ofBytes bs)
  match s.resolve a.id.vd a.id.ctx va 8 .x with
  | (.fail c r ad, s) => (.fail c r ad, s)
  | (.wait st, s) => (.wait st, s)
  | (.remote _, s) => (.fail 0x0C false va, s)
  | (.ok l, s) =>
    let load (s : State) (k : List Byte → State → State) : Got DWord × State :=
      match s.atHome a.id.vd false l with
      | (some st, s) => (.wait st, s)
      | (none, s) => let bs := s.readChunks l; (.ok (word bs), k bs s)
    match s.icGet a.pos.core a.id.vd a.id.ctx va with
    | none => load s fun bs s => s.icPut a.pos.core a.id.vd a.id.ctx va bs
    | some old =>
      if old = s.readChunks l then (.ok (word old), s)
      else
        let (f, s) := s.fresh
        if f % 2 = 0 then (.ok (word old), s) else load s fun _ s => s

/-- The instruction word at an address (12 R327). -/
def State.fetchAt (s : State) (i : Nat) (a : Agent) (pc : DWord) : Got DWord × State :=
  let va := pc.toNat
  if 2 ^ 57 ≤ va then (.fail 0x0B false va, s)
  else if inWindow va then (.fail 0x0C false va, s)
  else s.ownOf i va 8 false (s.fetchWord a va)

/-- The core whose macro control store an agent uses (11 R297). -/
def State.teamCore (s : State) (a : Agent) : Nat := ((tget s.teams a.id.team).map (·.core)).getD a.pos.core

/-- Word `j` of microprogram `n` (11 R297). -/
def State.macWord (s : State) (a : Agent) (n j : Nat) : DWord := (s.core (s.teamCore a)).store.getD (32 * n + j) 0

/-- Microprogram `n` reaches its operation `j` (11 R297). -/
def State.macReaches (s : State) (a : Agent) (n j : Nat) : Bool :=
  decide (n < 64) && decide (j < 32) && (upFrom 0 (j + 1)).all fun k => s.macWord a n k != 0

/-- What a fetch gives. -/
inductive Fetched where
  | instr (i : Instr) (w : DWord)
  | fault (f : FaultInfo)
  | wait

/-- A decoded word, or the issue fault it takes (11 R290 steps 1 to 3). -/
def fetched (a : Agent) (w : DWord) : Dec Instr → Fetched
  | .ok i => .instr i w
  | .illegal => .fault { cause := 1, pc := a.curPc, resume := some a.curPc, iword := w }
  | .operand => .fault { cause := 2, pc := a.curPc, resume := some a.curPc, iword := w }

/-- A fault of the fetch itself (12 R327); the word that could not be read is a free value (log 6). -/
def fetchFault (s : State) (a : Agent) (cause : Nat) (repl : Bool) (addr : Nat) : Fetched × State :=
  let (w, s) := s.fresh
  (.fault { cause, repl, pc := a.curPc, resume := some a.curPc, addr := BitVec.ofNat 64 addr
            iword := BitVec.ofNat 64 w }, s)

/-- The operation of a microprogram (11 R299, R300). -/
def State.fetchOp (s : State) (a : Agent) (m : MacRun) : Fetched :=
  let (d, w) := decodeStore (s.macWord a m.idx m.j).toNat m.p0 m.p1 m.p2
  fetched a w d

/-- A resumption at a tagged address (11 R301): the `macro` word is read again. -/
def State.fetchTagged (s : State) (i : Nat) (a : Agent) (m : MacRun) : Fetched × State :=
  match s.fetchAt i a a.arch.pc with
  | (.wait _, s) => (.wait, s)
  | (.fail c r ad, s) => fetchFault s a c r ad
  | (.ok w, s) =>
    let bad (n : Nat) : Fetched :=
      .fault { cause := 0x18, pc := a.curPc, resume := some a.curPc, addr := BitVec.ofNat 64 n, iword := w }
    match decode w with
    | .ok (.macroOp h idx p0 p1 p2) =>
      if s.macReaches a idx.toNat m.j then
        let m := { m with idx := idx.toNat, settle := h.settle, p0 := p0.code, p1 := p1.code, p2 := p2.code
                          check := false }
        (s.fetchOp a m, s.setAgent i { a with arch := { a.arch with mac := some m } })
      else (bad idx.toNat, s)
    | _ => (bad 0x100, s)

/-- The next instruction of an agent. -/
def State.fetch (s : State) (i : Nat) (a : Agent) : Fetched × State :=
  match a.arch.mac with
  | some m => if m.check then s.fetchTagged i a m else (s.fetchOp a m, s)
  | none =>
    match s.fetchAt i a a.arch.pc with
    | (.wait _, s) => (.wait, s)
    | (.fail c r ad, s) => fetchFault s a c r ad
    | (.ok w, s) => (fetched a w (decode w), s)

/-- The word at the next instruction, for the trap record of a fault that belongs to no instruction. -/
def State.nextWord (s : State) (i : Nat) (a : Agent) : DWord × State :=
  match s.fetch i a with
  | (.instr _ w, s) => (w, s)
  | (.fault f, s) => (f.iword, s)
  | (.wait, s) => let (w, s) := s.fresh; (BitVec.ofNat 64 w, s)

/-! Faults that are due. -/

/-- Completion faults of an agent: failures, and parked accesses as replayable faults; all of them, or those
delivered at the next instruction boundary (07 R162, R164, 14 R377). -/
def Agent.completions (a : Agent) (all : Bool) : List Fail :=
  (a.flt.fails.filter fun f => all || f.due) ++
    a.pend.ops.filterMap fun o =>
      match o.st with
      | .parked _ ad =>
        if all || o.stop then
          some ⟨o.id, o.stop,
            { cause := 0x0B, repl := true, pc := o.pc, addr := BitVec.ofNat 64 ad, iword := o.iword, guard := o.guard }⟩
        else none
      | _ => none

/-- The fault of the oldest instruction. -/
def oldestFail : List Fail → Option Fail
  | [] => none
  | f :: fs =>
    match oldestFail fs with
    | some g => if g.order < f.order then some g else some f
    | none => some f

/-- The first fault due outside handler mode, in the order of 07 R167, and the agent without it; `w` is the word
at the next instruction. -/
def Agent.takeDue (a : Agent) (all : Bool) (w : DWord) : Option (FaultInfo × Agent) :=
  if a.inHandler then none
  else
    match oldestFail (a.completions all) with
    | some f => some (f.info, { a with flt := { a.flt with fails := a.flt.fails.filter fun x => x.order != f.order } })
    | none =>
      match oldestFail a.flt.engine with
      | some f =>
        some (f.info, { a with flt := { a.flt with engine := a.flt.engine.filter fun x => x.order != f.order } })
      | none =>
        if a.flt.wdog then
          some ({ cause := 0x15, pc := a.curPc, iword := w }, { a with flt := { a.flt with wdog := false } })
        else if a.flt.pre then
          some ({ cause := 0x20, pc := a.curPc, iword := w }, { a with flt := { a.flt with pre := false } })
        else none

/-! Taking a trap. -/

/-- What the part writes to the trap save area: the trap record (05 R133), the queue snapshot, and the state of
07 R169. -/
def trapArea (s : State) (a : Agent) (f : FaultInfo) : List Byte :=
  let q := a.arch.queue
  let pend := (upFrom 0 16).foldl (fun m n => m + b2n (q.getD n {}).pend.isSome * 2 ^ n) 0
  bytesOf (f.cause + 256 * b2n f.repl + 512 * b2n f.eng + 1024 * b2n a.pos.away + 2048 * b2n a.id.seq) 4
    ++ bytesOf (s.teamN a.id.team) 4 ++ bytesOf f.pc.toNat 8 ++ bytesOf f.addr.toNat 8 ++ bytesOf f.iword.toNat 8
    ++ bytesOf (a.pos.core + a.pos.lane * 2 ^ 11 + a.pos.slot * 2 ^ 15 + a.id.tid * 2 ^ 20) 4
    ++ bytesOf (a.id.vd + 256 * a.id.ctx) 4 ++ bytesOf (s.spillBase a + 64) 8
    ++ (upFrom 0 4).flatMap (fun k => bytesOf (f.index.getD k 0) 4)
    ++ (upFrom 0 16).flatMap (fun n => bytesOf (if (q.getD n {}).pend.isSome then 0 else (q.getD n {}).val.toNat) 4)
    ++ bytesOf (a.arch.preds.toNat + 256 * a.arch.loops.length + 65536 * pend) 8
    ++ bytesOf (if a.arch.mac.isSome then a.macGuard else f.guard) 8
    ++ (upFrom 0 4).flatMap (fun k =>
        match a.arch.loops[k]? with
        | some l => bytesOf (l.start.toNat % 2 ^ 57) 8 ++ bytesOf l.len 4 ++ bytesOf l.count.toNat 4
        | none => List.replicate 16 0)
    ++ List.replicate 48 0

/-- The accesses an instruction made of its own are over with it. -/
def Agent.ownOver (a : Agent) : Agent := { a with pend := { a.pend with own := a.pend.own.filter (·.late) } }

/-- The agent leaves every wait it is in (07 R177, R187). -/
def State.leaveWaits (s : State) (i : Nat) : State :=
  let s := (s.dropReq i).leaveQueues i
  match tget s.agents i with
  | none => s
  | some a =>
    s.setAgent i { a.ownOver with pend := { a.ownOver.pend with
      ct := none, rejoin := none, fence := none, talloc := none, mig := none, wake := false } }

/-- Handler mode is entered (07 R168 steps 3 to 6): the trap registers, the trap frame, an empty queue, the
handler's address. -/
def Agent.enterHandler (a : Agent) (f : FaultInfo) (entry : Nat) (frame : Frame) : Agent :=
  let pend := (upFrom 0 16).filterMap fun n => ((a.arch.queue.getD n {}).pend).map fun p => (n, p)
  { a with
    arch := { a.arch with
      pc := BitVec.ofNat 64 entry
      queue := List.replicate 16 {}
      frames := frame :: a.arch.frames
      preds := 0
      loops := []
      mac := none }
    flt := { a.flt with
      trapping := false
      due := none
      entries := ⟨f.cause, f.pc, false, a.pend.settle, pend⟩ :: a.flt.entries }
    pend := { a.pend with settle := false } }

/-- The trap frame (07 R168 step 4): a frame request, which may wait. A sequencer pool that cannot hold it is a
double fault (05 R134, 12 R331). -/
def State.pushTrap (s : State) (i : Nat) (a : Agent) (f : FaultInfo) (entry dem : Nat) : State :=
  let p := poolOf i a
  let want := ceilDiv dem 16
  if a.id.seq && decide ((s.freeGran p).length < want) then s.endGrid a.id.grid 8 f.cause f.pc
  else
    match s.frameReq i a p want false [] with
    | some s => s
    | none =>
      let (g, s) := s.takeGran i p want
      let (u, s) := s.newId
      let (r, s) := s.fresh
      match tget s.agents i with
      | none => s
      | some a =>
        s.setAgent i (a.enterHandler f entry (newFrame u dem (BitVec.ofNat 64 (r % 2 ^ 57)) false true 0 g))

/-- The trap registers (07 R168 step 3). -/
def Agent.setTrapRegs (a : Agent) (f : FaultInfo) : Agent :=
  { a with arch := { a.arch with
      trapcause := BitVec.ofNat 32 f.cause
      trappc := f.resume.getD a.curPc
      trapaddr := f.addr } }

/-- A trap being entered goes on (07 R168): once nothing but parked accesses is outstanding, the save area is
written, the registers are set and the trap frame is asked for. A failing write is a double fault. -/
def State.tryTrap (s : State) (i : Nat) : State :=
  match tget s.agents i with
  | none => s
  | some a =>
    if !a.flt.trapping || !a.quiet || a.pos.out then s
    else
      match a.flt.due, (s.grid a.id.grid).vector with
      | some f, some (entry, dem) =>
        if a.pend.freq.isSome then s.pushTrap i a f entry dem
        else
          match s.ownOf i (s.spillBase a) 256 true (s.writeVa a.id.vd a.id.ctx (s.spillBase a) (trapArea s a f)) with
          | (.fail _ _ _, s) => s.endGrid a.id.grid 8 f.cause f.pc
          | (.wait _, s) => s
          | (.ok (), s) =>
            let a := ((tget s.agents i).getD a).setTrapRegs f
            (s.setAgent i a).pushTrap i a f entry dem
      | _, _ => s

/-- A fault of an agent is taken: by the trap vector of its grid, or, without one, by ending the grid with
INTCAUSE bit 3 (05 R131). In a handler that has not declared its copy of the save area, and at the limit of the
call depth, it is a double fault, told by the cause and PC of the trap it would enter (05 R134, 07 R173, log 35). -/
def State.raise (s : State) (i : Nat) (f : FaultInfo) : State :=
  match tget s.agents i with
  | none => s
  | some a =>
    let g := a.id.grid
    match (s.grid g).vector with
    | none => (s.setCause a.id.vd 3).endGrid g 8 f.cause f.pc
    | some _ =>
      let undeclared := match a.flt.entries with
        | [] => false
        | e :: _ => !e.declared
      if undeclared || decide (255 ≤ a.depth) then s.endGrid g 8 f.cause f.pc
      else
        let s := s.leaveWaits i
        let a := (tget s.agents i).getD a
        (s.setAgent i { a with flt := { a.flt with trapping := true, due := some f } }).tryTrap i

/-! Settle waits. -/

/-- The settle wait holds: an entry of the queue is pending on a result that is still to come, or an operation
with DST 0xFF is outstanding (08 R193, 11 R289). -/
def Agent.settling (a : Agent) : Bool :=
  a.arch.queue.any (fun e =>
    match e.pend with
    | some (o, _) =>
      (match a.op o with
       | some x => a.inHandler || !x.st.isParked
       | none => false)
    | none => false)
    || a.pend.ops.any fun o => o.silent && !o.st.isParked

/-- A settle wait examined: it goes on, ends, or delivers the first fault due (07 R162). -/
def State.settleStep (s : State) (i : Nat) : State :=
  match tget s.agents i with
  | none => s
  | some a =>
    if !a.pend.settle || a.flt.trapping || a.pos.out || a.settling then s
    else
      match a.takeDue true 0 with
      | none => s.setAgent i { a with pend := { a.pend with settle := false } }
      | some (f, a') =>
        if f.cause = 0x15 ∨ f.cause = 0x20 then
          let (w, s) := s.nextWord i a'
          (s.setAgent i a').raise i { f with iword := w }
        else (s.setAgent i a').raise i f

/-- The settle marker of an instruction that has issued (08 R193). -/
def State.markSettle (s : State) (i : Nat) (b : Bool) : State :=
  match tget s.agents i with
  | none => s
  | some a => if b then (s.setAgent i { a with pend := { a.pend with settle := true } }).settleStep i else s

/-! The advance. -/

/-- The next instruction is at `npc`, after the body-end test (12 R335). -/
def Agent.goTo (a : Agent) (npc : DWord) : Agent :=
  let r := bodyEnd npc a.arch.loops
  { a with arch := { a.arch with pc := r.1, loops := r.2 } }

/-- An instruction has executed: the next one follows, or the next operation of the microprogram, or what comes
after the `macro` word, whose marker takes effect then (11 R299). -/
def State.advance (s : State) (i : Nat) (settle : Bool) (npc : Option DWord) : State :=
  match tget s.agents i with
  | none => s
  | some a0 =>
    let a := a0.ownOver
    match a.arch.mac with
    | none => (s.setAgent i (a.goTo (npc.getD (a.arch.pc + 8)))).markSettle i settle
    | some m =>
      if s.macReaches a m.idx (m.j + 1) then
        (s.setAgent i { a with arch := { a.arch with mac := some { m with j := m.j + 1 } } }).markSettle i settle
      else
        let a := { a with arch := { a.arch with mac := none } }
        (s.setAgent i (a.goTo (a.arch.pc + 8))).markSettle i (settle || m.settle)

/-- What an effect comes to for an agent: an issue fault first; outside handler mode then the faults that are due
at the boundary (07 R167), in whose favour the effect is given up; then the effect. -/
def State.finish (s : State) (i : Nat) (a : Agent) (settle : Bool) (fx : Fx) : State :=
  let due (all : Bool) (k : State) : State :=
    match a.takeDue all s.run.word with
    | some (f, a') => (s.setAgent i a').raise i f
    | none => k
  match fx with
  | .fault f => s.raise i f
  | .done s' => due false (s'.advance i settle none)
  | .jump npc s' => due false (s'.advance i settle (some npc))
  | .moved s' => due false (s'.markSettle i settle)
  | .keep s' => due false { s' with agents := tmod s'.agents i fun b => { b with sched := { b.sched with polled := true } } }
  | .point s' => due true s'

/-- Which agents may execute an instruction (11 R296). -/
inductive Cls where
  | both | thread | seq
  deriving DecidableEq, Repr

/-- The agent may not execute an instruction of the class (11 R290 step 4). -/
def Cls.forbids (c : Cls) (a : Agent) : Bool :=
  match c with
  | .both => false
  | .thread => a.id.seq
  | .seq => !a.id.seq

/-- Steps 4 and 5 of 11 R290, the guard, and what follows it. -/
def guardedFx (c : Cls) (hdl : Bool) (h : Hdr) (body : Bool → State → Nat → Agent → Fx)
    (s : State) (i : Nat) (a : Agent) : Fx :=
  if c.forbids a then .fault (faultAt s a 0x07 0)
  else if hdl && !a.inHandler then .fault (faultAt s a 0x0C 0)
  else onRd s a (a.guard h) fun g => body g s i a

/-- The agent in focus issues an instruction whose effect depends on its guard. -/
def issueG (c : Cls) (hdl : Bool) (h : Hdr) (body : Bool → State → Nat → Agent → Fx) (s : State) : Out :=
  match s.run.cur with
  | none => .fault .noAgent
  | some i =>
    match tget s.agents i with
    | none => .fault .noAgent
    | some a => .next (s.finish i a h.settle (guardedFx c hdl h body s i a))

/-- The effect when the guard is true, the guarded-off push otherwise (08 R191). -/
def issueFx (off : Agent → Rd Agent) (body : State → Nat → Agent → Fx) (g : Bool) (s : State) (i : Nat) (a : Agent) :
    Fx :=
  if g then body s i a else onRd s a (off a) fun a' => .done (s.setAgent i a')

/-- The agent in focus issues an instruction. -/
def issue (c : Cls) (hdl : Bool) (h : Hdr) (off : Agent → Rd Agent) (body : State → Nat → Agent → Fx)
    (s : State) : Out :=
  issueG c hdl h (issueFx off body) s

/-- Nothing pushed when guarded off. -/
def offNone (a : Agent) : Rd Agent := .ok a

/-- The effect of an instruction that computes one result of `w` bits from its sources (12 R310). -/
def resultFx (os : List Opnd) (d : Dst) (w : Nat) (f : List Nat → Nat) (s : State) (i : Nat) (a : Agent) : Fx :=
  onRd s a (a.srcs os) fun xs =>
    onRd s a (a.dstReady d (w / 32)) fun _ => .done (s.setAgent i (a.putResult d (w / 32) (f xs)))

/-- An instruction that computes one result of `w` bits from its sources. -/
def issueResult (c : Cls) (h : Hdr) (os : List Opnd) (d : Dst) (w : Nat) (f : List Nat → Nat) (s : State) : Out :=
  issue c false h (fun a => a.pushOff os.head? d (w / 32)) (resultFx os d w f) s

/-- An instruction with a deferred result of `w` bits whose value is fixed at issue (11 R293). -/
def issueDeferred (c : Cls) (h : Hdr) (os : List Opnd) (d : Dst) (w : Nat) (f : List Nat → Nat) (s : State) : Out :=
  issue c false h (fun a => a.pushOff os.head? d (w / 32))
    (fun s i a => onRd s a (a.srcs os) fun xs =>
      onRd s a (a.dstReady d (w / 32)) fun _ => .done (s.startReady i a (wordsOf (f xs) (w / 32)) d [])) s

/-- An instruction with a predicate result (12 R310). -/
def issuePred (c : Cls) (h : Hdr) (os : List Opnd) (d : Dst) (f : List Nat → Bool) (s : State) : Out :=
  issue c false h (fun a => a.pushOff os.head? d 1)
    (fun s i a => onRd s a (a.srcs os) fun xs =>
      onRd s a (a.dstReady d 1) fun _ => .done (s.setAgent i (a.putPred d (f xs)))) s

/-! Frames popped. -/

/-- The outcome of popping frames. -/
inductive Pop where
  | ok (a : Agent) (s : State)
  | wait (s : State)
  | fault (cause addr : Nat) (repl : Bool)

/-- Bytes of evicted frames. -/
def evictedBytes (es : List EvFrame) : Nat := (es.map fun e => spillBytes e.dem).sum

/-- The top `n` frames popped (08 R204, R205, 12 R332, R333): resident ones released, evicted ones dropped by
lowering the spill depth; the frame that becomes the top is read back when it is evicted, into granules asked
for with those of the popped frames counted as available. -/
def State.popFrames (s : State) (i : Nat) (a : Agent) (n : Nat) (args : List Nat) : Pop :=
  let r := a.arch.frames.length
  let ev := a.arch.evicted.drop (n - r)
  let a' := { a with arch := { a.arch with
    frames := a.arch.frames.drop n
    evicted := ev
    spill := a.arch.spill - evictedBytes (a.arch.evicted.take (n - r)) } }
  let p := poolOf i a
  let freed := !(a.arch.frames.take n).isEmpty || a.pend.freq.any fun f => !f.held.isEmpty
  match a'.arch.frames, ev with
  | [], e :: _ =>
    let want := ceilDiv e.dem 16
    match s.frameReq i a p want true args with
    | some s => .wait s
    | none =>
      match s.restoreTop i a' [] with
      | (.wait _, s) => .wait s
      | (.fail c r ad, _) => .fault c ad r
      | (.ok b, s) =>
        let (g, s) := (s.setAgent i b).takeGran i p want
        match tget s.agents i with
        | none => .wait s
        | some b =>
          let b := { b with arch := { b.arch with frames := b.arch.frames.map fun f => { f with gran := g } } }
          .ok b ((s.setAgent i b).noteFreedIf freed p)
  | _, _ =>
    let s := (s.setAgent i { a' with pend := { a'.pend with freq := none } }).noteFreedIf freed p
    .ok ((tget s.agents i).getD a') s

/-- How many frames lie above the topmost frame that satisfies a test on HF and TRF. -/
def framesAbove (a : Agent) (p : Bool → Bool → Bool) : Option Nat :=
  ((a.arch.frames.map fun f => (f.hf, f.trf)) ++ a.arch.evicted.map fun e => (e.hf, e.trf)).findIdx? fun x => p x.1 x.2

/-! Returning from a trap. -/

/-- Eight bytes of a save area. -/
def areaNat (bs : List Byte) (off n : Nat) : Nat := ofBytes ((bs.drop off).take n)

/-- The queue of the interrupted code from the snapshot (07 R171 step 2). -/
def restoreQueue (a : Agent) (pend : Tab (Nat × Nat)) (bs : List Byte) : List QEnt :=
  (upFrom 0 16).map fun n =>
    let v : Word := BitVec.ofNat 32 (areaNat bs (64 + 4 * n) 4)
    match tget pend n with
    | some (o, k) =>
      if bitAt (areaNat bs 0x82 2) n && (match a.op o with | some x => x.st.isParked | none => false) then
        { pend := some (o, k) }
      else { val := v }
    | none => { val := v }

/-- The loop stack from the save area (07 R169, R171). -/
def restoreLoops (bs : List Byte) : List Loop :=
  (upFrom 0 (min 4 (bits (areaNat bs 0x80 4) 8 3))).map fun k =>
    ⟨BitVec.ofNat 64 (areaNat bs (0x90 + 16 * k) 8 % 2 ^ 57), areaNat bs (0x98 + 16 * k) 4,
      BitVec.ofNat 32 (areaNat bs (0x9C + 16 * k) 4)⟩

/-- Parked accesses replayed in their order (07 R164, R171 step 3). -/
def State.replay (s : State) (i : Nat) : List Nat → State
  | [] => s
  | o :: os => (s.tryOp i o none).replay i os

/-- What a thread that returns from a handler to depth `n` keeps of the cross-lane instructions that others have passed
(log 21): what belongs to the handlers still open and to the code resumed. -/
def stillAt (came : List Came) (n : Nat) : List Came := came.filter fun e => decide (e.depth ≤ n)

/-- The interrupted code as the save area holds it (07 R171): every held completion fault is due. -/
def Agent.leaveHandler (a : Agent) (e : TrapEnt) (es : List TrapEnt) (bs : List Byte) : Agent :=
  let v := a.arch.trappc
  let tagged := bitAt v.toNat 62
  let loops := restoreLoops bs
  let m : MacRun :=
    { idx := 0, j := bits v.toNat 57 5, gp := BitVec.ofNat 3 (areaNat bs 0x88 1)
      gn := bitAt (areaNat bs 0x88 1) 3, settle := false, p0 := 0, p1 := 0, p2 := 0, check := true }
  let t := if tagged then (BitVec.ofNat 64 (v.toNat % 2 ^ 57), loops) else bodyEnd v loops
  { a with
    arch := { a.arch with
      pc := t.1
      loops := t.2
      mac := if tagged then some m else none
      queue := restoreQueue a e.pend bs
      preds := BitVec.ofNat 7 (areaNat bs 0x80 1) }
    flt := { a.flt with entries := es, fails := a.flt.fails.map fun f => { f with due := true } }
    pend := { a.pend with settle := e.settle }
    sched := { a.sched with came := stillAt a.sched.came es.length } }

/-- The effect of `rtt` (07 R171, 11 R301). A save area, or an evicted frame below, that cannot be read back is a double
fault (the latter is log 35). -/
def rttFx (s : State) (i : Nat) (a : Agent) : Fx :=
  let v := a.arch.trappc.toNat
  match a.flt.entries with
  | [] => .fault (faultAt s a 0x0C 0)
  | e :: es =>
    if 2 ^ 57 ≤ v ∧ bits v 62 2 ≠ 1 then .fault (faultAt s a 0x0B v)
    else if v % 8 ≠ 0 then .fault (faultAt s a 0x0A v)
    else
      match s.ownOf i (s.spillBase a) 256 false (s.readVa a.id.vd a.id.ctx (s.spillBase a) 256) with
      | (.wait _, s) => .keep s
      | (.fail _ _ _, s) => .moved (s.endGrid a.id.grid 8 e.cause e.pc)
      | (.ok bs, s) =>
        let a := (tget s.agents i).getD a
        match framesAbove a fun _ t => t with
        | none => .fault (faultAt s a 0x12 0)
        | some k =>
          match s.popFrames i a (k + 1) [] with
          | .wait s => .keep s
          | .fault _ _ _ => .moved (s.endGrid a.id.grid 8 e.cause e.pc)
          | .ok a s =>
            let a := a.leaveHandler e es bs
            let s := s.setAgent i a
            let s := s.replay i ((a.pend.ops.filter fun o => o.st.isParked).map (·.id))
            .moved (s.settleStep i)

/-! What the agenda does with an agent that has no instruction to issue. -/

/-- An agent's waits examined: a trap being entered, a settle wait, accesses at a full walker. -/
def State.poll (s : State) (i : Nat) : State :=
  match tget s.agents i with
  | none => s
  | some a =>
    if a.pos.out && !a.ended then s
    else if a.flt.trapping then s.tryTrap i
    else if a.pend.settle then s.settleStep i
    else
      s.replay i ((a.pend.ops.filter fun o => match o.st with | .walker _ _ => true | _ => false).map (·.id))

/-- The agent can issue an instruction (06 R148). -/
def Agent.canIssue (a : Agent) : Bool :=
  !a.pos.out && !a.flt.trapping && !a.pend.settle && a.sched.psaved.isNone &&
    a.pend.ops.all fun o =>
      match o.st with
      | .walker _ _ | .regul _ false => false
      | .held => !o.stop && !o.det
      | .snoop _ | .regul _ true | .remote _ _ => !o.det
      | .ready _ | .parked _ _ => true

/-! Operations attempted again when what held them is gone. -/

/-- An agent's waits are looked at after something of it has returned. -/
def State.afterReturn (s : State) (i : Nat) : State := (s.settleStep i).tryTrap i

/-- The operations of an agent whose status satisfies a test, attempted again in order. -/
def State.retryAgent (s : State) (p : OpSt → Bool) (i : Nat) : State :=
  match tget s.agents i with
  | none => s
  | some a =>
    let here := !a.pos.out && (s.die (dieOfCore a.pos.core)).gate != .waking
    let os := a.pend.ops.filter fun o => p o.st && (here || o.det)
    if os.isEmpty then s else (s.replay i (os.map (·.id))).afterReturn i

def State.retryAll (s : State) (p : OpSt → Bool) : List Nat → State
  | [] => s
  | i :: is => (s.retryAgent p i).retryAll p is

/-- Every agent's operations of a kind attempted again. -/
def State.retry (s : State) (p : OpSt → Bool) : State := s.retryAll p (s.agents.map (·.1))

/-- Something no longer stands in the way of accesses that were put off: those are attempted again. -/
def State.retryHeld (s : State) : State := s.retry fun o => o == .held

end Sys2Proof.Machine
end

