-- ==== Sys2Proof/Machine/Scopes.lean ====
section
/-!
DEFINITION. The scope table (09 R226 to R235): members, the check of a scope index, `scopew` and `scoper` (14 R399,
R400) and the effect of an update.
-/
namespace Sys2Proof.Machine

def State.setScope (s : State) (vd ctx k : Nat) (e : ScEnt) : State :=
  s.setCtx vd ctx { s.ctx vd ctx with scopes := tset (s.ctx vd ctx).scopes k e }

/-- The check of a scope index at issue (09 R233). -/
def State.scopeCheck (s : State) (a : Agent) (k : Nat) : Rd Unit :=
  if k < 6 then .ok ()
  else
    match (s.scope a.id.vd a.id.ctx k).st with
    | .invalid => .fault 0x08 k
    | .pending => .wait
    | .valid => if s.member a.id.vd a.id.ctx k a.issuer a.issuer then .ok () else .fault 0x09 k

/-! Descriptors (09 R229). -/

/-- The cores named by a member set. -/
def memberCores (m : Nat) : List Nat := setBitsFrom m 0 1152

/-- All cores of a member set agree on a test value. -/
def allSame (f : Nat → Nat) (m : Nat) : Bool :=
  match memberCores m with
  | [] => true
  | c :: cs => cs.all fun d => f d == f c

/-- A reserved bit of a descriptor is set. -/
def descReserved (x : Nat) : Bool :=
  bits x (0x90 * 8 + 5) 11 != 0 || bits x (0x92 * 8 + 12) 4 != 0 || bits x (0x94 * 8 + 2) 30 != 0
    || bits x (0x98 * 8) (0x28 * 8) != 0

/-- The result of `scopew` for a descriptor (09 R231). -/
def scopewCode (x : Nat) : Nat :=
  let m := bits x 0 1152
  let meet := bits x (0x90 * 8 + 1) 2
  let site := bits x (0x90 * 8 + 3) 2
  if !bitAt x (0x90 * 8) then 0
  else if descReserved x ∨ m = 0 then 1
  else if (meet = 0 ∧ !allSame id m) ∨ (meet = 1 ∧ !allSame dieOfCore m) then 2
  else if (site = 0 ∧ !allSame id m) ∨ (site = 1 ∧ !allSame cobOfCore m) then 3
  else 0

/-- An accepted `scopew` (09 R234). -/
def ScEnt.accept (e : ScEnt) (x : Nat) : ScEnt :=
  { e with
    gen := (e.gen + 1) % 4096
    st := .pending
    was := e.st
    nmembers := bits x 0 1152
    nmeet := bits x (0x90 * 8 + 1) 2
    nsite := bits x (0x90 * 8 + 3) 2
    nvalid := bitAt x (0x90 * 8) }

/-- The accepted definition takes effect. -/
def ScEnt.effect (e : ScEnt) : ScEnt :=
  { e with
    st := if e.nvalid then .valid else .invalid
    members := if e.nvalid then e.nmembers else 0
    meet := if e.nvalid then e.nmeet else 0
    site := if e.nvalid then e.nsite else 0 }

/-- An operation checked under the old definition has not performed (09 R234). -/
def State.scopeBusy (s : State) (vd ctx k : Nat) : Bool :=
  s.agents.any fun (_, a) =>
    a.id.vd == vd && a.id.ctx == ctx && a.pend.ops.any fun o =>
      o.scope == some k && (match o.st with | .ready _ => false | _ => true)

/-- An update takes effect once every operation checked earlier has performed (09 R234). -/
def execScopeUpdateEffect (vd ctx entry : Nat) (s : State) : Out :=
  let e := s.scope vd ctx entry
  if e.st = .pending ∧ !s.scopeBusy vd ctx entry then
    let s := s.setScope vd ctx entry e.effect
    .next { s with grids := tmap s.grids fun _ g =>
      if g.vd = vd ∧ g.lrec.ctx = ctx ∧ g.lrec.ascope = entry then { g with acqWait := false } else g }
  else .next s

/-- A descriptor's bytes: members, VALID, MEET, SITE, GEN and STATE. -/
def descBytes (members valid meet site gen st : Nat) : List Byte :=
  bytesOf members 144 ++ bytesOf (valid + 2 * meet + 8 * site) 2 ++ bytesOf gen 2 ++ bytesOf st 4
    ++ List.replicate 40 0

/-- The cores present: on enabled cobs of included dies (14 R400). -/
def State.coreOn (s : State) (c : Nat) : Bool :=
  !bitAt s.pkg.exDies (dieOfCore c) && !bitAt s.pkg.harvest (cobOfCore c)

/-- What `scoper` writes and reports of entry `k` (14 R400): the descriptor's parts, GEN and STATE. -/
def State.scoperOf (s : State) (a : Agent) (k : Nat) : Nat × Nat × Nat × Nat × Nat × Nat :=
  if k < 6 then
    let m := ((upFrom 0 1152).filter fun c =>
      fixedMember k a.issuer c && (decide (k < 2) || s.coreOn c)).foldl (fun m c => m + 2 ^ c) 0
    (m, 1, fixedMeet k, fixedSite k, 0, 1)
  else
    let e := s.scope a.id.vd a.id.ctx k
    match if k < 8 then .invalid else e.st with
    | .invalid => (0, 0, 0, 0, e.gen, 0)
    | .valid => (e.members, 1, e.meet, e.site, e.gen, 1)
    | .pending => (e.nmembers, b2n e.nvalid, e.nmeet, e.nsite, e.gen, 2)

/-! The instructions. -/

/-- What an access of an instruction's own comes to: its places here, or its parts with what peers have answered. -/
inductive OwnAcc where
  | ok (locs : List (Loc × Nat))
  | far (parts : List (Option Nat × Nat × Nat)) (bs : List Byte)
  | fail (cause addr : Nat) (repl : Bool)
  | wait
  deriving DecidableEq, Repr

/-- The stores to make at the peers of the parts of a range. -/
def farStores : List (Option Nat × Nat × Nat) → List Byte → List (Nat × PeerAcc)
  | [], _ => []
  | (some d, pa, n) :: t, bs => (d, .store pa (bs.take n) false) :: farStores t (bs.drop n)
  | (none, _, n) :: t, bs => farStores t (bs.drop n)

/-- The parts of a range that lie here written. -/
def State.putParts (s : State) : List (Option Nat × Nat × Nat) → List Byte → State
  | [], _ => s
  | (none, pa, n) :: t, bs => (s.write (.mem pa) (bs.take n)).putParts t (bs.drop n)
  | (some _, _, n) :: t, bs => s.putParts t (bs.drop n)

/-- The answer of the peers to an access of its own that an agent has asked for, with the parts of its range. -/
def answerOf (l : List Own) (va n : Nat) (wr : Bool) : Option (List (Option Nat × Nat × Nat) × List Byte) :=
  (l.find? (Own.is va n wr)).bind fun o => o.data.map fun bs => (o.far, bs)

/-- Peers have been asked for it and have not answered yet. -/
def askedFor (l : List Own) (va n : Nat) (wr : Bool) : Bool := l.any fun o => o.is va n wr && o.st.isRemote

/-- An access to a range that the instruction of the agent in focus makes of its own, of the bytes `bs` where it writes
(14 R399). -/
def State.ownTouch (s : State) (a : Agent) (va n : Nat) (acs : Acs) (bs : List Byte) : OwnAcc × State :=
  let i := s.run.cur.getD 0
  let wr := acs == .w
  let l := s.ownsOf i
  match ownDead l va n wr, answerOf l va n wr with
  | some c, _ => (.fail c va false, s.setOwns i (ownDone l va n wr))
  | none, some (parts, ans) => (.far parts ans, s)
  | none, none =>
    if askedFor l va n wr then (.wait, s)
    else
      match s.touch a s.run.nextId va n acs with
      | (.ok locs, t) => (.ok locs, t.setOwns i (ownDone l va n wr))
      | (.fail c ad, t) => (.fail c ad false, t.setOwns i (ownDone l va n wr))
      | (.park ad, t) => (.fail 0x0B ad true, t.setOwns i (ownDone l va n wr))
      | (.hold st, t) => (.wait, t.setOwns i (t.ownWait l va n wr st))
      | (.remote parts, t) =>
        if !t.peersUp parts then (.fail 0x16 va false, t.setOwns i (ownDone l va n wr))
        else
          let r := t.sendPeers a.id.vd (if wr then farStores parts bs else farParts parts .load)
          (.wait, r.2.2.setOwns i (r.2.2.ownWait l va n wr r.2.1 parts))

/-- A range that an instruction reads before it goes on: every failure is a fault at the instruction (14 R399). -/
def onRead (s : State) (a : Agent) (va n : Nat) (k : State → List Byte → Fx) : Fx :=
  match s.ownTouch a va n .r [] with
  | (.ok l, s) => k s (s.readChunks l)
  | (.far parts ans, s) => k s (joinParts parts (s.hereBytes parts) ans)
  | (.fail c ad r, s) => .fault (faultAt s a c ad r)
  | (.wait, s) => .keep s

/-- A range that an instruction writes before it goes on. -/
def onWrite (s : State) (a : Agent) (va : Nat) (bs : List Byte) (k : State → Fx) : Fx :=
  match s.ownTouch a va bs.length .w bs with
  | (.ok l, s) => k (s.writeChunks l bs)
  | (.far parts _, s) => k (s.putParts parts bs)
  | (.fail c ad r, s) => .fault (faultAt s a c ad r)
  | (.wait, s) => .keep s

/-- `scopew` (14 R399). -/
def scopewFx (k : Nat) (x : Src) (d : Dst) (s : State) (i : Nat) (a : Agent) : Fx :=
  if k < 8 ∨ !(s.ctx a.id.vd a.id.ctx).scopew then .fault (faultAt s a 0x0C 0)
  else
    onRd s a (a.src ⟨x, 64, .int⟩) fun va => onRd s a (a.dstReady d 1) fun _ =>
      if va % 64 ≠ 0 then .fault (faultAt s a 0x0A va)
      else if (s.scope a.id.vd a.id.ctx k).st = .pending ∨ a.memHeld then .keep s
      else
        onRead s a va 192 fun s bs =>
          let x := ofBytes bs
          let c := scopewCode x
          let s := if c = 0 then s.setScope a.id.vd a.id.ctx k ((s.scope a.id.vd a.id.ctx k).accept x) else s
          .done (s.setAgent i (a.putResult d 1 c))

def execScopew (h : Hdr) (sk : BitVec 6) (x : Src) (d : Dst) (s : State) : Out :=
  issue .both false h (fun a => a.pushOff (some ⟨x, 64, .int⟩) d 1) (scopewFx sk.toNat x d) s

/-- `scoper` (14 R400). -/
def scoperFx (k : Nat) (x : Src) (d : Dst) (s : State) (i : Nat) (a : Agent) : Fx :=
  onRd s a (a.src ⟨x, 64, .int⟩) fun va => onRd s a (a.dstReady d 1) fun _ =>
    if va % 64 ≠ 0 then .fault (faultAt s a 0x0A va)
    else if a.memHeld then .keep s
    else
      let (m, v, me, si, g, st) := s.scoperOf a k
      onWrite s a va (descBytes m v me si g st) fun s =>
        let a := (tget s.agents i).getD a
        .done (s.setAgent i (a.putResult d 1 (g + 65536 * st)))

def execScoper (h : Hdr) (sk : BitVec 6) (x : Src) (d : Dst) (s : State) : Out :=
  issue .both false h (fun a => a.pushOff (some ⟨x, 64, .int⟩) d 1) (scoperFx sk.toNat x d) s

end Sys2Proof.Machine
end

