-- ==== Sys2Proof/Machine/Slots.lean ====
section
/-!
DEFINITION. Format slots and configuration planes (04 R101 to R105, 15 R441 to R444): capture, rebinding, drains,
plane loads.
-/
namespace Sys2Proof.Machine

/-! Slots. -/

def Ctx.slot (c : Ctx) (n : Nat) : SlotB := tgetD c.slots n {}
def State.slot (s : State) (vd ctx n : Nat) : SlotB := (s.ctx vd ctx).slot n
def State.setSlot (s : State) (vd ctx n : Nat) (b : SlotB) : State :=
  s.setCtx vd ctx { s.ctx vd ctx with slots := tset (s.ctx vd ctx).slots n b }

/-- The binding an operation of an agent captures (04 R102, R103). -/
def State.capture (s : State) (a : Agent) (n : Nat) : Rd Nat :=
  let b := s.slot a.id.vd a.id.ctx n
  if b.st = 0 then .fault 0x0E n else if b.st = 1 then .ok b.img else .wait

/-- Several slots captured in order. -/
def State.captures (s : State) (a : Agent) : List Nat → Rd (List Nat)
  | [] => .ok []
  | n :: ns => (s.capture a n).andThen fun m => (s.captures a ns).andThen fun ms => .ok (m :: ms)

/-- An operation still holds the old binding of a slot, saved or not (04 R102 step 1, R103). -/
def State.slotHeld (s : State) (vd ctx n : Nat) : Bool :=
  s.agents.any (fun (_, a) =>
    a.id.vd == vd && a.id.ctx == ctx &&
      (a.pend.mq.any (fun e => e.slots.contains n) ||
        a.pend.ops.any fun o => (o.acc.bind Acc.captured).map (·.2) == some n))
    || s.copies.any fun (_, c) => c.vd == vd && c.ctx == ctx && c.slots.contains n

/-- Cobs where a context has a team, a landing thread or a sequencer context (04 R102 step 3). -/
def State.cobsOf (s : State) (vd ctx : Nat) : List Nat :=
  ((s.agents.filterMap fun (_, a) =>
      if a.id.vd = vd ∧ a.id.ctx = ctx ∧ !a.pos.out then some (cobOfCore a.pos.core) else none)
    ++ s.teams.filterMap fun (_, t) =>
      let g := s.grid t.grid
      if t.holds ∧ g.vd = vd ∧ g.lrec.ctx = ctx then some (cobOfCore t.core) else none).eraseDups

/-! Images (04 R99, R100, R103). -/

/-- The images an entry uses. -/
def MEnt.images (e : MEnt) : List Nat :=
  match e.kind with
  | .mma => [e.imgA, e.imgB, e.imgC]
  | .tcvt => [e.imgA, e.imgB]
  | .thad | .ttr => []

/-- The images a copy request uses. -/
def Copy.images (c : Copy) : List Nat :=
  match c.kind with
  | .copy | .transform | .gather | .scatter => [c.imgS, c.imgD]
  | .fill => [c.imgD]
  | .tileLoad | .tileStore | .window | .sparse => [c.imgS]

/-- An operation has captured an image. -/
def State.isCaptured (s : State) (m : Nat) : Bool :=
  s.agents.any (fun (_, a) => a.pend.mq.any (fun e => e.images.contains m)
    || a.pend.ops.any fun o => (o.acc.bind Acc.captured).map (·.1) == some m)
    || s.copies.any fun (_, c) => c.images.contains m

/-- Image `m` under the number `k`, in what has captured it. -/
def Acc.renamed (m k : Nat) : Acc → Acc
  | .tileLd it b i n => .tileLd it b (if i = m then k else i) n
  | .tileSt it b i n d => .tileSt it b (if i = m then k else i) n d
  | .tileWin w b i n => .tileWin w b (if i = m then k else i) n
  | a => a

def MEnt.renamed (m k : Nat) (e : MEnt) : MEnt :=
  let put (i : Nat) : Nat := if i = m then k else i
  { e with imgA := put e.imgA, imgB := put e.imgB, imgC := put e.imgC }

def Agent.renamed (m k : Nat) (a : Agent) : Agent :=
  { a with pend := { a.pend with
    mq := a.pend.mq.map (MEnt.renamed m k)
    ops := a.pend.ops.map fun o => { o with acc := o.acc.map (Acc.renamed m k) } } }

def CobSt.renamed (m k : Nat) (c : CobSt) : CobSt :=
  { c with
    planes := c.planes.map fun p => if p.img = some m then { p with img := some k } else p
    waitOps := c.waitOps.map fun (i, ms) => (i, ms.map fun j => if j = m then k else j) }

/-- An image leaves the table: its entry is FREE and its store area is zeroed (04 R100). What has captured it uses it
under a number outside the table (R103); images kept so that nothing uses any more are forgotten. -/
def State.freeImage (s : State) (m : Nat) : State :=
  let i := s.image m
  let (t, s) := s.newId
  let k := 1024 + t
  let used := s.isCaptured m
  let s := { s with
    mem := memZero s.mem (s.imageStore m) imageStoreSize
    agents := if used then tmap s.agents fun _ a => a.renamed m k else s.agents
    copies := tmap s.copies fun _ c =>
      { c with imgS := if c.imgS = m then k else c.imgS, imgD := if c.imgD = m then k else c.imgD }
    cobs := tmap s.cobs fun _ c => c.renamed m k }
  let s := if used then s.setImage k { i with st := 0, binds := 0 } else s
  let keep := s.x.images.filter fun (n, _) => decide (n < 1024) || s.isCaptured n
  ({ s with x := { s.x with images := keep } } : State).setImage m {}

/-- A binding of an image begins or ends: its BINDS; a RETIRING image without a binding becomes FREE (04 R99, R100). -/
def State.bindImage (s : State) (m : Nat) : State := s.setImage m { s.image m with binds := (s.image m).binds + 1 }

def State.unbindImage (s : State) (m : Nat) : State :=
  let i := s.image m
  let n := i.binds - 1
  if i.st = 2 ∧ n = 0 then s.freeImage m else s.setImage m { i with binds := n }

/-! Releases. -/

/-- The next bind that waits behind a release begins, or the slot rests (04 R102). -/
def nextBind (now : Nat) (m : Nat) : List (Nat × Nat) → SlotB
  | [] => { st := 1, img := m }
  | (k, t) :: ks => { st := 2, img := k, old := some m, since := now, stamp := t, more := ks }

/-- A rebind is released when every cob of its context holds the new image (04 R102 step 4). -/
def State.tryRelease (s : State) (vd ctx n : Nat) : State :=
  let b := s.slot vd ctx n
  if b.st = 2 ∧ b.drained ∧ (s.cobsOf vd ctx).all fun c => (s.cob c).holds b.img then
    let s := match b.old with | some m => s.unbindImage m | none => s
    s.setSlot vd ctx n (nextBind s.now b.img b.more)
  else s

/-- Every rebind of a context examined for its release. -/
def State.tryReleases (s : State) (vd ctx : Nat) : List Nat → State
  | [] => s
  | n :: ns => (s.tryRelease vd ctx n).tryReleases vd ctx ns

/-! Planes. -/

/-- Images pinned on a cob by operations in flight there: started matrix entries, tile accesses, elements of copy requests
(04 R104). -/
def State.pinnedOn (s : State) (cob : Nat) : List Nat :=
  (s.agents.flatMap fun (_, a) =>
    if cobOfCore a.pos.core = cob ∧ !a.pos.out then
      (a.pend.mq.flatMap fun e => if e.array.isSome then e.images else []) ++
        a.pend.ops.filterMap fun o => if o.st.isParked then none else (o.acc.bind Acc.captured).map (·.1)
    else [])
    ++ s.copies.flatMap fun (_, c) => if cobOfCore c.core = cob ∧ !c.saved ∧ c.asking.isSome then c.images else []

/-- A plane is pinned: an operation in flight uses its image, or it is reserved, or being loaded. -/
def State.planePinned (s : State) (cob : Nat) (p : Plane) : Bool :=
  p.loading || p.reserved.isSome || (match p.img with | some m => (s.pinnedOn cob).contains m | none => false)

/-- A BOUND slot of a context on the cob refers to an image. -/
def State.boundOn (s : State) (cob m : Nat) : Bool :=
  s.vds.any fun (v, d) => d.ctxs.any fun (c, x) =>
    (s.cobsOf v c).contains cob && x.slots.any fun (_, b) => b.st == 1 && b.img == m

/-- A plane is free: neither pinned nor resident (04 R104). -/
def State.planeFree (s : State) (cob : Nat) (p : Plane) : Bool :=
  !s.planePinned cob p && (match p.img with | some m => !s.boundOn cob m | none => true)

/-- The index of the plane used longest ago among some. -/
def leastUsed : List (Nat × Plane) → Option Nat
  | [] => none
  | (i, p) :: t =>
    match leastUsed t, t with
    | some j, _ => if (((t.find? fun x => x.1 == j).map fun x => x.2.used).getD 0) < p.used then some j else some i
    | none, _ => some i

/-- A rebind on a cob that goes to image `m` comes from image `o`, to which no other binding on the cob refers
(04 R102 step 3). -/
def State.replaces (s : State) (cob m o : Nat) : Bool :=
  let on (p : SlotB → Bool) : Bool := s.vds.any fun (v, d) => d.ctxs.any fun (c, x) =>
    (s.cobsOf v c).contains cob && x.slots.any fun (_, b) => p b
  on (fun b => b.st == 2 && b.drained && b.img == m && b.old == some o)
    && !on fun b => (b.st == 1 && b.img == o) || (b.st == 2 && !b.drained && b.old == some o)

/-- The plane an image is loaded into: for a rebind that of its old image, where no other binding refers to that
(04 R102); a free one, else the resident one used longest ago (R104). -/
def State.planeFor (s : State) (cob m : Nat) (rebind : Bool) : Option Nat :=
  let ps := (upFrom 0 16).map fun i => (i, (s.cob cob).planes.getD i {})
  let free := ps.filter fun x => s.planeFree cob x.2
  let olds := free.filter fun x => rebind && (match x.2.img with | some o => s.replaces cob m o | none => false)
  match olds ++ free with
  | x :: _ => some x.1
  | [] => leastUsed (ps.filter fun x => !s.planePinned cob x.2)

/-- A rebind whose drain has ended waits for a plane of the cob with an image (04 R102 step 3). -/
def State.bindsOn (s : State) (cob m : Nat) : Bool :=
  s.vds.any fun (v, d) => d.ctxs.any fun (c, x) =>
    (s.cobsOf v c).contains cob && x.slots.any fun (_, b) => b.st == 2 && b.drained && b.img == m

/-- Whether a cob waits for an image no plane of it holds, and the operation its plane is reserved for: the oldest
waiting operation, or none for a rebind whose drain has ended (04 R102, R104). -/
def State.wantsPlane (s : State) (cob m : Nat) : Option (Option Nat) :=
  if (s.cob cob).planes.any fun p => p.img == some m then none
  else
    match (s.cob cob).waitOps with
    | (id, ms) :: _ => if ms.contains m then some (some id) else rebind
    | [] => rebind
where
  rebind : Option (Option Nat) := if s.bindsOn cob m then some none else none

/-- A load of an image into a plane of a cob begins (04 R104, R102 step 3); not when nothing waits for it. -/
def execPlaneLoad (cob image : Nat) (s : State) : Out :=
  match s.wantsPlane cob image with
  | none => .next s
  | some r =>
    match s.planeFor cob image r.isNone with
    | none => .next s
    | some i =>
      let c := s.cob cob
      let p : Plane := { img := some image, used := c.clockUse, loading := true, reserved := r }
      .next (s.setCob cob { c with planes := c.planes.set i p })

/-- Every slot of every context examined for a release. -/
def State.releaseAll (s : State) : State :=
  s.vds.foldl (fun s (v, d) => d.ctxs.foldl (fun s (c, _) => s.tryReleases v c (upFrom 0 16)) s) s

/-- A plane load ends (04 R104). -/
def execPlaneLoadComplete (cob image : Nat) (s : State) : Out :=
  let c := s.cob cob
  if c.planes.any (fun p => p.img == some image && p.loading) then
    let ps := c.planes.map fun p => if p.img = some image then { p with loading := false } else p
    .next ((s.setCob cob { c with planes := ps }).releaseAll.retryHeld)
  else .next s

/-- The drain of a rebind ends once no operation holds the old binding (04 R102); a rebind whose last cob has gone is
released (R105). -/
def execDrainComplete (vd ctx slot : Nat) (s : State) : Out :=
  let b := s.slot vd ctx slot
  if b.st = 2 ∧ (b.drained ∨ !s.slotHeld vd ctx slot) then
    .next ((s.setSlot vd ctx slot { b with drained := true }).tryRelease vd ctx slot)
  else .next s

/-! Saves (04 R105, log 50). -/

/-- Slots of a context that are being rebound. -/
def State.rebinding (s : State) (vd ctx : Nat) : List Nat :=
  (s.ctx vd ctx).slots.filterMap fun (n, b) => if b.st = 2 then some n else none

/-- What a saved agent has captured it keeps, and a rebind no longer waits for it; it waits for what is detached. -/
def Agent.letGo (slots : List Nat) (a : Agent) : Agent :=
  { a with pend := { a.pend with
    mq := a.pend.mq.map fun e => { e with slots := e.slots.filter fun n => !slots.contains n }
    ops := a.pend.ops.map fun o =>
      match o.acc with
      | some (.tileLd it b m k) => if slots.contains k then { o with acc := some (.tileLd it b m 16) } else o
      | some (.tileWin w b m k) => if slots.contains k then { o with acc := some (.tileWin w b m 16) } else o
      | some (.tileSt it b m k d) => if slots.contains k ∧ !o.det then { o with acc := some (.tileSt it b m 16 d) } else o
      | _ => o } }

/-- A rebind whose drain has nothing left to wait for goes on, and with it those behind it. -/
def State.settleSlot (s : State) (vd ctx n : Nat) : Nat → State
  | 0 => s
  | k + 1 =>
    let b := s.slot vd ctx n
    if b.st = 2 ∧ (b.drained ∨ !s.slotHeld vd ctx n) then
      ((s.setSlot vd ctx n { b with drained := true }).tryRelease vd ctx n).settleSlot vd ctx n k
    else s

def State.settleSlots (s : State) (vd ctx : Nat) : List Nat → State
  | [] => s
  | n :: ns => (s.settleSlot vd ctx n ((s.slot vd ctx n).more.length + 1)).settleSlots vd ctx ns

/-- Plane loads on cobs where nothing waits for them any more are abandoned. -/
def State.dropLoads (s : State) : State :=
  { s with cobs := tmap s.cobs fun c x =>
      if x.planes.any (·.loading) then
        { x with planes := x.planes.map fun p =>
            match p.img with
            | some m => if p.loading && !(x.waitOps.any fun w => w.2.contains m) && !s.bindsOn c m then {} else p
            | none => p }
      else x }

/-- A save that strikes a context whose slots are being rebound: what is saved counts as drained, the loads of its cobs
are given up, and the slots are BOUND where nothing else holds them back (04 R105). -/
def State.settleRebinds (s : State) (vd ctx : Nat) : State :=
  let l := s.rebinding vd ctx
  if l.isEmpty then s.dropLoads
  else
    let s := { s with
      agents := tmap s.agents fun _ a => if a.id.vd = vd ∧ a.id.ctx = ctx ∧ a.pos.out then a.letGo l else a
      copies := tmap s.copies fun _ c =>
        if c.vd = vd ∧ c.ctx = ctx ∧ c.saved ∧ !c.det then { c with slots := c.slots.filter fun n => !l.contains n } else c }
    (s.settleSlots vd ctx l).dropLoads

/-! Failures. -/

/-- A queued or running entry fails with cause 0x0E (04 R103, 15 R429); it leaves its buffers as they are. -/
def Agent.failEntry (a : Agent) (e : MEnt) (cause addr : Nat) : Agent :=
  let f : Fail := ⟨e.id, true, { cause, pc := e.pc, addr := BitVec.ofNat 64 addr, iword := e.iword }⟩
  { a with
    pend := { a.pend with mq := a.pend.mq.filter fun x => x.id != e.id }
    flt := { a.flt with fails := a.flt.fails ++ [f] } }

/-! The instructions. -/

/-- The format manager's checks (04 R101); where a key identity is listed more than once its first entry counts, the
Fjarrun key before all (log 62). -/
def State.bindResult (s : State) (vd m : Nat) : Nat :=
  let i := s.image m
  if 1024 ≤ m ∨ i.st ≠ 1 then 1
  else
    match (s.vd vd).keys.find? fun k => k.1 == i.keyid with
    | none => 2
    | some k => if i.leaf < k.2 then 3 else 0

/-- An accepted bind of a slot (04 R102): none to the image it already has or is on its way to. -/
def State.bindSlot (s : State) (vd ctx n m : Nat) : State :=
  let b := s.slot vd ctx n
  if b.st = 2 then
    if ((b.more.getLast?).map (·.1)).getD b.img = m then s
    else
      let (t, s) := (s.bindImage m).newId
      s.setSlot vd ctx n { b with more := b.more ++ [(m, t)] }
  else if b.st = 1 ∧ b.img = m then s
  else
    let (t, s) := (s.bindImage m).newId
    s.setSlot vd ctx n { st := 2, img := m, old := if b.st = 1 then some b.img else none, since := s.now, stamp := t }

/-- `fmtbind` (15 R442). -/
def execFmtbind (h : Hdr) (slot : Fin 16) (a : Src) (d : Dst) (s : State) : Out :=
  issue .both false h (fun x => x.pushOff (some ⟨a, 32, .int⟩) d 1)
    (fun s i x =>
      onRd s x (x.src ⟨a, 32, .int⟩) fun m => onRd s x (x.dstReady d 1) fun _ =>
        let r := s.bindResult x.id.vd m
        let s := if r = 0 then s.bindSlot x.id.vd x.id.ctx slot.val m else s
        .done (s.setAgent i (x.putResult d 1 r))) s

/-- The word of `fmtq` (15 R443). -/
def fmtqWord (s : State) (a : Agent) (n : Nat) : Nat :=
  let b := s.slot a.id.vd a.id.ctx n
  let i := s.image b.img
  if b.st = 0 then 0
  else b.img + b.st * 2 ^ 16 + i.cls * 2 ^ 18 + i.fmt.w * 2 ^ 24 + i.fmt.kind * 2 ^ 30

/-- `fmtq` (15 R443). -/
def execFmtq (h : Hdr) (slot : Fin 16) (d : Dst) (s : State) : Out :=
  issue .both false h (fun x => x.pushOff none d 1)
    (fun s i x => onRd s x (x.dstReady d 1) fun _ => .done (s.setAgent i (x.putResult d 1 (fmtqWord s x slot.val)))) s

/-- Rebinds of a context accepted before a stamp and not yet released (15 R444). -/
def State.rebindsBefore (s : State) (vd ctx t : Nat) : Bool :=
  (s.ctx vd ctx).slots.any fun (_, b) => b.st == 2 && (decide (b.stamp < t) || b.more.any fun k => decide (k.2 < t))

/-- `fmtfence` (15 R444). -/
def fmtfenceFx (s : State) (i : Nat) (a : Agent) : Fx :=
  let t := a.pend.fence.getD s.run.nextId
  if s.rebindsBefore a.id.vd a.id.ctx t then
    .keep (s.setAgent i { a with pend := { a.pend with fence := some t } })
  else .done (s.setAgent i { a with pend := { a.pend with fence := none } })

def execFmtfence (h : Hdr) (s : State) : Out := issue .both false h offNone fmtfenceFx s

end Sys2Proof.Machine
end

