-- ==== Sys2Proof/Machine/MemoryInstr.lean ====
section
/-!
DEFINITION. Loads, stores, elements, prefetch, atomics and counters (14 R374 to R394).
-/
namespace Sys2Proof.Machine

/-! The checks at issue. -/

/-- The checks of 14 R375 that fault at issue: the scope where the instruction examines it, alignment, the window. -/
def State.issueChecks (s : State) (a : Agent) (sk : Option Nat) (align : Bool) (va n : Nat) : Rd Unit :=
  (match sk with | some k => s.scopeCheck a k | none => .ok ()).andThen fun _ =>
    if align && decide (va % n ≠ 0) then .fault 0x0A va
    else if inWindow va then (match s.windowFault a va n with | some c => .fault c va | none => .ok ())
    else .ok ()

/-- The site check of an atomic on a remote page (09 R245). -/
def State.siteFault (s : State) (a : Agent) (sk va : Nat) : Bool :=
  !inWindow va && (match s.walk a.id.vd a.id.ctx va .w with | .ok p => p.rmt.isSome | .fail _ _ => false)
    && s.siteOf a.id.vd a.id.ctx sk != 3

/-- A plain access: it waits at issue behind an earlier one that has not performed (log 22). -/
def plainFx (s : State) (a : Agent) (k : Fx) : Fx := if a.memHeld then .keep s else k

/-- An instruction a thread with a parked access does not issue: a point of 07 R162 (R164). -/
def orderedFx (s : State) (a : Agent) (k : Fx) : Fx := if a.hasParked then .point s else plainFx s a k

/-- An access or an ordered access. -/
def accessFx (ordered : Bool) (s : State) (a : Agent) (k : Fx) : Fx :=
  if ordered then orderedFx s a k else plainFx s a k

/-- The scope an access examines: only with an ordering other than rlx (14 R376). -/
def examined (ordered : Bool) (sk : BitVec 6) : Option Nat := if ordered then some sk.toNat else none

/-- An address operand (14 R374). -/
def addrOp (a : Src) : Opnd := ⟨a, 64, .int⟩

/-- The address of an M-format access: the offset counts units of `n` (14 R378). -/
def mAddr (base n : Nat) (ofs : BitVec 12) : Nat := truncInt ((base : Int) + ofs.toInt * n) 64

/-! Loads and stores (14 R378 to R381). -/

/-- Sizes b8 to b128 with sign extension. -/
def ldSext : LdSize → Bool
  | .s8 | .s16 => true
  | .b8 | .b16 | .b32 | .b64 | .b128 => false

def ldFx (sz : LdSize) (ofs : BitVec 12) (sk : BitVec 6) (acq : Bool) (x : Src) (d : Dst) (s : State) (i : Nat)
    (a : Agent) : Fx :=
  let n := sz.bytes
  let k := sz.width / 32
  onRd s a (a.src (addrOp x)) fun b => onRd s a (a.dstReady d k) fun _ =>
    let va := mAddr b n ofs
    onRd s a (s.issueChecks a (examined acq sk) true va n) fun _ =>
      plainFx s a (.done (s.startOp i a (.load va n (ldSext sz)) k d false acq (examined acq sk)))

def execLd (h : Hdr) (sz : LdSize) (ofs : BitVec 12) (sk : BitVec 6) (acq : Bool) (a : Src) (d : Dst) (s : State) :
    Out :=
  issue .both false h (fun x => x.pushOff (some (addrOp a)) d (sz.width / 32)) (ldFx sz ofs sk acq a d) s

def stFx (sz : StSize) (ofs : BitVec 12) (sk : BitVec 6) (rel : Bool) (x y : Src) (s : State) (i : Nat) (a : Agent) :
    Fx :=
  let n := sz.bytes
  onRd s a (a.srcs [addrOp x, ⟨y, sz.width, .int⟩]) fun xs =>
    let va := mAddr (xs.getD 0 0) n ofs
    onRd s a (s.issueChecks a (examined rel sk) true va n) fun _ =>
      accessFx rel s a
        (.done (s.startOp i a (.store va (bytesOf (xs.getD 1 0) n) rel) 0 .nil false false (examined rel sk)))

def execSt (h : Hdr) (sz : StSize) (ofs : BitVec 12) (sk : BitVec 6) (rel : Bool) (a b : Src) (s : State) : Out :=
  issue .both false h offNone (stFx sz ofs sk rel a b) s

/-! Packed elements (14 R382 to R384). -/

def ldxFx (slot : Nat) (ofs : BitVec 12) (sk : BitVec 6) (acq : Bool) (x : Src) (d : Dst) (s : State) (i : Nat)
    (a : Agent) : Fx :=
  onRd s a (s.capture a slot) fun img => onRd s a (a.src (addrOp x)) fun b0 => onRd s a (a.dstReady d 1) fun _ =>
    let w := (s.image img).fmt.w
    let b := mAddr b0 w ofs
    onRd s a (s.issueChecks a (examined acq sk) false (b / 8) (elemBytes b w)) fun _ =>
      plainFx s a (.done (s.startOp i a (.elemLd b w) 1 d false acq (examined acq sk)))

def execLdx (h : Hdr) (slot : Fin 16) (ofs : BitVec 12) (sk : BitVec 6) (acq : Bool) (a : Src) (d : Dst) (s : State) :
    Out :=
  issue .thread false h (fun x => x.pushOff (some (addrOp a)) d 1) (ldxFx slot.val ofs sk acq a d) s

def stxFx (slot : Nat) (ofs : BitVec 12) (sk : BitVec 6) (rel : Bool) (x y : Src) (s : State) (i : Nat) (a : Agent) :
    Fx :=
  onRd s a (s.capture a slot) fun img => onRd s a (a.srcs [addrOp x, ⟨y, 32, .int⟩]) fun xs =>
    let w := (s.image img).fmt.w
    let b := mAddr (xs.getD 0 0) w ofs
    onRd s a (s.issueChecks a (examined rel sk) false (b / 8) (elemBytes b w)) fun _ =>
      accessFx rel s a
        (.done (s.startOp i a (.elemSt b w (xs.getD 1 0 % 2 ^ w) rel) 0 .nil false false (examined rel sk)))

def execStx (h : Hdr) (slot : Fin 16) (ofs : BitVec 12) (sk : BitVec 6) (rel : Bool) (a b : Src) (s : State) : Out :=
  issue .thread false h offNone (stxFx slot.val ofs sk rel a b) s

/-! Prefetch (14 R385). -/

/-- An operand of an instruction that raises no fault of its own: one that cannot be read makes it do nothing. -/
def onQuiet {α : Type} (s : State) (r : Rd α) (k : α → Fx) : Fx :=
  match r with
  | .ok x => k x
  | .fault _ _ => .done s
  | .wait => .keep s

/-- `pref`: the line is asked for like any other, so its traffic counts at the regulators and may wait there, and nothing
else of it can be seen. -/
def prefFx (sz : LdSize) (ofs : BitVec 12) (x : Src) (s : State) (i : Nat) (a : Agent) : Fx :=
  onQuiet s (a.src (addrOp x)) fun b =>
    let line := mAddr b sz.bytes ofs / 128 * 128
    if inWindow line then .done s
    else .done (s.startOp i a (.pref line) 0 .nil false false none)

def execPref (h : Hdr) (sz : LdSize) (ofs : BitVec 12) (_sk : BitVec 6) (a : Src) (s : State) : Out :=
  issue .both false h offNone (prefFx sz ofs a) s

/-! Atomics (14 R386 to R390). -/

/-- How the operands of an atomic are read (11 R287). -/
def atomAs : AtomOp → As
  | .arith _ _ | .bitop _ _ | .cas _ _ => .int
  | .fadd .f32 => .f32
  | .fadd .f16x2 => .f16x2
  | .fadd .bf16x2 => .bf16x2

/-- The operands of an atomic: address, value and, for cas, the compare value. -/
def atomOps (f : AtomOp) (x y : Src) : List Opnd :=
  [addrOp x, ⟨y, f.width, atomAs f⟩] ++
    (match f with
     | .cas ty c => [⟨c, ty.width, .int⟩]
     | .arith _ _ | .bitop _ _ | .fadd _ => [])

/-- An update at the site of its scope, with `k` words of the old value returned. -/
def updateFx (acc : Acc) (n va k : Nat) (d : Dst) (sk : BitVec 6) (acq : Bool) (s : State) (i : Nat) (a : Agent) : Fx :=
  onRd s a (s.issueChecks a (some sk.toNat) true va n) fun _ =>
    if s.siteFault a sk.toNat va then .fault (faultAt s a 0x0C va)
    else orderedFx s a (.done (s.startOp i a acc k d true acq (some sk.toNat)))

def execAtom (h : Hdr) (f : AtomOp) (sk : BitVec 6) (od : MemOrd) (a b : Src) (d : Dst) (s : State) : Out :=
  let k := f.width / 32
  let acq := match od with | .acq | .ar => true | .rlx | .rel => false
  let rel := match od with | .rel | .ar => true | .rlx | .acq => false
  issue .both false h (fun x => x.pushOff (some (addrOp a)) d k)
    (fun s i x => onRd s x (x.srcs (atomOps f a b)) fun xs => onRd s x (x.dstReady d k) fun _ =>
      let va := xs.getD 0 0
      updateFx (.rmw f va (xs.getD 1 0) (xs.getD 2 0) rel) (f.width / 8) va k d sk acq s i x) s

def execRed (h : Hdr) (f : AtomOp) (sk : BitVec 6) (rel : Bool) (a b : Src) (s : State) : Out :=
  issue .both false h offNone
    (fun s i x => onRd s x (x.srcs (atomOps f a b)) fun xs =>
      let va := xs.getD 0 0
      updateFx (.rmw f va (xs.getD 1 0) (xs.getD 2 0) rel) (f.width / 8) va 0 .nil sk false s i x) s

/-! Counters (14 R391 to R394). -/

def execCtadd (h : Hdr) (sk : BitVec 6) (rel : Bool) (a b : Src) (s : State) : Out :=
  issue .both false h offNone
    (fun s i x => onRd s x (x.srcs [addrOp a, ⟨b, 64, .int⟩]) fun xs =>
      let va := xs.getD 0 0
      updateFx (.ctadd va (xs.getD 1 0) rel) 8 va 0 .nil sk false s i x) s

def execCtrd (h : Hdr) (sk : BitVec 6) (acq : Bool) (a : Src) (d : Dst) (s : State) : Out :=
  issue .both false h (fun x => x.pushOff (some (addrOp a)) d 2)
    (fun s i x => onRd s x (x.src (addrOp a)) fun va => onRd s x (x.dstReady d 2) fun _ =>
      onRd s x (s.issueChecks x (some sk.toNat) true va 8) fun _ =>
        plainFx s x (.done (s.startOp i x (.ctrd va) 2 d true acq (some sk.toNat)))) s

/-- The end of a satisfied wait: its acquire, denied with a cause or granted (0), then its value (09 R235, 14 R392). -/
def ctSatisfied (v sk denied : Nat) (d : Dst) (s : State) (i : Nat) (a : Agent) : Fx :=
  if denied = 0 then .done (s.setAgent i ({ a with pend := { a.pend with ct := none } }.putResult d 2 v))
  else .fault (faultAt s a denied sk)

/-- The counter read and the wait armed in one step (09 R248). -/
def ctArm (va thr sk : Nat) (limit : Option Nat) (d : Dst) (s : State) (i : Nat) (a : Agent) : Fx :=
  match ownDead (s.ownsOf i) va 8 false, s.touch a s.run.nextId va 8 .r with
  | some c, _ => .fault (faultAt s a c va)
  | none, (.remote _, s) => .fault (faultAt s a 0x0C va)
  | none, (.fail c ad, s) => .fault (faultAt s a c ad)
  | none, (.park ad, s) => .fault (faultAt s a 0x0B ad true)
  | none, (.hold st, s) => .keep (s.setOwns i (s.ownWait (s.ownsOf i) va 8 false st))
  | none, (.ok locs, s) =>
    let v := ofBytes (s.readChunks locs)
    if thr ≤ v then ctSatisfied v sk (s.scopeDenies a sk) d s i a
    else if limit = some 0 then .fault (faultAt s a 0x17 va)
    else
      let l := (locs.head?.map (·.1)).getD (.mem 0)
      .keep (s.setAgent i { a.ownOver with pend := { a.ownOver.pend with
        ct := some { loc := l, va, thr, sk, since := s.now, limit, hit := none } } })

/-- `ctwait` (14 R392, R393). -/
def ctwaitFx (sk : BitVec 6) (tm : Option Src) (x y : Src) (d : Dst) (s : State) (i : Nat) (a : Agent) : Fx :=
  match a.pend.ct with
  | some c =>
    (match c.hit with
     | some v => ctSatisfied v c.sk c.denied d s i a
     | none => .keep s)
  | none =>
    onRd s a (a.srcs ([addrOp x, ⟨y, 64, .int⟩] ++ (tm.map fun t => ⟨t, 32, .int⟩).toList)) fun xs =>
      onRd s a (a.dstReady d 2) fun _ =>
        let va := xs.getD 0 0
        onRd s a (s.issueChecks a (some sk.toNat) true va 8) fun _ =>
          orderedFx s a (ctArm va (xs.getD 1 0) sk.toNat (tm.map fun _ => xs.getD 2 0) d s i a)

def execCtwait (h : Hdr) (sk : BitVec 6) (tm : Option Src) (a b : Src) (d : Dst) (s : State) : Out :=
  issue .both false h (fun x => x.pushOff (some (addrOp a)) d 2) (ctwaitFx sk tm a b d) s

/-- The timeout of an armed wait has passed: the agent's next instruction is the `ctwait`, which faults (14 R392). -/
def execCtwaitTimeout (agent : Nat) (s : State) : Out :=
  match tget s.agents agent with
  | none => .next s
  | some a =>
    match a.pend.ct with
    | none => .next s
    | some c =>
      if a.pos.out || c.hit.isSome || !c.expired s.now then .next s
      else
        let (w, s) := s.nextWord agent a
        .next (s.raise agent
          { cause := 0x17, pc := a.curPc, resume := some a.curPc, addr := BitVec.ofNat 64 c.va, iword := w })

/-! Fences (14 R398). -/

/-- The members of a scope lie on more than one die. -/
def State.spansDies (s : State) (a : Agent) (k : Nat) : Bool :=
  if k < 6 then decide (4 ≤ k) else !allSame dieOfCore (s.scope a.id.vd a.id.ctx k).members

def fenceFx (kind : FenceKind) (sk : Nat) (s : State) (_ : Nat) (a : Agent) : Fx :=
  onRd s a (s.scopeCheck a sk) fun _ =>
    orderedFx s a
      (if kind = .sc ∧ s.spansDies a sk then .done { s with pkg := { s.pkg with hubSeq := s.pkg.hubSeq + 1 } }
       else .done s)

def execFence (h : Hdr) (kind : FenceKind) (sk : BitVec 6) (s : State) : Out :=
  issue .both false h offNone (fenceFx kind sk.toNat) s

/-! Code ranges and lines (14 R402, R403). -/

/-- The address and byte count of a range. -/
def rangeOps (a b : Src) : List Opnd := [addrOp a, ⟨b, 32, .int⟩]

/-- The lines that overlap `c` bytes from an address. -/
def linesOf (va c : Nat) : List Nat := if c = 0 then [] else upFrom (va / 128) ((va + c - 1) / 128 - va / 128 + 1)

/-- The address `x` lies in a line of the range. -/
def inLines (va c x : Nat) : Bool :=
  decide (c ≠ 0) && decide (va / 128 ≤ x / 128) && decide (x / 128 ≤ (va + c - 1) / 128)

/-- `icinv`: once the agent's earlier accesses have performed, parked ones after their replay, the range leaves the
instruction cache of every member core, pinned lines included (09 R256, R257, log 22). -/
def icinvFx (sk : Nat) (x y : Src) (s : State) (_ : Nat) (a : Agent) : Fx :=
  onRd s a (a.srcs (rangeOps x y)) fun xs =>
    onRd s a (s.scopeCheck a sk) fun _ =>
      let keep (l : ILine) : Bool :=
        !(l.vd == a.id.vd && l.ctx == a.id.ctx && inLines (xs.getD 0 0) (xs.getD 1 0) l.va)
      orderedFx s a (.done { s with
        cores := tmap s.cores fun n c =>
          if s.member a.id.vd a.id.ctx sk a.issuer n then { c with icache := c.icache.filter keep } else c })

def execIcinv (h : Hdr) (sk : BitVec 6) (a b : Src) (s : State) : Out :=
  issue .both false h offNone (icinvFx sk.toNat a b) s

/-- An instruction that affects timing only: its operands are read, nothing of it can be seen (09 R257). -/
def timingFx (x y : Src) (k : State → Agent → Nat → Nat → State) (s : State) (_ : Nat) (a : Agent) : Fx :=
  onQuiet s (a.srcs (rangeOps x y)) fun xs => .done (k s a (xs.getD 0 0) (xs.getD 1 0))

/-- The place of a line of a context, where it translates to memory here for an access. -/
def State.lineAt (s : State) (a : Agent) (acs : Acs) (l : Nat) : Option Nat :=
  match s.walk a.id.vd a.id.ctx (128 * l) acs with
  | .ok p => if p.rmt.isSome ∨ (s.physFail a.id.vd p.pa 128).isSome then none else some p.pa
  | .fail _ _ => none

/-- A line of code brought to the instruction cache of the agent's core, through the slice of its home; words that are
there stay as they are. -/
def State.bringLine (s : State) (a : Agent) (l : Nat) : State :=
  match s.lineAt a .x l with
  | none => s
  | some pa =>
    (upFrom 0 16).foldl (fun s j =>
      if (s.icGet a.pos.core a.id.vd a.id.ctx (128 * l + 8 * j)).isSome then s
      else s.icPut a.pos.core a.id.vd a.id.ctx (128 * l + 8 * j) (s.getBytes (.mem (pa + 8 * j)) 8))
      (s.passMem a.id.vd true pa 128 false)

/-- The lines of a range brought to a level: of those the instruction cache has room for, 64 KiB; what the L2 of a die
holds is no state (log 58). -/
def State.bringRange (s : State) (l1 : Bool) (a : Agent) (va c : Nat) : State :=
  if l1 then s else ((linesOf va c).take 512).foldl (fun s l => s.bringLine a l) s

def execIpref (h : Hdr) (l1 : Bool) (a b : Src) (s : State) : Out :=
  issue .both false h offNone (timingFx a b fun s x va c => s.bringRange l1 x va c) s

/-- `cwb`: at level 1 the lines of the range that the memory-side cache holds dirty go to their tier and stay valid; the L2
caches of level 0 are no state (log 58). -/
def State.cleanRange (s : State) (l1 : Bool) (a : Agent) (va c : Nat) : State :=
  if !l1 then s
  else
    let ls := (linesOf va c).filterMap fun l => (s.lineAt a .r l).map (· / 128)
    { s with sideCache := s.sideCache.map fun x => if ls.contains x.line then { x with dirty := false } else x }

def execCwb (h : Hdr) (l1 : Bool) (a b : Src) (s : State) : Out :=
  issue .both false h offNone (timingFx a b fun s x va c => s.cleanRange l1 x va c) s

/-- Lines pinned up to a limit; those whose address does not translate are skipped (14 R402, R403). -/
def pinLines (p : Nat → Pin) (ok : Nat → Bool) (limit : Nat) : List Nat → List Pin → List Pin
  | [], ps => ps
  | l :: ls, ps =>
    pinLines p ok limit ls (if ok l && !ps.contains (p l) && decide (ps.length < limit) then ps ++ [p l] else ps)

def State.pinRange (s : State) (l1 : Bool) (a : Agent) (va c : Nat) : State :=
  let core := a.pos.core
  let d := dieOfCore core
  let p (l : Nat) : Pin := ⟨l1, a.id.vd, a.id.ctx, 128 * l, (s.grid a.id.grid).obj⟩
  let ok (l : Nat) : Bool := match s.walk a.id.vd a.id.ctx (128 * l) .x with | .ok _ => true | .fail _ _ => false
  if l1 then s.setDie d { s.die d with l2pins := pinLines p ok 131072 (linesOf va c) (s.die d).l2pins }
  else s.setCore core { s.core core with pins := pinLines p ok 256 (linesOf va c) (s.core core).pins }

def execIpin (h : Hdr) (l1 : Bool) (a b : Src) (s : State) : Out :=
  issue .both false h offNone (timingFx a b fun s x va c => (s.bringRange l1 x va c).pinRange l1 x va c) s

def State.unpinRange (s : State) (l1 : Bool) (a : Agent) (va c : Nat) : State :=
  let core := a.pos.core
  let d := dieOfCore core
  let keep (p : Pin) : Bool := !(p.vd == a.id.vd && p.ctx == a.id.ctx && inLines va c p.va)
  if l1 then s.setDie d { s.die d with l2pins := (s.die d).l2pins.filter keep }
  else s.setCore core { s.core core with pins := (s.core core).pins.filter keep }

def execIrel (h : Hdr) (l1 : Bool) (a b : Src) (s : State) : Out :=
  issue .both false h offNone (timingFx a b fun s x va c => s.unpinRange l1 x va c) s

end Sys2Proof.Machine
end

