-- ==== Sys2Proof/Machine/Barrier.lean ====
section
/-!
DEFINITION. Barrier objects (09 R250 to R252, 14 R395 to R397).
-/
namespace Sys2Proof.Machine

/-- A barrier object (09 R250). -/
structure BarObj where
  phase : Nat
  expected : Nat
  arrived : Nat
  res1 : Nat
  pending : Nat
  res2 : Nat
  deriving DecidableEq, Repr

/-- The object from its 16 bytes as a number. -/
def barOf (x : Nat) : BarObj := ⟨bits x 0 64, bits x 64 12, bits x 76 12, bits x 88 8, bits x 96 28, bits x 124 4⟩

def barNat (b : BarObj) : Nat :=
  b.phase + b.expected * 2 ^ 64 + b.arrived * 2 ^ 76 + b.res1 * 2 ^ 88 + b.pending * 2 ^ 96 + b.res2 * 2 ^ 124

/-- The advance check (09 R251). -/
def barAdvance (b : BarObj) : BarObj :=
  if b.arrived = b.expected ∧ b.pending = 0 then { b with phase := min (b.phase + 1) (2 ^ 64 - 1), arrived := 0 } else b

/-- `k` arrivals (0 or 1) and `n` expected bytes, then the advance check; `none` past a limit. -/
def barArrive (b : BarObj) (k n : Nat) : Option BarObj :=
  if b.expected < b.arrived + k ∧ 0 < k ∨ 2 ^ 28 ≤ b.pending + n then none
  else some (barAdvance { b with arrived := b.arrived + k, pending := b.pending + n })

/-- A count-down of `n` bytes (09 R251). -/
def barCount (b : BarObj) (n : Nat) : Option BarObj :=
  if b.pending < n then none else some (barAdvance { b with pending := b.pending - n })

/-- `bar.init` (14 R396). -/
def barInit (b : BarObj) (v : Nat) : Option BarObj :=
  if 4095 < v then none else some { b with expected := v, arrived := 0, pending := 0 }

def State.barAt (s : State) (core off : Nat) : BarObj := barOf (s.getNat (.scr core off) 16)
def State.putBar (s : State) (core off : Nat) (b : BarObj) : State := s.write (.scr core off) (bytesOf (barNat b) 16)

/-- One `bar`: its address checked, then one indivisible update at the core's banks. -/
def barFx (sk : Option Nat) (va : Nat) (f : BarObj → Option BarObj) (d : Dst) (s : State) (i : Nat) (a : Agent) : Fx :=
  onRd s a (s.issueChecks a sk true va 16) fun _ =>
    if !inWindow va then .fault (faultAt s a 0x0C va)
    else
      orderedFx s a
        (let core := a.pos.core
         let off := va % 2 ^ 40
         let b := s.barAt core off
         match f b with
         | none => .fault (faultAt s a 0x1A va)
         | some b' =>
           let s := if b' = b then s else s.putBar core off b'
           .done (s.setAgent i (((tget s.agents i).getD a).putResult d 2 b.phase)))

def execBarInit (h : Hdr) (a b : Src) (s : State) : Out :=
  issue .both false h offNone
    (fun s i x => onRd s x (x.srcs [addrOp a, ⟨b, 32, .int⟩]) fun xs =>
      barFx none (xs.getD 0 0) (fun o => barInit o (xs.getD 1 0)) .nil s i x) s

def execBarExpect (h : Hdr) (a b : Src) (s : State) : Out :=
  issue .both false h offNone
    (fun s i x => onRd s x (x.srcs [addrOp a, ⟨b, 32, .int⟩]) fun xs =>
      barFx none (xs.getD 0 0) (fun o => barArrive o 0 (xs.getD 1 0)) .nil s i x) s

def execBarArrive (h : Hdr) (sk : BitVec 6) (a : Src) (d : Dst) (s : State) : Out :=
  issue .both false h (fun x => x.pushOff (some (addrOp a)) d 2)
    (fun s i x => onRd s x (x.src (addrOp a)) fun va => onRd s x (x.dstReady d 2) fun _ =>
      barFx (some sk.toNat) va (fun o => barArrive o 1 0) d s i x) s

def execBarArrivex (h : Hdr) (sk : BitVec 6) (a b : Src) (d : Dst) (s : State) : Out :=
  issue .both false h (fun x => x.pushOff (some (addrOp a)) d 2)
    (fun s i x => onRd s x (x.srcs [addrOp a, ⟨b, 32, .int⟩]) fun xs => onRd s x (x.dstReady d 2) fun _ =>
      barFx (some sk.toNat) (xs.getD 0 0) (fun o => barArrive o 1 (xs.getD 1 0)) d s i x) s

def execBarPhase (h : Hdr) (a : Src) (d : Dst) (s : State) : Out :=
  issue .both false h (fun x => x.pushOff (some (addrOp a)) d 2)
    (fun s i x => onRd s x (x.src (addrOp a)) fun va => onRd s x (x.dstReady d 2) fun _ =>
      barFx none va (fun o => some o) d s i x) s

end Sys2Proof.Machine
end

