-- ==== Sys2Proof/Machine/Fabric.lean ====
section
/-!
DEFINITION. The fabric of dies: the links of a die and their ends, the routing tables of the Husks, the path of a request
(01 R10, R12).
-/
namespace Sys2Proof.Machine

/-- The die at the other end of link 0 to 3 of compute die `d`; 12 is the X-die (01 R12). -/
def linkEnd (d l : Nat) : Nat :=
  match l with
  | 0 => (d + 1) % 12
  | 1 => (d + 11) % 12
  | 2 => 12
  | _ => (d + 6) % 12

/-- A die is in the package: the X-die always, a compute die unless it is excluded (01 R33). -/
def State.included (s : State) (d : Nat) : Bool := d == 12 || (decide (d < 12) && !bitAt s.pkg.exDies d)

/-- Trained links of a die with their ends, in the order in which ties fall: link 2 first (01 R12, R33). The hub's link
toward die `d` has the number `d`. -/
def State.links (s : State) (d : Nat) : List (Nat × Nat) :=
  if !s.included d then []
  else if d = 12 then (upFrom 0 12).filterMap fun t => if s.included t then some (t, t) else none
  else [2, 0, 1, 3].filterMap fun l => if s.included (linkEnd d l) then some (l, linkEnd d l) else none

/-- One more step of the distances of all dies from one; 13 is none. -/
def State.farther (s : State) (t : Nat) (ds : List Nat) : List Nat :=
  (upFrom 0 13).map fun d => if d = t then 0 else (s.links d).foldl (fun n (_, e) => min n (ds.getD e 13 + 1)) 13

/-- Distances, in links, of all dies from die `t` along trained links. -/
def State.distances (s : State) (t : Nat) : Nat → List Nat
  | 0 => (upFrom 0 13).map fun d => if d = t then 0 else 13
  | n + 1 => s.farther t (s.distances t n)

/-- The link by which die `d` sends toward die `t`: the first of a shortest trained path, link 2 on a tie (01 R12). -/
def State.linkToward (s : State) (ds : List Nat) (d : Nat) : Nat :=
  match (s.links d).find? fun (_, e) => ds.getD e 13 + 1 == ds.getD d 13 with
  | some (l, _) => l
  | none => 13

/-- The routing tables firmware writes into the Husks: for each die its link toward each die (01 R12). -/
def State.routeTables (s : State) : List (List Nat) :=
  let ds := (upFrom 0 13).map fun t => s.distances t 12
  (upFrom 0 13).map fun d => (upFrom 0 13).map fun t => s.linkToward (ds.getD t []) d

/-- The dies a request from die `d` to die `t` passes, by the routing tables; `fuel` links at most. -/
def State.path (s : State) (t : Nat) : Nat → Nat → List Nat
  | 0, d => [d]
  | n + 1, d =>
    if d = t then [d]
    else
      let l := (s.pkg.routes.getD d []).getD t 13
      if 12 < l then [d] else d :: s.path t n (if d = 12 then l else linkEnd d l)

/-- A request from die `d` finds its way to die `t`. -/
def State.reaches (s : State) (d t : Nat) : Bool := (s.path t 12 d).getLast? == some t

end Sys2Proof.Machine
end

