-- ==== Sys2Proof/Machine/Integer.lean ====
section
/-!
DEFINITION. Integer, logic, address, comparison and move instructions (12 R310 to R325), and `nop` (11 R292).
-/
namespace Sys2Proof.Machine

/-- One result from one source of the same width. -/
def issue1 (c : Cls) (h : Hdr) (o : Opnd) (d : Dst) (w : Nat) (f : Nat → Nat) (s : State) : Out :=
  issueResult c h [o] d w (fun xs => f (xs.getD 0 0)) s

/-- One result from two sources. -/
def issue2 (c : Cls) (h : Hdr) (o p : Opnd) (d : Dst) (w : Nat) (f : Nat → Nat → Nat) (s : State) : Out :=
  issueResult c h [o, p] d w (fun xs => f (xs.getD 0 0) (xs.getD 1 0)) s

/-- One result from three sources. -/
def issue3 (c : Cls) (h : Hdr) (o p q : Opnd) (d : Dst) (w : Nat) (f : Nat → Nat → Nat → Nat) (s : State) : Out :=
  issueResult c h [o, p, q] d w (fun xs => f (xs.getD 0 0) (xs.getD 1 0) (xs.getD 2 0)) s

/-- `nop` (11 R292). -/
def execNop (h : Hdr) (s : State) : Out := issue .both false h offNone (fun s _ _ => .done s) s

/-! The integer family (12 R311 to R313). -/

/-- The exact value clamped by `.sat`, or wrapped (12 R312). -/
def intResult (ty : IntTy) (sat : Bool) (t : Int) : Nat :=
  let sgn := match ty with | .i32 | .i64 => true | .n32 | .n64 => false
  truncInt (if sat then clampInt ty.width sgn t else t) ty.width

def execIadd (h : Hdr) (ty : IntTy) (sat : Bool) (a b : Src) (d : Dst) (s : State) : Out :=
  issue2 .both h ⟨a, ty.width, .int⟩ ⟨b, ty.width, .int⟩ d ty.width
    (fun x y => intResult ty sat (valOf ty x + valOf ty y)) s

def execIsub (h : Hdr) (ty : IntTy) (sat : Bool) (a b : Src) (d : Dst) (s : State) : Out :=
  issue2 .both h ⟨a, ty.width, .int⟩ ⟨b, ty.width, .int⟩ d ty.width
    (fun x y => intResult ty sat (valOf ty x - valOf ty y)) s

def execImul (h : Hdr) (ty : IntTy) (sat : Bool) (a b : Src) (d : Dst) (s : State) : Out :=
  issue2 .both h ⟨a, ty.width, .int⟩ ⟨b, ty.width, .int⟩ d ty.width
    (fun x y => intResult ty sat (valOf ty x * valOf ty y)) s

/-- The upper half of the exact product (12 R312). -/
def execImulhi (h : Hdr) (ty : IntTy) (a b : Src) (d : Dst) (s : State) : Out :=
  issue2 .both h ⟨a, ty.width, .int⟩ ⟨b, ty.width, .int⟩ d ty.width
    (fun x y => intResult ty false ((valOf ty x * valOf ty y).fdiv (2 ^ ty.width))) s

def execImad (h : Hdr) (ty : IntTy) (sat : Bool) (a b c : Src) (d : Dst) (s : State) : Out :=
  issue3 .both h ⟨a, ty.width, .int⟩ ⟨b, ty.width, .int⟩ ⟨c, ty.width, .int⟩ d ty.width
    (fun x y z => intResult ty sat (valOf ty x * valOf ty y + valOf ty z)) s

def execImin (h : Hdr) (ty : IntTy) (a b : Src) (d : Dst) (s : State) : Out :=
  issue2 .both h ⟨a, ty.width, .int⟩ ⟨b, ty.width, .int⟩ d ty.width
    (fun x y => intResult ty false (min (valOf ty x) (valOf ty y))) s

def execImax (h : Hdr) (ty : IntTy) (a b : Src) (d : Dst) (s : State) : Out :=
  issue2 .both h ⟨a, ty.width, .int⟩ ⟨b, ty.width, .int⟩ d ty.width
    (fun x y => intResult ty false (max (valOf ty x) (valOf ty y))) s

/-- The integer type of `iabs`. -/
def sintTy : SIntTy → IntTy
  | .i32 => .i32
  | .i64 => .i64

def execIabs (h : Hdr) (ty : SIntTy) (sat : Bool) (a : Src) (d : Dst) (s : State) : Out :=
  issue1 .both h ⟨a, ty.width, .int⟩ d ty.width
    (fun x => intResult (sintTy ty) sat ((valOf (sintTy ty) x).natAbs : Int)) s

/-- The quotient rounded toward zero; all ones for a divisor of 0 (12 R313). -/
def quotOf (a b : Int) : Int := if b = 0 then -1 else a.tdiv b

/-- The remainder, with the sign of the dividend; the dividend for a divisor of 0 (12 R313). -/
def remOf (a b : Int) : Int := if b = 0 then a else a - a.tdiv b * b

def execIdiv (h : Hdr) (ty : IntTy) (a b : Src) (d : Dst) (s : State) : Out :=
  issue2 .both h ⟨a, ty.width, .int⟩ ⟨b, ty.width, .int⟩ d ty.width
    (fun x y => intResult ty false (quotOf (valOf ty x) (valOf ty y))) s

def execIrem (h : Hdr) (ty : IntTy) (a b : Src) (d : Dst) (s : State) : Out :=
  issue2 .both h ⟨a, ty.width, .int⟩ ⟨b, ty.width, .int⟩ d ty.width
    (fun x y => intResult ty false (remOf (valOf ty x) (valOf ty y))) s

/-! The logic family (12 R314, R315). -/

def execAnd (h : Hdr) (ty : BitTy) (a b : Src) (d : Dst) (s : State) : Out :=
  issue2 .both h ⟨a, ty.width, .int⟩ ⟨b, ty.width, .int⟩ d ty.width (fun x y => x &&& y) s

def execOr (h : Hdr) (ty : BitTy) (a b : Src) (d : Dst) (s : State) : Out :=
  issue2 .both h ⟨a, ty.width, .int⟩ ⟨b, ty.width, .int⟩ d ty.width (fun x y => x ||| y) s

def execXor (h : Hdr) (ty : BitTy) (a b : Src) (d : Dst) (s : State) : Out :=
  issue2 .both h ⟨a, ty.width, .int⟩ ⟨b, ty.width, .int⟩ d ty.width (fun x y => x ^^^ y) s

def execNot (h : Hdr) (ty : BitTy) (a : Src) (d : Dst) (s : State) : Out :=
  issue1 .both h ⟨a, ty.width, .int⟩ d ty.width (fun x => 2 ^ ty.width - 1 - x) s

/-- `shl`: 0 when the count reaches the width. -/
def shlOf (w x n : Nat) : Nat := if w ≤ n then 0 else x * 2 ^ n % 2 ^ w

/-- `shr`: 0 when the count reaches the width. -/
def shrOf (w x n : Nat) : Nat := if w ≤ n then 0 else x / 2 ^ n

/-- `sar`: copies of the sign bit when the count reaches the width. -/
def sarOf (w x n : Nat) : Nat := truncInt ((sextInt x w).fdiv (2 ^ min n (w - 1))) w

/-- `rotl`: by the count modulo the width. -/
def rotlOf (w x n : Nat) : Nat := x * 2 ^ (n % w) % 2 ^ w + x / 2 ^ (w - n % w)

/-- Zero bits above the highest one. -/
def clzOf (w x : Nat) : Nat := if x = 0 then w else w - 1 - Nat.log2 x

/-- Bits in reverse order. -/
def brevOf (x : Nat) : Nat → Nat
  | 0 => 0
  | n + 1 => x % 2 * 2 ^ n + brevOf (x / 2) n

def execShl (h : Hdr) (ty : BitTy) (a b : Src) (d : Dst) (s : State) : Out :=
  issue2 .both h ⟨a, ty.width, .int⟩ ⟨b, 32, .int⟩ d ty.width (shlOf ty.width) s

def execShr (h : Hdr) (ty : BitTy) (a b : Src) (d : Dst) (s : State) : Out :=
  issue2 .both h ⟨a, ty.width, .int⟩ ⟨b, 32, .int⟩ d ty.width (shrOf ty.width) s

def execSar (h : Hdr) (ty : BitTy) (a b : Src) (d : Dst) (s : State) : Out :=
  issue2 .both h ⟨a, ty.width, .int⟩ ⟨b, 32, .int⟩ d ty.width (sarOf ty.width) s

def execRotl (h : Hdr) (ty : BitTy) (a b : Src) (d : Dst) (s : State) : Out :=
  issue2 .both h ⟨a, ty.width, .int⟩ ⟨b, 32, .int⟩ d ty.width (rotlOf ty.width) s

def execPopc (h : Hdr) (ty : BitTy) (a : Src) (d : Dst) (s : State) : Out :=
  issue1 .both h ⟨a, ty.width, .int⟩ d 32 (fun x => popCount x ty.width) s

def execClz (h : Hdr) (ty : BitTy) (a : Src) (d : Dst) (s : State) : Out :=
  issue1 .both h ⟨a, ty.width, .int⟩ d 32 (clzOf ty.width) s

def execBrev (h : Hdr) (ty : BitTy) (a : Src) (d : Dst) (s : State) : Out :=
  issue1 .both h ⟨a, ty.width, .int⟩ d ty.width (fun x => brevOf x ty.width) s

/-- `bfe` under a field control (12 R315). -/
def bfeOf (w : Nat) (sx : Bool) (a ctl : Nat) : Nat :=
  let l := min (bits ctl 8 8) w
  let f := bits a (bits ctl 0 8) l
  if sx then truncInt (sextInt f l) w else f

/-- `bfi` under a field control: bits beyond the width are dropped (12 R315). -/
def bfiOf (w a v ctl : Nat) : Nat :=
  let pos := bits ctl 0 8
  let l := min (min (bits ctl 8 8) w) (w - pos)
  setBits a pos l v

def execBfe (h : Hdr) (ty : BitTy) (sx : Bool) (a b : Src) (d : Dst) (s : State) : Out :=
  issue2 .both h ⟨a, ty.width, .int⟩ ⟨b, 32, .int⟩ d ty.width (bfeOf ty.width sx) s

def execBfi (h : Hdr) (ty : BitTy) (a b c : Src) (d : Dst) (s : State) : Out :=
  issue3 .both h ⟨a, ty.width, .int⟩ ⟨b, ty.width, .int⟩ ⟨c, 32, .int⟩ d ty.width (bfiOf ty.width) s

/-- `lea` (12 R316). -/
def leaOf (shift : Nat) (signed : Bool) (a b : Nat) : Nat :=
  truncInt ((a : Int) + (if signed then sextInt b 32 else (b : Int)) * 2 ^ shift) 64

def execLea (h : Hdr) (shift : Fin 9) (signed : Bool) (a b : Src) (d : Dst) (s : State) : Out :=
  issue2 .both h ⟨a, 64, .int⟩ ⟨b, 32, .int⟩ d 64 (leaOf shift.val signed) s

/-! Comparisons and predicates (12 R317 to R319). -/

/-- The relations of `isetp`. -/
def irel (r : IRel) (x y : Int) : Bool :=
  match r with
  | .eq => x == y
  | .ne => x != y
  | .lt => decide (x < y)
  | .le => decide (x ≤ y)
  | .gt => decide (y < x)
  | .ge => decide (y ≤ x)

def execIsetp (h : Hdr) (rel : IRel) (ty : IntTy) (a b : Src) (d : Dst) (s : State) : Out :=
  issuePred .both h [⟨a, ty.width, .int⟩, ⟨b, ty.width, .int⟩] d
    (fun xs => irel rel (valOf ty (xs.getD 0 0)) (valOf ty (xs.getD 1 0))) s

/-- How an immediate is read at a type (11 R287). -/
def immAs : Ty → As
  | .i32 | .n32 | .i64 | .n64 | .b32 => .int
  | .f32 => .f32
  | .f64 => .f64
  | .f16x2 => .f16x2
  | .bf16x2 => .bf16x2

/-- `sel`: both sources are read, and TY gives only their width, so an immediate is that of a bit type (12 R318, 11 R287). -/
def execSel (h : Hdr) (ty : Ty) (p : PSel) (a b : Src) (d : Dst) (s : State) : Out :=
  issue .both false h (fun x => x.pushOff (some ⟨a, ty.width, .int⟩) d (ty.width / 32))
    (fun s i x =>
      onRd s x (x.srcs [⟨a, ty.width, .int⟩, ⟨b, ty.width, .int⟩]) fun xs =>
        onRd s x (x.psel p) fun c =>
          onRd s x (x.dstReady d (ty.width / 32)) fun _ =>
            .done (s.setAgent i (x.putResult d (ty.width / 32) (if c then xs.getD 0 0 else xs.getD 1 0)))) s

/-- `plop` (12 R319). -/
def plopOut (op : PlopOp) (x y : Bool) : Bool :=
  match op with
  | .and => x && y
  | .or => x || y
  | .xor => x != y
  | .andn => x && !y

def execPlop (h : Hdr) (op : PlopOp) (x y : PSel) (d : Dst) (s : State) : Out :=
  issue .both false h (fun a => a.pushOff none d 1)
    (fun s i a =>
      onRd s a (a.psel x) fun p => onRd s a (a.psel y) fun q =>
        onRd s a (a.dstReady d 1) fun _ => .done (s.setAgent i (a.putPred d (plopOut op p q)))) s

/-! Moves and constants (12 R320, R321). -/

def execMov (h : Hdr) (ty : Ty) (a : Src) (d : Dst) (s : State) : Out :=
  issue1 .both h ⟨a, ty.width, immAs ty⟩ d ty.width (fun x => x) s

/-- The sources of `dup` in order. -/
def dupSrcs : DupArgs → List Src
  | .one a => [a]
  | .two a b => [a, b]
  | .three a b c => [a, b, c]

def execDup (h : Hdr) (ws : DupArgs) (d : Dst) (s : State) : Out :=
  let os := (dupSrcs ws).map fun x => (⟨x, 32, .int⟩ : Opnd)
  issue .both false h (fun a => a.pushOff os.head? d os.length)
    (fun s i a =>
      onRd s a (a.srcs os) fun xs =>
        onRd s a (a.dstReady d os.length) fun _ =>
          .done (s.setAgent i (a.putWords d (xs.map (BitVec.ofNat 32))))) s

def execMovi (h : Hdr) (imm : Word) (d : Dst) (s : State) : Out :=
  issueResult .both h [] d 32 (fun _ => imm.toNat) s

def execAddi (h : Hdr) (a : Src) (imm : Word) (d : Dst) (s : State) : Out :=
  issue1 .both h ⟨a, 32, .int⟩ d 32 (fun x => (x + imm.toNat) % 2 ^ 32) s

def execMovh (h : Hdr) (a : Src) (imm : Word) (d : Dst) (s : State) : Out :=
  issue1 .both h ⟨a, 32, .int⟩ d 64 (fun x => imm.toNat * 2 ^ 32 + x) s

/-! Indexed frame access (12 R325). -/

def execRidx (h : Hdr) (a : Src) (imm : Word) (d : Dst) (s : State) : Out :=
  issue .both false h (fun x => x.pushOff (some ⟨a, 32, .int⟩) d 1)
    (fun s i x =>
      onRd s x (x.src ⟨a, 32, .int⟩) fun n =>
        let k := (n + imm.toNat) % 2 ^ 32
        onRd s x (x.readV k 1) fun ws =>
          onRd s x (x.dstReady d 1) fun _ => .done (s.setAgent i (x.putWords d ws))) s

def execWidx (h : Hdr) (a x : Src) (s : State) : Out :=
  issue .both false h offNone
    (fun s i g =>
      onRd s g (g.srcs [⟨a, 32, .int⟩, ⟨x, 32, .int⟩]) fun xs =>
        onRd s g (g.readV (xs.getD 0 0) 1) fun _ =>
          .done (s.setAgent i (g.setRegs (xs.getD 0 0) [BitVec.ofNat 32 (xs.getD 1 0)]))) s

end Sys2Proof.Machine
end

