-- ==== Sys2Proof/Machine/CrossLane.lean ====
section
/-!
DEFINITION. Cross-lane exchange and regrouping (06 R152, 13 R360 to R373).
-/
namespace Sys2Proof.Machine

/-! Rows and arrivals. -/

/-- The row of a thread: the running threads of its pip at its slot, itself alone in a landing slot (13, Cross-lane
exchange). -/
def State.row (s : State) (i : Nat) (a : Agent) : List (Nat × Agent) :=
  if a.pos.away then [(i, a)]
  else s.agents.filter fun (_, u) =>
    !u.id.seq && !u.pos.out && u.pos.core == a.pos.core && u.pos.pip == a.pos.pip && u.pos.slot == a.pos.slot

/-- What a member brings to an exchange: its own value, its fill, its control. -/
structure XArg where
  own : Nat
  fill : Nat
  ctl : Nat
  deriving DecidableEq, Repr

def XArg.mask (x : XArg) : Nat := x.ctl % 65536
def XArg.lsel (x : XArg) : Nat := bits x.ctl 16 4

/-- The thread at a lane has passed the instruction at `pc`, in the depth of handlers of `a`, before this thread (log 21). -/
def Agent.cameAt (a : Agent) (pc : DWord) (lane : Nat) : Bool :=
  a.sched.came.any fun e => e.depth == a.flt.entries.length && e.pc == pc.toNat && e.lane == lane

def Agent.setCame (a : Agent) (l : List Came) : Agent := { a with sched := { a.sched with came := l } }

/-- A thread passes the instruction: of those that have passed it before, but for its fellows at `lanes`, one time each is
made up for. -/
def Agent.catchesUp (a : Agent) (pc : DWord) (lanes : Nat) : Agent :=
  let here (e : Came) : Bool := e.depth == a.flt.entries.length && e.pc == pc.toNat && !bitAt lanes e.lane
  a.setCame ((a.sched.came.map fun e => if here e then { e with n := e.n - 1 } else e).filter fun e => e.n != 0)

/-- The thread `u` has passed the instruction before this one, once more. -/
def Agent.isPassed (a : Agent) (pc : DWord) (u : Agent) : Agent :=
  let d := u.flt.entries.length
  let here (e : Came) : Bool := e.depth == d && e.pc == pc.toNat && e.lane == u.pos.lane
  a.setCame (if a.sched.came.any here then a.sched.came.map fun e => if here e then { e with n := e.n + 1 } else e
    else a.sched.came ++ [⟨d, pc.toNat, u.pos.lane, 1⟩])

/-- Whether a thread stands at a cross-lane instruction: not there; there and guarded off; there with its operands. -/
inductive AtX where
  | no
  | off
  | on (x : XArg)
  deriving DecidableEq, Repr

/-- Where a thread of the row stands with respect to the instruction at `pc` (13 R361, R369). -/
def atX (h : Hdr) (rd : Agent → Rd XArg) (pc : DWord) (u : Agent) : AtX :=
  if u.curPc ≠ pc ∨ !u.canIssue ∨ (u.takeDue false 0).isSome then .no
  else
    match u.guard h with
    | .ok false => .off
    | .ok true =>
      (match rd u with
       | .ok x => .on x
       | .fault _ _ | .wait => .no)
    | .fault _ _ | .wait => .no

/-- A lane named by thread `a`'s mask does not hold it: no running thread is there, or that thread has reached the
instruction, where it stands or has gone on from before `a` (06 R152, 13 R361). -/
def laneCame (h : Hdr) (rd : Agent → Rd XArg) (row : List (Nat × Agent)) (i : Nat) (a : Agent) (lane : Nat) : Bool :=
  a.cameAt a.curPc lane ||
    row.all fun (j, u) => j == i || u.pos.lane != lane || atX h rd a.curPc u != .no

/-- The members that issue with a thread: those standing at the instruction, not guarded off, with its mask. -/
def exchange (h : Hdr) (rd : Agent → Rd XArg) (row : List (Nat × Agent)) (pc : DWord) (mask : Nat) :
    List (Nat × Agent × XArg) :=
  row.filterMap fun (j, u) =>
    match atX h rd pc u with
    | .on x => if x.mask = mask then some (j, u, x) else none
    | .off | .no => none

/-- Lanes of the members of a row. -/
def lanesOf (row : List (Nat × Agent)) (js : List Nat) : Nat :=
  row.foldl (fun m (j, u) => if js.contains j then m ||| 2 ^ u.pos.lane else m) 0

/-- Members pass the instruction: the other threads of the row take note of those that have not passed it after them
(log 21). -/
def State.pass (s : State) (row : List (Nat × Agent)) (pc : DWord) (js : List Nat) : State :=
  let gone := row.filter fun m => js.contains m.1
  { s with agents := tmap s.agents fun j u =>
      if js.contains j then u.catchesUp pc (lanesOf row js)
      else if row.any fun m => m.1 == j then
        (gone.filter fun m => !m.2.cameAt pc u.pos.lane).foldl (fun u m => u.isPassed pc m.2) u
      else u }

/-- What one member sees of an exchange: its lane, its own operands, the contribution of each lane and whether it is
a fill (13 R361). -/
structure XView where
  lane : Nat
  arg : XArg
  c : List Nat
  filled : List Bool
  deriving DecidableEq, Repr

/-- Lane `l`'s participant of an exchange. -/
def partAt (g : List (Nat × Agent × XArg)) (mask l : Nat) : Option Nat :=
  if bitAt mask l then (g.find? fun m => m.2.1.pos.lane == l).map fun m => m.2.2.own else none

def viewOf (g : List (Nat × Agent × XArg)) (u : Agent) (x : XArg) : XView :=
  let p := (upFrom 0 16).map (partAt g x.mask)
  { lane := u.pos.lane, arg := x, c := p.map fun o => o.getD x.fill, filled := p.map fun o => o.isNone }

/-- The result of an exchange for a member: its value, its value as a predicate, whether a fill was used. -/
structure XRes where
  val : Nat
  flag : Bool
  rep : Bool
  deriving DecidableEq, Repr

/-- Predicates written when a cross-lane result lands: that of DST, then the report predicate (13 R362). -/
def xPreds (d : Dst) (rp : Nat) (r : XRes) : List (Nat × Bool) :=
  (match d with | .pred p => [(p.val, r.flag)] | .push | .reg _ | .nil => []) ++ if rp < 7 then [(rp, r.rep)] else []

/-- One member's deferred result. -/
def State.xStart (s : State) (j : Nat) (d : Dst) (k rp : Nat) (r : XRes) : State :=
  match tget s.agents j with
  | none => s
  | some u =>
    let ws := match d with | .pred _ => [] | .push | .reg _ | .nil => wordsOf r.val k
    s.startReady j u ws d (xPreds d rp r)

/-- The members of an exchange issue: the one in focus, `i`, is advanced by its own issue, the others here. -/
def State.xRun (s : State) (i : Nat) (settle : Bool) (d : Dst) (k rp : Nat) (f : XView → XRes)
    (g : List (Nat × Agent × XArg)) : List (Nat × Agent × XArg) → State
  | [] => s
  | (j, u, x) :: t =>
    let s := s.xStart j d k rp (f (viewOf g u x))
    let s := if j = i then s else s.advance j settle none
    State.xRun s i settle d k rp f g t

/-- A destination and a report predicate that can be written now. -/
def xReady (a : Agent) (d : Dst) (k rp : Nat) : Rd Unit :=
  (a.dstReady d k).andThen fun _ => if decide (rp < 7) && a.predBusy rp then .wait else .ok ()

/-- What a thread brings, once its results can be written. -/
def xRd (d : Dst) (k rp : Nat) (rd : Agent → Rd XArg) (u : Agent) : Rd XArg :=
  (rd u).andThen fun x => (xReady u d k rp).andThen fun _ => .ok x

/-- Every running thread the mask of `a` names has reached the instruction (06 R152, 13 R361). -/
def allCame (h : Hdr) (rd : Agent → Rd XArg) (row : List (Nat × Agent)) (i : Nat) (a : Agent) (x : XArg) : Bool :=
  (upFrom 0 16).all fun l => !bitAt x.mask l || laneCame h rd row i a l

/-- A cross-lane instruction of the thread in focus: guarded off it waits for no member (13 R369); otherwise it
issues, with the participants, when every running thread its mask names has reached it (R361). -/
def crossFx (h : Hdr) (first : Option Opnd) (d : Dst) (k rp : Nat) (rd : Agent → Rd XArg) (f : XView → XRes)
    (on : Bool) (s : State) (i : Nat) (a : Agent) : Fx :=
  let pc := a.curPc
  let row := s.row i a
  if !on then onRd s a (a.pushOff first d k) fun a => .done ((s.setAgent i a).pass row pc [i])
  else
    onRd s a (xRd d k rp rd a) fun x =>
      if allCame h (xRd d k rp rd) row i a x then
        let g := (exchange h (xRd d k rp rd) (row.filter fun m => m.1 != i) pc x.mask) ++ [(i, a, x)]
        let js := g.map (·.1)
        let s := s.pass row pc js
        let s := { s with run := { s.run with issueQ := s.run.issueQ.filter fun j => !js.contains j } }
        .done (s.xRun i h.settle d k rp f g g)
      else .keep s

/-- Operands of an exchange of values. -/
def xArgs (a fill : Opnd) (ctl : Src) (u : Agent) : Rd XArg :=
  (u.srcs [a, fill, ⟨ctl, 32, .int⟩]).andThen fun xs => .ok ⟨xs.getD 0 0, xs.getD 1 0, xs.getD 2 0⟩

/-- A cross-lane instruction on values of width `w`, with a result of `k` words. -/
def crossValue (h : Hdr) (w : Nat) (im : As) (rp : BitVec 3) (a fill ctl : Src) (d : Dst) (k : Nat)
    (f : XView → XRes) (s : State) : Out :=
  let o : Opnd := ⟨a, w, im⟩
  issueG .thread false h (crossFx h (some o) d k rp.toNat (xArgs o ⟨fill, w, im⟩ ctl) f) s

/-! The results (13 R364 to R368). -/

/-- The source lane of `shfl`. -/
def shflLane (m : ShflMode) (lane sel : Nat) : Option Nat :=
  match m with
  | .idx => some sel
  | .up => if sel ≤ lane then some (lane - sel) else none
  | .down => if lane + sel ≤ 15 then some (lane + sel) else none
  | .xor => some (lane ^^^ sel)

def shflRes (m : ShflMode) (v : XView) : XRes :=
  match shflLane m v.lane v.arg.lsel with
  | some l => ⟨v.c.getD l 0, false, v.filled.getD l true⟩
  | none => ⟨v.arg.fill, false, true⟩

/-- A fill among the contributions of lanes 0 to `n - 1`. -/
def XView.anyFill (v : XView) (n : Nat) : Bool := (v.filled.take n).any fun b => b

def boolRes (b rep : Bool) : XRes := ⟨b2n b, b, rep⟩

/-- Bits `l` whose lane satisfies a test. -/
def laneMask (p : Nat → Bool) : Nat := ((upFrom 0 16).map fun l => b2n (p l) * 2 ^ l).sum

/-- The contributions of the participants. -/
def XView.parts (v : XView) : List Nat := (v.c.zip v.filled).filterMap fun (x, f) => if f then none else some x

def voteRes (op : VoteOp) (v : XView) : XRes :=
  match op with
  | .all => boolRes (v.c.all fun x => x == 1) (v.anyFill 16)
  | .any => boolRes (v.c.any fun x => x == 1) (v.anyFill 16)
  | .ballot => ⟨laneMask fun l => v.c.getD l 0 == 1, false, v.anyFill 16⟩
  | .uni =>
    match v.parts with
    | [] => boolRes true (v.anyFill 16)
    | x :: xs => boolRes (xs.all fun y => y == x) (v.anyFill 16)

def matchRes (v : XView) : XRes := ⟨laneMask fun l => v.c.getD l 0 == v.arg.own, false, v.anyFill 16⟩

/-- Neighbours added pairwise: one level of the fixed tree of 13 R367. -/
def pairUp (f : Nat → Nat → Nat) : List Nat → List Nat
  | a :: b :: t => f a b :: pairUp f t
  | l => l

/-- The fixed tree of `redux.fadd`. -/
def treeSum (rm : RM) (c : List Nat) : Nat :=
  let f := f32F.add rm
  (pairUp f (pairUp f (pairUp f (pairUp f c)))).headD 0

/-- A reduction in lane order. -/
def foldC (f : Nat → Nat → Nat) : List Nat → Nat
  | [] => 0
  | x :: xs => xs.foldl f x

def reduxVal (op : ReduxOp) (c : List Nat) : Nat :=
  match op with
  | .iadd ty => c.sum % 2 ^ ty.width
  | .imin ty => foldC (fun x y => if valOf ty y < valOf ty x then y else x) c
  | .imax ty => foldC (fun x y => if valOf ty x < valOf ty y then y else x) c
  | .and _ => foldC (fun x y => x &&& y) c
  | .or _ => foldC (fun x y => x ||| y) c
  | .xor _ => foldC (fun x y => x ^^^ y) c
  | .fadd rm => treeSum rm c
  | .fmin => foldC (f32F.minmax false) c
  | .fmax => foldC (f32F.minmax true) c

def reduxRes (op : ReduxOp) (v : XView) : XRes := ⟨reduxVal op v.c, false, v.anyFill 16⟩

/-- The running sum of `scan.fadd`: the first contribution has its NaN, of either sign, made canonical. -/
def scanSum (rm : RM) : List Nat → Nat
  | [] => 0
  | x :: xs => xs.foldl (f32F.add rm) (if f32F.isNan (x % 2 ^ 31) then 0x7FC00000 else x)

def scanRes (op : ScanOp) (excl : Bool) (v : XView) : XRes :=
  let n := if excl then v.lane else v.lane + 1
  let c := v.c.take n
  match op with
  | .iadd ty => ⟨c.sum % 2 ^ ty.width, false, v.anyFill n⟩
  | .fadd rm => ⟨scanSum rm c, false, v.anyFill n⟩

/-! The instructions. -/

def execShfl (h : Hdr) (mode : ShflMode) (ty : BitTy) (rp : BitVec 3) (a fill ctl : Src) (d : Dst) (s : State) : Out :=
  crossValue h ty.width .int rp a fill ctl d (ty.width / 32) (shflRes mode) s

/-- Operands of `vote`: the contribution is the predicate selected (13 R365). -/
def voteArgs (p : PSel) (fill : Bool) (ctl : Src) (u : Agent) : Rd XArg :=
  (u.psel p).andThen fun b => (u.src ⟨ctl, 32, .int⟩).andThen fun c => .ok ⟨b2n b, b2n fill, c⟩

def execVote (h : Hdr) (op : VoteOp) (rp : BitVec 3) (p : PSel) (fill : Bool) (ctl : Src) (d : Dst) (s : State) : Out :=
  issueG .thread false h (crossFx h none d 1 rp.toNat (voteArgs p fill ctl) (voteRes op)) s

def execMatchLanes (h : Hdr) (ty : BitTy) (rp : BitVec 3) (a fill ctl : Src) (d : Dst) (s : State) : Out :=
  crossValue h ty.width .int rp a fill ctl d 1 matchRes s

/-- How immediates of `redux` are read (11 R287). -/
def reduxAs : ReduxOp → As
  | .iadd _ | .imin _ | .imax _ | .and _ | .or _ | .xor _ => .int
  | .fadd _ | .fmin | .fmax => .f32

def execRedux (h : Hdr) (op : ReduxOp) (rp : BitVec 3) (a fill ctl : Src) (d : Dst) (s : State) : Out :=
  crossValue h op.width (reduxAs op) rp a fill ctl d (op.width / 32) (reduxRes op) s

def scanAs : ScanOp → As
  | .iadd _ => .int
  | .fadd _ => .f32

def execScan (h : Hdr) (op : ScanOp) (rp : BitVec 3) (excl : Bool) (a fill ctl : Src) (d : Dst) (s : State) : Out :=
  crossValue h op.width (scanAs op) rp a fill ctl d (op.width / 32) (scanRes op excl) s

/-- The thread waits at a cross-lane instruction, with its operands, for members its mask names (06 R148, R152). -/
def crossWaits (h : Hdr) (d : Dst) (k rp : Nat) (rd : Agent → Rd XArg) (s : State) (i : Nat) (a : Agent) : Bool :=
  match a.guard h, xRd d k rp rd a with
  | .ok true, .ok x => !allCame h (xRd d k rp rd) (s.row i a) i a x
  | _, _ => false

/-- The thread's next instruction is a cross-lane instruction that waits for members. -/
def State.crossHeld (s : State) (i : Nat) (a : Agent) : Instr → Bool
  | .shfl h _ ty rp x f c d =>
    crossWaits h d (ty.width / 32) rp.toNat (xArgs ⟨x, ty.width, .int⟩ ⟨f, ty.width, .int⟩ c) s i a
  | .vote h _ rp p f c d => crossWaits h d 1 rp.toNat (voteArgs p f c) s i a
  | .matchLanes h ty rp x f c d =>
    crossWaits h d 1 rp.toNat (xArgs ⟨x, ty.width, .int⟩ ⟨f, ty.width, .int⟩ c) s i a
  | .redux h op rp x f c d =>
    crossWaits h d (op.width / 32) rp.toNat (xArgs ⟨x, op.width, reduxAs op⟩ ⟨f, op.width, reduxAs op⟩ c) s i a
  | .scan h op rp _ x f c d =>
    crossWaits h d (op.width / 32) rp.toNat (xArgs ⟨x, op.width, scanAs op⟩ ⟨f, op.width, scanAs op⟩ c) s i a
  | _ => false

/-! Regrouping (13 R370 to R373). -/

/-- The lanes of a thread's issue group with its own (08 R221). -/
def Agent.groupMask (a : Agent) : BitVec 16 := a.sched.gmask ||| BitVec.ofNat 16 (2 ^ a.pos.lane)

def Agent.setJoin (a : Agent) (j : Nat) (m : BitVec 16) : Agent :=
  { a with arch := { a.arch with joins := a.arch.joins.set j m } }

/-- `enrol` (13 R371). -/
def execEnrol (h : Hdr) (j : Fin 4) (s : State) : Out :=
  issue .thread false h offNone (fun s i a => .done (s.setAgent i (a.setJoin j.val a.groupMask))) s

/-- A thread of the row waits at a `rejoin` that names `j`. -/
def Agent.atRejoin (a : Agent) (j : Nat) : Bool := a.pend.rejoin.any fun w => w.1 == j

/-- The lanes of a thread's join slot are all at a `rejoin` of it, or gone (13 R372). -/
def rejoined (row : List (Nat × Agent)) (j : Nat) (a : Agent) : Bool :=
  a.pos.away || (upFrom 0 16).all fun l =>
    l == a.pos.lane || !bitAt (a.arch.joins.getD j 0).toNat l ||
      row.all fun (_, u) => u.pos.lane != l || u.atRejoin j

/-- A wait at `rejoin` ends: the join slot becomes 0 and the thread goes on. -/
def State.leaveRejoin (s : State) (i : Nat) : State :=
  match tget s.agents i with
  | none => s
  | some a =>
    match a.pend.rejoin with
    | none => s
    | some (j, _, settle) =>
      (s.setAgent i { (a.setJoin j 0) with pend := { a.pend with rejoin := none } }).advance i settle none

def State.leaveRejoins (s : State) : List Nat → State
  | [] => s
  | i :: is => (s.leaveRejoin i).leaveRejoins is

/-- `rejoin` (13 R372): the threads whose conditions hold with this arrival go on together. -/
def rejoinFx (j : Nat) (settle : Bool) (s : State) (i : Nat) (a : Agent) : Fx :=
  if a.arch.joins.getD j 0 = 0 then .done s
  else
    let w := a.pend.rejoin.getD (j, (s.islOfCore a.pos.core).cyc, settle)
    let a := { a with pend := { a.pend with rejoin := some w } }
    let s := s.setAgent i a
    let row := s.row i a
    let js := (row.filter fun (_, u) => u.atRejoin j && rejoined row j u).map (·.1)
    let s := { s with run := { s.run with issueQ := s.run.issueQ.filter fun k => !js.contains k } }
    .keep (s.leaveRejoins js)

def execRejoin (h : Hdr) (j : Fin 4) (s : State) : Out := issue .thread false h offNone (rejoinFx j.val h.settle) s

/-- 4,096 pip cycles have passed since the thread came to its `rejoin` (13 R372). -/
def Agent.rejoinOver (s : State) (a : Agent) : Bool :=
  a.pend.rejoin.any fun w => decide (w.2.1 + 4096 ≤ (s.islOfCore a.pos.core).cyc)

/-- The wait at a `rejoin` times out. -/
def execRejoinTimeout (agent : Nat) (s : State) : Out :=
  match tget s.agents agent with
  | none => .next s
  | some a => if a.rejoinOver s then .next (s.leaveRejoin agent) else .next s

/-- `groupq` (13 R373). -/
def execGroupq (h : Hdr) (g : Fin 5) (d : Dst) (s : State) : Out :=
  issue .thread false h (fun a => a.pushOff none d 1)
    (fun s i a =>
      let m := if g.val = 0 then a.groupMask else a.arch.joins.getD (g.val - 1) 0
      onRd s a (a.dstReady d 1) fun _ => .done (s.setAgent i (a.putResult d 1 m.toNat))) s

end Sys2Proof.Machine
end

