-- ==== Sys2Proof/Machine/Records.lean ====
section
/-!
DEFINITION. The records of tiles and copy requests: iterators (15 R420, R421), tensor headers (10 R268), window records
(15 R423), read by an instruction before it goes on (15 R422, R435).
-/
namespace Sys2Proof.Machine

/-- Field of a record: `n` bits at bit `b` of byte `off`. -/
def fld (x off b n : Nat) : Nat := bits x (8 * off + b) n

/-- A tensor header: SCALE, EXTRA, addresses of its shape and strides records, and whether a reserved field is not
zero. -/
structure Header where
  scale : Word
  extra : Word
  shape : Nat
  strides : Nat
  bad : Bool
  deriving DecidableEq, Repr

def headerOf (x : Nat) : Header :=
  { scale := BitVec.ofNat 32 (fld x 0 0 32)
    extra := BitVec.ofNat 32 (fld x 4 0 32)
    shape := fld x 0x18 0 57
    strides := fld x 0x20 0 57
    bad := fld x 0x10 4 60 != 0 || fld x 0x18 57 7 != 0 || fld x 0x20 57 7 != 0 || fld x 0x28 0 192 != 0 }

/-- An iterator record; INDEX is read only where the record drives. -/
def iterOf (x : Nat) (drive : Bool) : Iter :=
  { base := fld x 0 0 57
    shape := (upFrom 0 4).map fun d => fld x (8 + 4 * d) 0 32
    stride := (upFrom 0 4).map fun d => sextInt (fld x (0x18 + 4 * d) 0 32) 32
    index := (upFrom 0 4).map fun d => if drive then fld x (0x28 + 4 * d) 0 32 else 0
    bcast := fld x 0x38 0 4
    slot := fld x 0x38 4 4
    hdren := bitAt x (8 * 0x38 + 8)
    hdr := fld x 0x38 10 51 * 64 }

/-- A record that breaks 15 R420. -/
def iterBad (x : Nat) (it : Iter) : Bool :=
  fld x 0 57 7 != 0 || fld x 0x38 9 1 != 0 || fld x 0x38 61 3 != 0
    || (upFrom 0 4).any fun d => it.shape.getD d 0 == 0 || decide (it.shape.getD d 0 ≤ it.index.getD d 0)

/-- An iterator record read, with its header; the flag tells a malformed one (15 R421; a record that is not 64-byte
aligned breaks R420, log 24). -/
def onIter (s : State) (a : Agent) (va : Nat) (drive : Bool) (k : State → Iter → Bool → Fx) : Fx :=
  if va % 64 ≠ 0 then k s {} true
  else
    onRead s a va 64 fun s bs =>
      let x := ofBytes bs
      let it := iterOf x drive
      if iterBad x it then k s it true
      else if !it.hdren then k s it false
      else
        onRead s a it.hdr 64 fun s bs =>
          let h := headerOf (ofBytes bs)
          k s { it with scale := h.scale, extra := h.extra } h.bad

/-- The fields of a window record. -/
def winOf (x : Nat) : Win :=
  { base := fld x 0 0 57
    fw := fld x 0x10 0 16
    fh := fld x 0x10 16 16
    sx := fld x 0x14 0 8
    sy := fld x 0x14 8 8
    dx := fld x 0x14 16 8
    dy := fld x 0x14 24 8
    padx := fld x 0x18 0 16
    pady := fld x 0x18 16 16
    padv := fld x 0x1C 0 32
    ow := fld x 0x20 0 32
    oh := fld x 0x24 0 32
    row0 := fld x 0x28 0 32
    col0 := fld x 0x2C 0 32 }

/-- A window record that breaks 15 R423. -/
def winBad (x : Nat) (w : Win) : Bool :=
  fld x 0 57 7 != 0 || fld x 8 57 7 != 0 || fld x 0x30 0 128 != 0 || fld x 8 0 57 % 64 != 0
    || [w.fw, w.fh, w.sx, w.sy, w.dx, w.dy, w.ow, w.oh].any fun n => n == 0

/-- Four 32-bit words. -/
def words4 (x : Nat) : List Nat := (upFrom 0 4).map fun d => bits x (32 * d) 32

/-- A window record read with its header, shape and strides (strides are signed, log 24). -/
def onWin (s : State) (a : Agent) (va : Nat) (k : State → Win → Bool → Fx) : Fx :=
  if va % 64 ≠ 0 then k s {} true
  else
    onRead s a va 64 fun s bs =>
      let x := ofBytes bs
      let w := winOf x
      if winBad x w then k s w true
      else
        onRead s a (fld x 8 0 57) 64 fun s bs =>
          let h := headerOf (ofBytes bs)
          if h.bad then k s w true
          else
            onRead s a h.shape 16 fun s bs =>
              let sh := words4 (ofBytes bs)
              onRead s a h.strides 16 fun s bs =>
                let st := words4 (ofBytes bs)
                k s { w with shape := sh, stride := st.map fun n => sextInt n 32, extra := h.extra }
                  (sh.any fun n => n == 0)

/-- The first window address of a list of byte ranges that the agent may not reach, with its cause (14 R375). -/
def State.rangeFault (s : State) (a : Agent) : List (Nat × Nat) → Option (Nat × Nat)
  | [] => none
  | (va, n) :: t =>
    if inWindow va then
      match s.windowFault a va n with
      | some c => some (c, va)
      | none => s.rangeFault a t
    else s.rangeFault a t

/-- The byte ranges of the units an iterator moves from its starting position. -/
def Iter.ranges (it : Iter) (f : Fmt) : List (Nat × Nat) :=
  (upFrom (it.start f) (it.total f - it.start f)).map fun p =>
    let b := (it.bitAddr f (indexOf (it.ext f) p)).toNat
    (b / 8, elemBytes b f.unitBits)

/-- The byte ranges of the elements a window load reads. -/
def Win.ranges (w : Win) (f : Fmt) (k : Nat) : List (Nat × Nat) :=
  (upFrom 0 (64 * k)).filterMap fun e =>
    match w.bitAddr f.w (e / k) (e % k) with
    | some b => if b < 0 then none else some (b.toNat / 8, elemBytes b.toNat f.w)
    | none => none

end Sys2Proof.Machine
end

