-- ==== Sys2Proof/Machine/Tiles.lean ====
section
/-!
DEFINITION. Tile handles, words, and tiles to and from memory (15 R407 to R424).
-/
namespace Sys2Proof.Machine

/-! Names, buffers, granules. -/

/-- The pod group of an agent. -/
def State.podOf (s : State) (a : Agent) : Option Pod := tget s.pods a.id.pod

/-- The buffer a name of the agent's pod group is bound to. -/
def State.nameOf (s : State) (a : Agent) (n : Nat) : Option (Nat × Buf) :=
  (s.podOf a).bind fun p => (tget p.names n).bind fun b => (tget s.bufs b).map fun x => (b, x)

/-- The kind of an agent: 0 the sequencer, 1 threads (15 R407). -/
def Agent.kind (a : Agent) : Nat := if a.id.seq then 0 else 1

/-- The pod group has a sequencer context (15 R407, R430). -/
def State.podSeq (s : State) (a : Agent) : Bool := (s.grid a.id.grid).lrec.seq

/-- A bound name used by an instruction; a migrated thread is no agent of the pod group (15 R407, R410, R414). -/
def onName (s : State) (a : Agent) (n : Nat) (k : Nat → Buf → Fx) : Fx :=
  if a.pos.away then .fault (faultAt s a 0x06 n)
  else
    match s.nameOf a n with
    | none => .fault (faultAt s a 0x05 n)
    | some (b, x) => k b x

/-- Free granules of a cob: those of saved pod groups are not on it (15 R412, 07 R184). -/
def State.freeTiles (s : State) (cob : Nat) : Nat :=
  512 - (s.bufs.map fun (_, b) =>
    if b.cob = cob ∧ !((tget s.pods b.pod).any fun p => p.out) then b.granules else 0).sum

/-! Uses (15 R410). -/

inductive Use where
  | read | write | accum
  deriving DecidableEq, Repr

inductive UseRes where
  | ok | wait | bad
  deriving DecidableEq, Repr

/-- Whether an agent of a kind may use a name in a state. -/
def useOf (kind : Nat) (u : Use) (st : TSt) : UseRes :=
  match u, st with
  | .read, .ready k => if k = kind then .ok else .bad
  | .read, .filling _ v => if v = kind then .wait else .bad
  | .write, .ready k => if k = kind then .ok else .bad
  | .write, .filling _ _ => .ok
  | .accum, .ready k => if k = 0 then .ok else .bad
  | .accum, .filling _ v => if v = 0 then .wait else .bad
  | .accum, .busy => .wait
  | .read, .busy | .write, .busy => if kind = 0 then .wait else .bad

/-- A use checked when an instruction issues. -/
def onUse (s : State) (a : Agent) (n : Nat) (u : Use) (b : Buf) (k : Fx) : Fx :=
  match useOf a.kind u b.st with
  | .ok => k
  | .wait => .keep s
  | .bad => .fault (faultAt s a 0x06 n)

/-! Program order on a buffer (15 R415, R429). -/

/-- An outstanding tile load of the agent into a buffer. -/
def Op.loads (o : Op) (b : Nat) : Bool :=
  match o.acc with
  | some (.tileLd _ x _ _) | some (.tileWin _ x _ _) => x == b
  | _ => false

/-- A matrix-queue entry reads a buffer. -/
def MEnt.reads (e : MEnt) (b : Nat) : Bool :=
  match e.kind with
  | .mma => e.ha == b || e.hb == b
  | .tcvt | .ttr => e.ha == b
  | .thad => false

/-- What an instruction waits for before it uses a buffer. -/
structure Behind where
  copies : Bool
  entries : Bool
  readers : Bool
  deriving DecidableEq, Repr

/-- An instruction takes its turn on a buffer: behind a tile load of its agent that is parked it is a point of 07 R162,
behind anything else of its agent that writes the buffer it waits. -/
def inTurn (s : State) (i : Nat) (a : Agent) (b : Nat) (w : Behind) (k : Fx) : Fx :=
  let mine := a.pend.ops.filter fun o => o.loads b
  if mine.any fun o => o.st.isParked then .point s
  else if !mine.isEmpty
    || (w.entries && a.pend.mq.any fun e => e.hd == b)
    || (w.readers && a.pend.mq.any fun e => e.reads b)
    || (w.copies && s.copies.any fun (_, c) => c.agent == i && (c.kind == .tileLoad || c.kind == .window) && c.buf == b)
  then .keep s
  else k

/-! talloc, thand, trel, twait, tq (15 R416 to R418). -/

/-- A name bound to a new buffer, all zero with EXTRA 0x80000000; what the name meant before is orphaned
(15 R409, R411). -/
def State.bindName (s : State) (pod hd : Nat) (b : Buf) : State :=
  match tget s.pods pod with
  | none => s
  | some p =>
    let (id, s) := s.newId
    ((s.setBuf id b).setPod pod { p with names := tset p.names hd id }).sweepBufs

/-- The buffer a `talloc` with control `ctl` asks for, as slot `fa` is bound now. -/
def State.tallocBuf (s : State) (a : Agent) (fa ctl : Nat) : Rd Buf :=
  let acc := bitAt ctl 17
  let n := ctl % 4096
  let v := bits ctl 16 1
  let b : Buf :=
    { cob := cobOfCore a.pos.core, pod := a.id.pod, acc, st := if n = 0 then .ready v else .filling n v }
  if acc then .ok b
  else
    (s.capture a fa).andThen fun m =>
      let f := (s.image m).fmt
      .ok { b with cw := containerOf f.w, blk := f.isBlock }

/-- A waiting `talloc` is served: granules are free and it is the oldest of its cob (15 R412). -/
def State.tallocTurn (s : State) (i cob need : Nat) : Bool :=
  decide (need ≤ s.freeTiles cob) && ((s.cob cob).tallocQ.head?.all fun j => j == i)

/-- The buffer asked for cannot be: a BLOCK format has no 32-bit container, and a sequencer that does not exist owns nothing
(15 R416). -/
def State.tallocBad (s : State) (a : Agent) (ctl : Nat) (b : Buf) : Bool :=
  (b.blk && decide (b.cw = 32)) || (!bitAt ctl 16 && !s.podSeq a)

/-- `talloc` (15 R416). -/
def tallocFx (h : Hdr) (hd fa : Nat) (x : Src) (s : State) (i : Nat) (a : Agent) : Fx :=
  onRd s a (a.src ⟨x, 32, .int⟩) fun ctl =>
    if a.pos.away then .fault (faultAt s a 0x06 hd)
    else
      onRd s a (s.tallocBuf a fa ctl) fun b =>
        if s.tallocBad a ctl b then .fault (faultAt s a 0x06 hd)
        else
          let cob := b.cob
          if s.tallocTurn i cob b.granules then
            let s := (s.leaveQueues i).setAgent i { a with pend := { a.pend with talloc := none } }
            .done (s.bindName a.id.pod hd b)
          else
            let c := s.cob cob
            let q := if c.tallocQ.contains i then c.tallocQ else c.tallocQ ++ [i]
            .keep ((s.setCob cob { c with tallocQ := q }).setAgent i
              { a with pend := { a.pend with talloc := some (hd, fa, ctl, h.settle) } })

def execTalloc (h : Hdr) (hd : BitVec 8) (fa : Fin 16) (a : Src) (s : State) : Out :=
  issue .both false h offNone (tallocFx h hd.toNat fa.val a) s

/-- A `talloc` that has waited faults: its slot has come to be bound otherwise meanwhile. -/
def State.tallocFault (s : State) (i : Nat) (a : Agent) (cause addr : Nat) : State :=
  let (w, s) := s.nextWord i a
  s.raise i { cause, pc := a.curPc, resume := some a.curPc, addr := BitVec.ofNat 64 addr, iword := w }

/-- Granules that were freed go to the `talloc` of the cob that has waited longest, which executes (15 R412). -/
def execTileGranuleGrant (cob : Nat) (s : State) : Out :=
  match (s.cob cob).tallocQ with
  | [] => .next s
  | i :: _ =>
    match tget s.agents i with
    | none => .next s
    | some a =>
      match a.pend.talloc with
      | none => .next s
      | some (hd, fa, ctl, settle) =>
        match s.tallocBuf a fa ctl with
        | .ok b =>
          if s.tallocBad a ctl b then .next (s.tallocFault i a 0x06 hd)
          else if s.tallocTurn i cob b.granules ∧ a.canIssue then
            let s := (s.leaveQueues i).setAgent i { a with pend := { a.pend with talloc := none } }
            .next ((s.bindName a.id.pod hd b).advance i settle none)
          else .next s
        | .fault c ad => .next (s.tallocFault i a c ad)
        | .wait => .next s

/-- The state of a bound name replaced. -/
def State.setTSt (s : State) (b : Nat) (x : Buf) (st : TSt) : State := s.setBuf b { x with st }

/-- `thand` (15 R417). -/
def thandFx (hd : Nat) (x : Src) (s : State) (i : Nat) (a : Agent) : Fx :=
  onRd s a (a.src ⟨x, 32, .int⟩) fun ctl =>
    onName s a hd fun b t =>
      let turn := inTurn s i a b ⟨true, true, true⟩
      match t.st with
      | .filling n v => turn (.done (s.setTSt b t (if n ≤ 1 then .ready v else .filling (n - 1) v)))
      | .ready k =>
        if k ≠ a.kind ∨ (!bitAt ctl 16 ∧ !s.podSeq a) then .fault (faultAt s a 0x06 hd)
        else
          let n := ctl % 4096
          let v := bits ctl 16 1
          turn (.done (s.setTSt b t (if n = 0 then .ready v else .filling n v)))
      | .busy => if a.kind = 0 then .keep s else .fault (faultAt s a 0x06 hd)

def execThand (h : Hdr) (hd : BitVec 8) (a : Src) (s : State) : Out :=
  issue .both false h offNone (thandFx hd.toNat a) s

/-- `trel` (15 R418): it does not wait for the matrix queue (R429). -/
def trelFx (hd : Nat) (s : State) (i : Nat) (a : Agent) : Fx :=
  onName s a hd fun b _ =>
    inTurn s i a b ⟨true, false, false⟩
      (match s.podOf a with
       | none => .done s
       | some p => .done (s.setPod a.id.pod { p with names := tdel p.names hd }).sweepBufs)

def execTrel (h : Hdr) (hd : BitVec 8) (s : State) : Out := issue .both false h offNone (trelFx hd.toNat) s

/-- `twait` (15 R418). -/
def twaitFx (hd : Nat) (s : State) (i : Nat) (a : Agent) : Fx :=
  onName s a hd fun b t =>
    inTurn s i a b ⟨true, true, false⟩ (if t.st = .ready a.kind then .done s else .keep s)

def execTwait (h : Hdr) (hd : BitVec 8) (s : State) : Out := issue .both false h offNone (twaitFx hd.toNat) s

/-- The word of `tq` (15 R418). -/
def State.tqWord (s : State) (a : Agent) (hd : Nat) : Nat :=
  let free := s.freeTiles (cobOfCore a.pos.core) * 2 ^ 20
  match s.nameOf a hd with
  | none => free
  | some (_, t) =>
    let (st, who, n) := match t.st with
      | .filling n v => (1, v, n)
      | .ready k => (2, k, 0)
      | .busy => (3, 0, 0)
    let cw := if t.acc then 0 else Nat.log2 t.cw
    st + 4 * b2n t.acc + 8 * who + 16 * cw + 256 * n + free

def tqFx (hd : Nat) (s : State) (i : Nat) (a : Agent) : Fx :=
  if a.pos.away then .fault (faultAt s a 0x06 hd)
  else
    let go := Fx.done (s.startReady i a [BitVec.ofNat 32 (s.tqWord a hd)] .push [])
    match s.nameOf a hd with
    | none => go
    | some (b, _) => inTurn s i a b ⟨false, true, false⟩ go

def execTq (h : Hdr) (hd : BitVec 8) (s : State) : Out :=
  issue .both false h (fun a => a.pushOff none .push 1) (tqFx hd.toNat) s

/-! Words and zeroing (15 R419). -/

/-- Words of a tile. -/
def Buf.words (b : Buf) : Nat := if b.acc then 4096 else 2048

def twrFx (hd : Nat) (x : Src) (s : State) (i : Nat) (a : Agent) : Fx :=
  onRd s a (a.src ⟨x, 64, .int⟩) fun v =>
    onName s a hd fun b t =>
      onUse s a hd .write t
        (if t.words ≤ v / 2 ^ 32 then .fault (faultAt s a 0x06 hd)
         else
           inTurn s i a b ⟨false, true, true⟩
             (.done (s.setBuf b { t with data := setBits t.data (32 * (v / 2 ^ 32)) 32 v })))

def execTwr (h : Hdr) (hd : BitVec 8) (a : Src) (s : State) : Out :=
  issue .both false h offNone (twrFx hd.toNat a) s

def trdFx (hd : Nat) (x : Src) (s : State) (i : Nat) (a : Agent) : Fx :=
  onRd s a (a.src ⟨x, 32, .int⟩) fun w =>
    onName s a hd fun b t =>
      onUse s a hd .read t
        (if t.words ≤ w then .fault (faultAt s a 0x06 hd)
         else
           inTurn s i a b ⟨true, true, false⟩
             (.done (s.startReady i a [BitVec.ofNat 32 (bits t.data (32 * w) 32)] .push [])))

def execTrd (h : Hdr) (hd : BitVec 8) (a : Src) (s : State) : Out :=
  issue .both false h (fun x => x.pushOff (some ⟨a, 32, .int⟩) .push 1) (trdFx hd.toNat a) s

def tzeroFx (hd : Nat) (s : State) (i : Nat) (a : Agent) : Fx :=
  onName s a hd fun b t =>
    onUse s a hd .write t
      (inTurn s i a b ⟨false, true, true⟩ (.done (s.setBuf b { t with data := 0, extra := 0x80000000 })))

def execTzero (h : Hdr) (hd : BitVec 8) (s : State) : Out := issue .both false h offNone (tzeroFx hd.toNat) s

/-! Memory and tiles (15 R422 to R424). -/

/-- A tile access once its records are read and its checks are made: the window, program order, planes, and the access
of the agent at its place. -/
def tileGo (s : State) (i : Nat) (a : Agent) (b img : Nat) (w : Behind) (rs : List (Nat × Nat)) (acc : Acc) : Fx :=
  match s.rangeFault a rs with
  | some (c, va) => .fault (faultAt s a c va)
  | none =>
    inTurn s i a b w
      (plainFx s a
        (match s.usePlanes (cobOfCore a.pos.core) i [img] with
         | (false, s) => .keep s
         | (true, s) => .done (s.startOp i a acc 0 .nil false false none)))

/-- `tld` and `tst`: their checks in the order of 15 R414. -/
def tileIterFx (store : Bool) (hd fa : Nat) (x : Src) (s : State) (i : Nat) (a : Agent) : Fx :=
  onRd s a (a.src (addrOp x)) fun va =>
    onName s a hd fun b t =>
      onRd s a (s.capture a fa) fun img =>
        if a.memHeld then .keep s
        else
          let f := (s.image img).fmt
          onIter s a va true fun s it bad =>
            if bad || !it.blockOk f || !it.fits57 f then .fault (faultAt s a 0x01 0)
            else
              onUse s a hd (if store then .read else .write) t
                (if !t.fits it f then .fault (faultAt s a 0x06 hd)
                 else
                   tileGo s i a b img ⟨false, true, !store⟩ (it.ranges f)
                     (if store then .tileSt it b img fa t.data else .tileLd it b img fa))

def execTld (h : Hdr) (hd : BitVec 8) (fa : Fin 16) (a : Src) (s : State) : Out :=
  issue .both false h offNone (tileIterFx false hd.toNat fa.val a) s

def execTst (h : Hdr) (hd : BitVec 8) (fa : Fin 16) (a : Src) (s : State) : Out :=
  issue .both false h offNone (tileIterFx true hd.toNat fa.val a) s

/-- The operand tile has the container, the block mark of a slot (15 R416). -/
def Buf.matchesSlot (b : Buf) (f : Fmt) : Bool := !b.acc && b.cw == containerOf f.w && b.blk == f.isBlock

/-- `tldw` (15 R423). -/
def tldwFx (hd fa : Nat) (x : Src) (s : State) (i : Nat) (a : Agent) : Fx :=
  onRd s a (a.src (addrOp x)) fun va =>
    onName s a hd fun b t =>
      onRd s a (s.capture a fa) fun img =>
        if a.memHeld then .keep s
        else
          let f := (s.image img).fmt
          onWin s a va fun s w bad =>
            if bad || f.isBlock then .fault (faultAt s a 0x01 0)
            else
              onUse s a hd .write t
                (if !t.matchesSlot f then .fault (faultAt s a 0x06 hd)
                 else tileGo s i a b img ⟨false, true, true⟩ (w.ranges f (tileK t.cw f)) (.tileWin w b img fa))

def execTldw (h : Hdr) (hd : BitVec 8) (fa : Fin 16) (a : Src) (s : State) : Out :=
  issue .both false h offNone (tldwFx hd.toNat fa.val a) s

end Sys2Proof.Machine
end

