-- ==== Sys2Proof/Machine/Matrix.lean ====
section
/-!
DEFINITION. The matrix queue of the sequencer and what its entries compute (10 R276 to R278, 15 R425 to R429).
-/
namespace Sys2Proof.Machine

/-! Decoded rows. -/

/-- Element (row, column) of an operand tile decoded under a slot's image, the tile's EXTRA and its block's exponents. -/
def Buf.val (b : Buf) (f : Fmt) (row col : Nat) : Val :=
  let e := b.exps f row col
  f.decode (b.cont f row col) b.extra e.1 (if f.nse = 2 then e.2 else 0)

/-- The products of row `i` of A and row `j` of B, in groups of 32 (10 R276). -/
def products (a b : Buf) (fa fb : Fmt) (i j : Nat) : List (List Val) :=
  (upFrom 0 (tileK a.cw fa / 32)).map fun g =>
    (upFrom (32 * g) 32).map fun k => vmul (a.val fa i k) (b.val fb j k)

/-- Some element of row `i` of A or row `j` of B is NaN. -/
def rowsNan (a b : Buf) (fa fb : Fmt) (i j : Nat) : Bool :=
  (upFrom 0 (tileK a.cw fa)).any fun k => (a.val fa i k).isNan || (b.val fb j k).isNan

/-! f32 accumulation (10 R276). -/

/-- `sign(p) * floor(|p| / 2^q)`. -/
def truncAt (q : Int) : Val → Int
  | .fin s m x => signed s (if q ≤ x then m * 2 ^ (x - q).toNat else m / 2 ^ (q - x).toNat)
  | .inf _ | .nan => 0

/-- `floor(log2 |p|)` of a non-zero finite value. -/
def topExp : Val → Option Int
  | .fin _ m x => if m = 0 then none else some ((Nat.log2 m : Int) + x)
  | .inf _ | .nan => none

def maxInt : List Int → Option Int
  | [] => none
  | x :: xs => match maxInt xs with | some y => some (max x y) | none => some x

/-- The sum of a group of products. -/
def groupSum (rm : RM) (ps : List Val) : Val :=
  let neg := ps.any fun p => p.isInf && p.neg?
  let pos := ps.any fun p => p.isInf && !p.neg?
  if ps.any (fun p => p.isNan) || (neg && pos) then .nan
  else if neg || pos then .inf neg
  else
    match maxInt (ps.filterMap topExp) with
    | none => .fin (ps.all fun p => p.neg?) 0 0
    | some e =>
      let t := (ps.map (truncAt (e - 35))).sum
      .fin (if t = 0 then rm == .rd else decide (t < 0)) t.natAbs (e - 35)

/-- One group added to the accumulator. -/
def accStep (rm : RM) (acc : Nat) (ps : List Val) : Nat :=
  f32F.encVal rm false (vadd rm (f32F.decFloat acc) (groupSum rm ps))

/-- One element of C with an f32 accumulator. -/
def mmaF32 (rm : RM) (nan : Bool) (groups : List (List Val)) (c : Nat) : Nat :=
  if nan ∨ (f32F.decFloat c).isNan then 0x7FC00000 else groups.foldl (accStep rm) c

/-! i32 accumulation (10 R277). -/

def valInt : Val → Int
  | .fin s m x => signed s (m * 2 ^ x.toNat)
  | .inf _ | .nan => 0

def mmaI32 (groups : List (List Val)) (c : Nat) : Nat :=
  truncInt (groups.foldl (fun acc ps => clampInt 32 true (acc + (ps.map valInt).sum)) (sextInt c 32)) 32

/-! Whole tiles. -/

/-- The bits of an accumulator from its words in order. -/
def accBits (f : Nat → Nat → Nat) : Nat :=
  (upFrom 0 4096).foldl (fun d w => setBits d (32 * w) 32 (f (w / 64) (w % 64))) 0

/-- Word (i, j) of an accumulator. -/
def Buf.acc32 (b : Buf) (i j : Nat) : Nat := bits b.data (32 * (64 * i + j)) 32

/-- An INT descriptor of 32 signed bits (15 R425). -/
def Fmt.isI32 (f : Fmt) : Bool := f.kind == 1 && f.w == 32 && f.sign

/-- `mma` (15 R425). -/
def mmaData (a b c : Buf) (fa fb fc : Fmt) (rm : RM) : Nat :=
  accBits fun i j =>
    let ps := products a b fa fb i j
    if fc.isF32 then mmaF32 rm (rowsNan a b fa fb i j) ps (c.acc32 i j) else mmaI32 ps (c.acc32 i j)

/-- The value of an accumulator word and the f32 pattern it is compared by (15 R426, 10 R267). -/
def accVal (f : Fmt) (w : Nat) : Val × Option Nat :=
  if f.isF32 then (f32F.decFloat w, some w)
  else
    let v := Val.ofInt (sextInt w 32)
    (v, f32Pattern v)

/-- One row of `tcvt` into a slot without blocks. -/
def tcvtRow (c d : Buf) (fa fb : Fmt) (rm : RM) (sat : Bool) (base i bs : Nat) : Nat :=
  (upFrom 0 64).foldl (fun bs j =>
    let v := accVal fa (c.acc32 i j)
    putCont d bs fb i (base + j)
      (if fa.isF32 && fb.keeps (c.acc32 i j) then c.acc32 i j else fb.encode rm sat v.1 v.2 d.extra)) bs

/-- Codes put into consecutive containers of a row. -/
def putRun (d : Buf) (f : Fmt) (i col : Nat) : List Nat → Nat → Nat
  | [], bs => bs
  | c :: cs, bs => putRun d f i (col + 1) cs (putCont d bs f i col c)

/-- One run of 32 columns of `tcvt` encoded as a block. -/
def tcvtBlock (c d : Buf) (fa fb : Fmt) (rm : RM) (sat : Bool) (base i run bs : Nat) : Nat :=
  let vs := (upFrom (32 * run) 32).map fun j => (accVal fa (c.acc32 i j)).1
  let (e0, e1, cs) := fb.encBlock rm sat vs
  let col := base + 32 * run
  putRun d fb i col cs (setBits bs (expsAt d.cw fb i col) (8 * fb.nse) (e0 + 256 * e1))

/-- `tcvt` (15 R426). -/
def tcvtData (c d : Buf) (fa fb : Fmt) (rm : RM) (sat : Bool) (base : Nat) : Nat :=
  (upFrom 0 64).foldl (fun bs i =>
    if fb.isBlock then tcvtBlock c d fa fb rm sat base i 1 (tcvtBlock c d fa fb rm sat base i 0 bs)
    else tcvtRow c d fa fb rm sat base i bs) d.data

/-! The Hadamard rotation (10 R278). -/

def splitmix64 (v : Nat) : Nat :=
  let m := 2 ^ 64
  let z := (v + 0x9E3779B97F4A7C15) % m
  let z := (z ^^^ z / 2 ^ 30) * 0xBF58476D1CE4E5B9 % m
  let z := (z ^^^ z / 2 ^ 27) * 0x94D049BB133111EB % m
  z ^^^ z / 2 ^ 31

/-- One stage of butterflies. -/
def butterfly (h : Nat) (x : List Nat) : List Nat :=
  (upFrom 0 32).map fun i =>
    if i / h % 2 = 0 then f32F.add .rne (x.getD i 0) (x.getD (i + h) 0)
    else f32F.sub .rne (x.getD (i - h) 0) (x.getD i 0)

/-- One block of 32 columns rotated. -/
def rotateBlock (z : Nat) (x : List Nat) : List Nat :=
  let x := (upFrom 0 32).map fun i => if bitAt z i then x.getD i 0 ^^^ 0x80000000 else x.getD i 0
  (butterfly 16 (butterfly 8 (butterfly 4 (butterfly 2 (butterfly 1 x))))).map fun v => f32F.mul .rne v 0x3E3504F3

/-- `thad` (15 R427). -/
def thadData (c : Buf) (seed : Nat) : Nat :=
  let block (row b : Nat) : List Nat :=
    rotateBlock (splitmix64 (seed ^^^ (row * 0x9E3779B97F4A7C15 + b) % 2 ^ 64))
      ((upFrom 0 32).map fun i => c.acc32 row (32 * b + i))
  (upFrom 0 64).foldl (fun d row =>
    (upFrom 0 64).foldl (fun d j => setBits d (32 * (64 * row + j)) 32 ((block row (j / 32)).getD (j % 32) 0)) d) 0

/-- `ttr` of accumulators, or of 64 columns of operand tiles (15 R428). -/
def ttrData (s d : Buf) (base : Nat) : Nat :=
  if s.acc then accBits fun i j => s.acc32 j i
  else
    (upFrom 0 64).foldl (fun bs j => (upFrom 0 64).foldl (fun bs i =>
      setBits bs (1024 * j + (base + i) * d.cw) d.cw (bits s.data (1024 * i + (base + j) * s.cw) s.cw)) bs) d.data

/-! The queue (15 R429). -/

/-- What an entry leaves in the buffer it writes. -/
def State.entryData (s : State) (e : MEnt) (a b d : Buf) : Nat :=
  let f (n : Nat) := (s.image n).fmt
  match e.kind with
  | .mma => mmaData a b d (f e.imgA) (f e.imgB) (f e.imgC) e.rm
  | .tcvt => tcvtData a d (f e.imgA) (f e.imgB) e.rm e.sat e.col
  | .thad => thadData d e.seed
  | .ttr => ttrData a d e.col

/-- An issued matrix instruction enters the queue; when it is full the context waits at issue. DESIGN CHOICE (log 66): what
07 R187 calls held by the scoreboard is this wait at issue; an entry in the queue has been issued, and a trap or a save of
its context leaves it there, with the resume point after it. -/
def enqueueFx (e : MEnt) (s : State) (i : Nat) (a : Agent) : Fx :=
  if 8 ≤ a.pend.mq.length then .keep s
  else
    let (id, s) := s.newId
    .done (s.setAgent i { a with pend := { a.pend with
      mq := a.pend.mq ++ [{ e with id, pc := a.curPc, iword := s.run.word }] } })

/-- A fault check of a use at issue: the states a name may wait out are waited out in the queue (15 R410). -/
def onUseQ (s : State) (a : Agent) (n : Nat) (u : Use) (b : Buf) (k : Fx) : Fx :=
  match useOf a.kind u b.st with
  | .ok | .wait => k
  | .bad => .fault (faultAt s a 0x06 n)

/-- A check of a name, with cause 0x06. -/
def need (ok : Bool) (s : State) (a : Agent) (n : Nat) (k : Fx) : Fx :=
  if ok then k else .fault (faultAt s a 0x06 n)

def noEntry (kind : MKind) : MEnt := ⟨0, kind, 0, 0, 0, 0, 0, 0, 0, 0, 0, [], .rne, false, 0, 0, none, 0, 0, false⟩

/-- `mma` (15 R425); tiles that differ in K have ADDR HB (log 41). -/
def mmaFx (hd ha hb fa fb fc : Nat) (rm : RM) (s : State) (i : Nat) (a : Agent) : Fx :=
  onName s a hd fun bd td => onName s a ha fun ba ta => onName s a hb fun bb tb =>
    onRd s a (s.captures a [fa, fb, fc]) fun ms =>
      let ia := ms.getD 0 0
      let ib := ms.getD 1 0
      let ic := ms.getD 2 0
      let va := s.image ia
      let vb := s.image ib
      let c := (s.image ic).fmt
      if va.cls = 0 ∨ vb.cls = 0 ∨ !(c.isF32 || c.isI32) ∨ (c.isI32 ∧ ¬(va.fmt.kind = 1 ∧ vb.fmt.kind = 1)) then
        .fault (faultAt s a 0x01 0)
      else
        onUseQ s a hd .accum td (onUseQ s a ha .read ta (onUseQ s a hb .read tb
          (need td.acc s a hd (need (ta.matchesSlot va.fmt) s a ha
            (need (tb.matchesSlot vb.fmt && tileK ta.cw va.fmt == tileK tb.cw vb.fmt) s a hb
            (enqueueFx { noEntry .mma with
              hd := bd, ha := ba, hb := bb, hdN := hd, haN := ha, hbN := hb, imgA := ia, imgB := ib, imgC := ic
              slots := [fa, fb, fc], rm } s i a))))))

def execMma (h : Hdr) (hd ha hb : BitVec 8) (fa fb fc : Fin 16) (rm : RM) (s : State) : Out :=
  issue .seq false h offNone (mmaFx hd.toNat ha.toNat hb.toNat fa.val fb.val fc.val rm) s

/-- `tcvt` (15 R426). -/
def tcvtFx (hd ha fa fb : Nat) (rm : RM) (sat : Bool) (x : Src) (s : State) (i : Nat) (a : Agent) : Fx :=
  onRd s a (a.src ⟨x, 32, .int⟩) fun col =>
    onName s a hd fun bd td => onName s a ha fun ba ta =>
      onRd s a (s.captures a [fa, fb]) fun ms =>
        let ia := ms.getD 0 0
        let ib := ms.getD 1 0
        let c := (s.image ia).fmt
        let f := (s.image ib).fmt
        if !(c.isF32 || c.isI32) then .fault (faultAt s a 0x01 0)
        else
          onUseQ s a hd .write td (onUseQ s a ha .read ta
            (need (td.matchesSlot f) s a hd (need ta.acc s a ha
              (need (col % 32 == 0 && decide (col + 64 ≤ tileK td.cw f)) s a hd
              (enqueueFx { noEntry .tcvt with
                hd := bd, ha := ba, hb := ba, hdN := hd, haN := ha, hbN := ha, imgA := ia, imgB := ib, imgC := ia
                slots := [fa, fb], rm, sat, col } s i a)))))

def execTcvt (h : Hdr) (hd ha : BitVec 8) (fa fb : Fin 16) (rm : RM) (sat : Bool) (a : Src) (s : State) : Out :=
  issue .seq false h offNone (tcvtFx hd.toNat ha.toNat fa.val fb.val rm sat a) s

/-- `thad` (15 R427). -/
def thadFx (hd : Nat) (x : Src) (s : State) (i : Nat) (a : Agent) : Fx :=
  onRd s a (a.src ⟨x, 64, .int⟩) fun seed =>
    onName s a hd fun bd td =>
      onUseQ s a hd .accum td
        (need td.acc s a hd
          (enqueueFx { noEntry .thad with hd := bd, ha := bd, hb := bd, hdN := hd, haN := hd, hbN := hd, seed } s i a))

def execThad (h : Hdr) (hd : BitVec 8) (a : Src) (s : State) : Out :=
  issue .seq false h offNone (thadFx hd.toNat a) s

/-- The tile `ttr` reads goes with the one it writes (15 R428). -/
def ttrPair (d s : Buf) : Bool := if d.acc then s.acc else !s.acc && d.cw == s.cw && !s.blk

/-- The tile `ttr` writes has room for its result at a column (15 R428). -/
def ttrRoom (d : Buf) (col : Nat) : Bool :=
  if d.acc then col == 0 else !d.blk && col % 64 == 0 && decide (col + 64 ≤ 1024 / d.cw)

/-- `ttr` (15 R428); a pair of tiles it does not allow has ADDR HA (log 41). -/
def ttrFx (hd ha : Nat) (x : Src) (s : State) (i : Nat) (a : Agent) : Fx :=
  onRd s a (a.src ⟨x, 32, .int⟩) fun col =>
    onName s a hd fun bd td => onName s a ha fun ba ta =>
      onUseQ s a hd .write td (onUseQ s a ha .read ta
        (need (ttrPair td ta) s a ha (need (ttrRoom td col) s a hd
          (enqueueFx { noEntry .ttr with
            hd := bd, ha := ba, hb := ba, hdN := hd, haN := ha, hbN := ha, col } s i a))))

def execTtr (h : Hdr) (hd ha : BitVec 8) (a : Src) (s : State) : Out :=
  issue .seq false h offNone (ttrFx hd.toNat ha.toNat a) s

/-! Entries start and complete. -/

/-- The uses of an entry: its buffers with their names, in the order HD, HA, HB. -/
def MEnt.uses (e : MEnt) : List (Nat × Nat × Use) :=
  match e.kind with
  | .mma => [(e.hd, e.hdN, .accum), (e.ha, e.haN, .read), (e.hb, e.hbN, .read)]
  | .tcvt | .ttr => [(e.hd, e.hdN, .write), (e.ha, e.haN, .read)]
  | .thad => [(e.hd, e.hdN, .accum)]

def State.useAt (s : State) (u : Nat × Nat × Use) : UseRes :=
  match tget s.bufs u.1 with
  | some b => useOf 0 u.2.2 b.st
  | none => .bad

/-- An array of a cob is taken. -/
def State.arrayBusy (s : State) (cob array : Nat) : Bool :=
  s.agents.any fun (_, a) =>
    a.id.seq && !a.pos.out && cobOfCore a.pos.core == cob && a.pend.mq.any fun e => e.array == some array

/-- Shedding keeps an entry from starting: the cobs of a paused device are not clocked, and a slow device starts an `mma`
only while neither array of the cob runs one of its own (03 R88, log 63). -/
def State.shedsEntry (s : State) (vd cob : Nat) (kind : MKind) : Bool :=
  decide (2 ≤ (s.vd vd).shed)
    || ((s.vd vd).shed == 1 && kind == .mma
      && s.agents.any fun (_, a) => a.id.seq && a.id.vd == vd && !a.pos.out && cobOfCore a.pos.core == cob
        && a.pend.mq.any fun e => e.array.isSome && e.kind == .mma)

/-- The first entry of a queue that has not started. -/
def Agent.nextEntry (a : Agent) : Option MEnt := a.pend.mq.find? fun e => e.array.isNone

def Agent.putEntry (a : Agent) (e : MEnt) : Agent :=
  { a with pend := { a.pend with mq := a.pend.mq.map fun x => if x.id = e.id then e else x } }

/-- Everything but an array is there for an entry to start: none of its buffers' states is one to wait out, and no tile load
of the context into them, nor an entry that writes one, is outstanding (15 R410, R415, R429). -/
def State.entryReady (s : State) (a : Agent) (e : MEnt) : Bool :=
  e.uses.all fun u => s.useAt u != .wait && !(a.pend.ops.any fun o => o.loads u.1)
    && !(a.pend.mq.any fun x => x.array.isSome && x.hd == u.1)

/-- Another context of the cob has an older entry that can start: the contexts take the arrays oldest entry first
(15 R429). -/
def State.olderEntry (s : State) (agent cob id : Nat) : Bool :=
  s.agents.any fun (j, b) =>
    j != agent && b.id.seq && !b.pos.out && cobOfCore b.pos.core == cob &&
      (match b.nextEntry with
       | some f => decide (f.id < id) && s.entryReady b f && !s.shedsEntry b.id.vd cob f.kind
       | none => false)

/-- The handle an `mma` names whose buffer holds an uncorrectable error (07 R175). -/
def State.damaged (s : State) (e : MEnt) : Option Nat :=
  let bad (b : Nat) : Bool := (tget s.bufs b).any (·.bad)
  if e.kind ≠ .mma then none
  else if bad e.ha then some e.haN
  else if bad e.hb then some e.hbN
  else if bad e.hd then some e.hdN else none

/-- An entry starts on an array. One that finds a damaged tile runs, and its context faults (07 R175, 15 R429). -/
def Agent.startEntry (a : Agent) (e : MEnt) (array : Nat) (damaged : Option Nat) : Agent :=
  let b := a.putEntry { e with array := some array, hurt := damaged.isSome }
  match damaged with
  | none => b
  | some h =>
    { b with flt := { b.flt with fails := b.flt.fails ++
        [⟨e.id, true, { cause := 0x16, pc := e.pc, addr := BitVec.ofNat 64 h, iword := e.iword }⟩] } }

/-- The next entry of a context starts on an array; when its turn has come, a state of its buffers that would fault fails
it instead (15 R410, R429). -/
def execMatrixEntryStart (agent array : Nat) (s : State) : Out :=
  match tget s.agents agent with
  | none => .next s
  | some a =>
    match a.nextEntry with
    | none => .next s
    | some e =>
      let cob := cobOfCore a.pos.core
      if a.pos.out ∨ !s.atWork a.pos.core ∨ 2 ≤ array ∨ s.arrayBusy cob array ∨ s.shedsEntry a.id.vd cob e.kind
          ∨ !s.entryReady a e ∨ s.olderEntry agent cob e.id then .next s
      else
        match s.usePlanes cob e.id e.images with
        | (false, s) => .next s
        | (true, s) =>
          match e.uses.find? fun u => s.useAt u == .bad with
          | some u => .next ((s.setAgent agent (a.failEntry e 0x06 u.2.1)).leaveQueues e.id).sweepBufs
          | none =>
            let s := s.setAgent agent (a.startEntry e array (s.damaged e))
            match tget s.bufs e.hd with
            | some b => .next (if b.st = .ready 0 then s.setBuf e.hd { b with st := .busy } else s)
            | none => .next s

/-- A running entry of a context completes: what it leaves in its buffer is a free value where it met a damaged tile
(07 R175). -/
def State.finishEntry (s : State) (agent : Nat) (a : Agent) (e : MEnt) : State :=
  let s := s.setAgent agent { a with pend := { a.pend with mq := a.pend.mq.filter fun x => x.id != e.id } }
  match tget s.bufs e.ha, tget s.bufs e.hb, tget s.bufs e.hd with
  | some x, some y, some d =>
    let st := if d.st = .busy then .ready 0 else d.st
    if e.hurt then
      let (f, s) := s.fresh
      (s.setBuf e.hd { d with data := f % 2 ^ 131072, st }).sweepBufs
    else (s.setBuf e.hd { d with data := s.entryData e x y d, st }).sweepBufs
  | _, _, _ => s.sweepBufs

/-- The oldest running entry of a context completes, while its arrays are clocked (01 R24, 03 R88). -/
def execMatrixEntryComplete (agent : Nat) (s : State) : Out :=
  match tget s.agents agent with
  | none => .next s
  | some a =>
    match a.pend.mq.find? fun e => e.array.isSome && s.atWork a.pos.core && (s.vd a.id.vd).shed != 2 with
    | none => .next s
    | some e => .next (s.finishEntry agent a e)

/-- Running entries of a context complete before it goes: before its tile store is written (07 R184), or with its `exit`. -/
def State.finishEntries (s : State) (i : Nat) : Nat → State
  | 0 => s
  | n + 1 =>
    match tget s.agents i with
    | none => s
    | some a =>
      match a.pend.mq.find? fun e => e.array.isSome with
      | none => s
      | some e => (s.finishEntry i a e).finishEntries i n

end Sys2Proof.Machine
end

