-- ==== Sys2Proof/Machine/Sfu.lean ====
section
/-!
DEFINITION. Special functions (10 R279, R280, 17 R450). The part's own `frcp`, `frsq`, `flog2`, `fsin`, `fcos` and
`ftanh` are constants without a body (log 7), used only where their value lies within the spec's bounds, which
are checked against exact or 192-bit fixed-point values; `fsqrt`, `fexp2` and `exp2s` are correctly rounded.
-/
namespace Sys2Proof.Machine

/-- The canonical NaN of f32. -/
def nan32 : Nat := 0x7FC00000
def inf32 (s : Bool) : Nat := if s then 0xFF800000 else 0x7F800000
def neg32 (s : Bool) (c : Nat) : Nat := if s then 0x80000000 + c else c

/-- floor(π/2 × 2^320). -/
def halfPi : Nat := 0x1921fb54442d18469898cc51701b839a252049c1114cf98e804177d4c76273644a29410f31c6809bb
/-- floor(ln 2 × 2^192). -/
def ln2 : Nat := 0xb17217f7d1cf79abc9e3b39803f2f6af40f343267298b62d
/-- The fixed-point one. -/
def one192 : Nat := 2 ^ 192

/-- The f32 code `cand` lies within `k` ulp of a signed magnitude: an ulp is the distance between the two f32 values that
bracket it (10 R280), the one above it where it is itself an f32 value (log 7). An infinity stands for 2^128. -/
def nearBy (k cand : Nat) (s : Bool) (v : Mag) : Bool :=
  let lo := f32F.roundMag .rz false v
  let y := f32F.magVal (cand % 2 ^ 31)
  let u := (f32F.magVal lo).x
  let q := min (min u v.x) y.x
  let units (m : Nat) (x : Int) : Int := atExp false m x q
  let d := signed (bitAt cand 31 != s) (y.m * 2 ^ (y.x - q).toNat)
  decide (lo < 0x7F800000) && decide (cand % 2 ^ 31 ≤ 0x7F800000)
    && decide (d ≤ units v.m v.x + k * units 1 u) && decide (units (v.m + b2n v.more) v.x ≤ d + k * units 1 u)

/-- The part's value where it lies within `k` ulp of the result, the correctly rounded one otherwise. -/
def withinUlps (k cand : Nat) (s : Bool) (v : Mag) : Nat :=
  if nearBy k cand s v then cand else f32F.encFloat .rne false s v

/-- The same within 1 ulp, where a result that is an f32 value is returned exactly (17 R450). -/
def within1 (cand : Nat) (s : Bool) (v : Mag) : Nat :=
  if f32F.roundMag .rz false v = f32F.roundMag .ru false v then f32F.encFloat .rne false s v else withinUlps 1 cand s v

/-- The part's value where it is finite and lies at most 2^-k from a result that lies between two fixed-point values; one of
these rounded otherwise. -/
def withinAbs (cand : Nat) (lo hi : Int) (k : Nat) : Nat :=
  let d : Int := (2 ^ (192 - k) : Nat)
  let ok : Bool := match f32F.decFloat cand with
    | .fin s m x => let c := signed s (m * 2 ^ (x + 192).toNat); decide (c ≤ lo + d) && decide (hi - d ≤ c)
    | .inf _ | .nan => false
  if ok then cand else f32F.encVal .rne false (.fin (decide (hi < 0)) hi.natAbs (-192))

/-- The integer square root, bit by bit. -/
def isqrt (n : Nat) : Nat → Nat → Nat
  | 0, r => r
  | k + 1, r => let t := r + 2 ^ k; isqrt n k (if t * t ≤ n then t else r)

/-- `frcp` (10 R280). -/
def sfuRcp (a : Nat) : Nat :=
  match f32F.decFloat a with
  | .nan => nan32
  | .inf s => neg32 s 0
  | .fin s m x =>
    if m = 0 then inf32 s
    else within1 (Config.frcp (BitVec.ofNat 32 a)).toNat s ⟨2 ^ 64 / m, -64 - x, decide (2 ^ 64 % m ≠ 0)⟩

/-- A magnitude with an even exponent. -/
def evenExp (m : Nat) (x : Int) : Nat × Int := if x % 2 = 0 then (m, x) else (2 * m, x - 1)

/-- `frsq` (10 R280). -/
def sfuRsq (a : Nat) : Nat :=
  match f32F.decFloat a with
  | .nan => nan32
  | .inf s => if s then nan32 else 0
  | .fin s m x =>
    if m = 0 then inf32 s
    else if s then nan32
    else
      let (m, x) := evenExp m x
      let q := isqrt (2 ^ 128 / m) 65 0
      within1 (Config.frsq (BitVec.ofNat 32 a)).toNat false ⟨q, -64 - x / 2, decide (q * q * m ≠ 2 ^ 128)⟩

/-- `fsqrt`, correctly rounded (10 R280). -/
def sfuSqrt (a : Nat) : Nat :=
  match f32F.decFloat a with
  | .nan => nan32
  | .inf s => if s then nan32 else a
  | .fin s m x =>
    if m = 0 then a
    else if s then nan32
    else
      let (m, x) := evenExp m x
      let n := m * 2 ^ 80
      let q := isqrt n 53 0
      f32F.encFloat .rne false false ⟨q, x / 2 - 40, decide (q * q ≠ n)⟩

/-- The terms `t r^k / k!` of a series in fixed point, with alternating signs when `alt`. -/
def expTerms (alt : Bool) (r : Nat) : Nat → Nat → Nat → Int
  | 0, _, _ => 0
  | n + 1, k, t =>
    (if alt && k % 2 == 1 then -(t : Int) else (t : Int)) + expTerms alt r n (k + 1) (t * r / (one192 * (k + 1)))

/-- e^(r / 2^192), or e^(−r / 2^192), in fixed point, for r below ln 2. -/
def expFix (alt : Bool) (r : Nat) : Nat := (expTerms alt r 60 0 one192).toNat

/-- 2^v as a magnitude, for a value of moderate size. -/
def exp2Mag (s : Bool) (m : Nat) (x : Int) : Mag :=
  let t := signed s (m * 2 ^ (x + 192).toNat)
  let i := t / (one192 : Int)
  let f := (t % (one192 : Int)).toNat
  ⟨expFix false (f * ln2 / one192), i - 192, decide (f ≠ 0)⟩

/-- round(2^t, f32, rne) of an f32 value (10 R279, R280). -/
def exp2Round (v : Val) : Nat :=
  match v with
  | .nan => nan32
  | .inf s => if s then 0 else inf32 false
  | .fin s m x =>
    if m = 0 then 0x3F800000
    else if 9 ≤ (Nat.log2 m : Int) + x then (if s then 0 else inf32 false)
    else f32F.encFloat .rne false false (exp2Mag s m x)

def sfuExp2 (a : Nat) : Nat := exp2Round (f32F.decFloat a)

/-- `exp2s` (10 R279). -/
def sfuExp2s (a b c : Nat) : Nat :=
  let t := vadd .rne (vmul (f32F.decFloat a) (f32F.decFloat b)) (vneg (f32F.decFloat c))
  exp2Round (f32F.decFloat (f32F.encVal .rne false t))

/-- Bits of log2 of a fixed-point number in [1, 2). -/
def log2Bits : Nat → Nat → Nat
  | 0, _ => 0
  | n + 1, y =>
    let z := y * y / one192
    if 2 * one192 ≤ z then 2 ^ n + log2Bits n (z / 2) else log2Bits n z

/-- floor(log2(m × 2^x) × 2^80). -/
def log2Fix (m : Nat) (x : Int) : Int :=
  let l := Nat.log2 m
  ((l : Int) + x) * (2 ^ 80 : Nat) + log2Bits 80 (m * 2 ^ (192 - l))

/-- `flog2` (10 R280). -/
def sfuLog2 (a : Nat) : Nat :=
  match f32F.decFloat a with
  | .nan => nan32
  | .inf s => if s then nan32 else a
  | .fin s m x =>
    let cand := (Config.flog2 (BitVec.ofNat 32 a)).toNat
    if m = 0 then inf32 true
    else if s then nan32
    else if a = 0x3F800000 then 0
    else
      let t := log2Fix m x
      let exact : Bool := m == 2 ^ Nat.log2 m
      if 0x3F000000 ≤ a ∧ a ≤ 0x40000000 then
        withinAbs cand (t * (2 ^ 112 : Nat)) ((t + 2 * b2n (!exact)) * (2 ^ 112 : Nat)) 22
      else
        if t < 0 then withinUlps 1 cand true ⟨t.natAbs - b2n (!exact), -80, !exact⟩
        else withinUlps 1 cand false ⟨t.natAbs, -80, !exact⟩

/-- Terms of the sine (from `k = 1`) or cosine (from `k = 0`) series in fixed point. -/
def trigTerms (r : Nat) : Nat → Nat → Nat → Int
  | 0, _, _ => 0
  | n + 1, k, t =>
    (if k / 2 % 2 = 0 then (t : Int) else -(t : Int))
      + trigTerms r n (k + 2) (t * r / (one192 * (k + 1)) * r / (one192 * (k + 2)))

/-- sin or cos of a magnitude in fixed point. -/
def trigFix (cos : Bool) (m : Nat) (x : Int) : Int :=
  let n := if -320 ≤ x then m * 2 ^ (x + 320).toNat else m / 2 ^ (-320 - x).toNat
  let k := n / halfPi % 4 + b2n cos
  let r := n % halfPi / 2 ^ 128
  let v := if k % 2 = 0 then trigTerms r 40 1 r else trigTerms r 40 0 one192
  if k / 2 % 2 = 0 then v else -v

/-- Two fixed-point values between which the sine or cosine of a magnitude lies: that of a small one is not above its series. -/
def trigRange (cos : Bool) (m : Nat) (x : Int) : Int × Int :=
  let t := trigFix cos m x
  if m = 0 then (t, t) else (t - 4096, if (Nat.log2 m : Int) + x < -60 then t else t + 4096)

/-- `fsin` (10 R280). -/
def sfuSin (a : Nat) : Nat :=
  match f32F.decFloat a with
  | .fin s m x =>
    if m = 0 then a
    else
      let (lo, hi) := trigRange false m x
      withinAbs (Config.fsin (BitVec.ofNat 32 a)).toNat (if s then -hi else lo) (if s then -lo else hi) 21
  | _ => nan32

/-- `fcos` (10 R280). -/
def sfuCos (a : Nat) : Nat :=
  match f32F.decFloat a with
  | .fin _ m x =>
    let (lo, hi) := trigRange true m x
    withinAbs (Config.fcos (BitVec.ofNat 32 a)).toNat lo hi 21
  | _ => nan32

/-- tanh of a fixed-point magnitude, in fixed point. -/
def tanhFix (z : Nat) : Nat :=
  let u := expFix true (2 * z % ln2) / 2 ^ (2 * z / ln2)
  (one192 - u) * one192 / (one192 + u)

/-- `ftanh` (10 R280): within 2 ulp, magnitude at most 1. -/
def sfuTanh (a : Nat) : Nat :=
  match f32F.decFloat a with
  | .nan => nan32
  | .inf s => neg32 s 0x3F800000
  | .fin s m x =>
    if m = 0 then a
    else
      let c := a % 2 ^ 31
      let v : Mag :=
        if 0x41800000 ≤ c then ⟨2 ^ 64 - 1, -64, true⟩
        else if c < 0x39000000 then ⟨m * 2 ^ 8 - 1, x - 8, true⟩
        else ⟨tanhFix (m * 2 ^ (x + 192).toNat), -192, true⟩
      let cand := (Config.ftanh (BitVec.ofNat 32 a)).toNat
      if cand % 2 ^ 31 ≤ 0x3F800000 then withinUlps 2 cand s v else f32F.encFloat .rne false s v

end Sys2Proof.Machine
end

