-- ==== Sys2Proof/Machine/CopyEngine.lean ====
section
/-!
DEFINITION. The copy engine (15 R431 to R440, 07 R165, R166, 02 R57 to R60): request and chain records, `cpyk`, the
movement of elements, parking and replay, count-downs and completion.
-/
namespace Sys2Proof.Machine

/-! Formats of a request. -/

/-- Formats of the source and the destination of a request. -/
def State.fmtS (s : State) (c : Copy) : Fmt := (s.image c.imgS).fmt
def State.fmtD (s : State) (c : Copy) : Fmt := (s.image c.imgD).fmt

/-- The iterator whose INDEX a request starts at, with its format (15 R433). -/
def State.driving (s : State) (c : Copy) : Iter × Fmt :=
  match c.kind with
  | .copy | .transform | .gather | .fill => (c.dst, s.fmtD c)
  | .scatter | .tileLoad | .tileStore | .sparse | .window => (c.src, s.fmtS c)

/-- INDEX of a trap for a unit (05 R133, 15 R433): the index counters of the driving iterator in elements; for a window
load its column and row. -/
def State.indexFor (s : State) (c : Copy) (u : Nat) : List Nat :=
  let d := s.driving c
  match c.kind with
  | .window =>
    match tget s.bufs c.buf with
    | some b => let k := tileK b.cw d.2; [u % k, u / k, 0, 0]
    | none => [0, 0, 0, 0]
  | _ =>
    match indexOf (d.1.ext d.2) u with
    | i0 :: t => i0 * d.2.per :: t
    | [] => []

/-! Reaching bytes for a request. -/

/-- What stands in the way of the engine's access to a range: the window area of the kicking team, or a place in the
context's address space. -/
def State.copyTouch (s : State) (c : Copy) (va n : Nat) (acs : Acs) : Touch × State :=
  if inWindow va then
    match tget s.teams c.team with
    | none => (.fail 0x0C va, s)
    | some t =>
      let off := va % 2 ^ 40
      if off < t.scr ∨ t.scr + (s.grid t.grid).lrec.scratch < off + n then (.fail 0x0C va, s)
      else (.ok [(.scr c.core off, n)], s)
  else s.reach c.vd c.ctx va n acs

/-- What moving one unit comes to. -/
inductive Unit1 where
  | done (s : State)
  | discard (s : State)
  | fail (cause addr : Nat) (s : State)
  | park (addr : Nat) (s : State)
  /-- it waits, here or for a peer it has asked, by its access to an address, which writes or does not -/
  | hold (st : OpSt) (left : Left) (va : Nat) (wr : Bool) (s : State)
  deriving Repr

/-- What an access of a unit comes to that has not been answered. -/
def asked (va : Nat) (wr : Bool) : Att × State → Unit1
  | (.hold st left, s) => .hold st left va wr s
  | (.done _, s) => .done s
  | (.fail cs ad, s) => .fail cs ad s
  | (.park ad _, s) => .park ad s

/-- What peers have answered for an access of a unit. -/
def farOf1 (ans : List FarAns) (va : Nat) (wr : Bool) : Option FarAns := ans.find? fun x => x.va == va && x.wr == wr

/-- Bytes read for a unit: local ones at once, remote ones from what peers have answered so far. -/
def copyRead (c : Copy) (va n : Nat) (s : State) (ans : List FarAns) (k : State → List Byte → Unit1) : Unit1 :=
  match farOf1 ans va false with
  | some x => k s (joinParts x.left.far x.left.here x.data)
  | none =>
    match s.copyTouch c va n .r with
    | (.ok l, s) => k s (s.readChunks l)
    | (.remote parts, s) => asked va false (s.askPeers c.vd va 0 parts (farParts parts .load) fun s => s)
    | (.fail cs ad, s) => .fail cs ad s
    | (.park ad, s) => .park ad s
    | (.hold st, s) => .hold st {} va false s

/-- `w` bits at a bit address read. -/
def copyBits (c : Copy) (b w : Nat) (s : State) (ans : List FarAns) (k : State → Nat → Unit1) : Unit1 :=
  copyRead c (b / 8) (elemBytes b w) s ans fun s bs => k s (bitsAt bs (b % 8) w)

/-- `w` bits at a bit address written as one single-copy-atomic write (08 R225). -/
def copyPut (c : Copy) (b w code : Nat) (s : State) (ans : List FarAns) : Unit1 :=
  match farOf1 ans (b / 8) true with
  | some _ => .done s
  | none =>
    match s.copyTouch c (b / 8) (elemBytes b w) .w with
    | (.ok l, s) => .done (s.writeChunks l (putBits (s.readChunks l) (b % 8) w code))
    | (.remote parts, s) => asked (b / 8) true (s.writeFar c.vd (b / 8) 0 (b % 8) w code false parts)
    | (.fail cs ad, s) => .fail cs ad s
    | (.park ad, s) => .park ad s
    | (.hold st, s) => .hold st {} (b / 8) true s

/-- The bit address of a unit of an iterator. -/
def Iter.unitAddr (it : Iter) (f : Fmt) (u : Nat) : Nat := (it.bitAddr f (indexOf (it.ext f) u)).toNat

/-- Units of an iterator read in order. -/
def copyUnits (c : Copy) (it : Iter) (f : Fmt) : List Nat → State → List FarAns → List Nat → (State → List Nat → Unit1) → Unit1
  | [], s, _, acc, k => k s acc.reverse
  | u :: us, s, ans, acc, k =>
    copyBits c (it.unitAddr f u) f.unitBits s ans fun s x => copyUnits c it f us s ans (x :: acc) k

/-! Transform (15 R433, R434). -/

/-- One operation of a chain on f32 codes: `x` the decoded element, `v` the running value. -/
def chainStep (ss ds : Word) (x v : Nat) (e : Nat × Nat × Word) : Nat :=
  let w :=
    match e.2.1 with
    | 0 => e.2.2.toNat
    | 1 => x
    | 2 => ss.toNat
    | _ => ds.toNat
  match e.1 with
  | 1 => f32F.add .rne v w
  | 2 => f32F.sub .rne v w
  | 3 => f32F.mul .rne v w
  | 4 => f32F.minmax true v w
  | 5 => f32F.minmax false v w
  | 6 => v % 2 ^ 31
  | 7 => sfuExp2 v
  | _ => sfuRcp v

/-- Element `e` of a unit read from the source. -/
def sourceVal (c : Copy) (f : Fmt) (unit e : Nat) : Val :=
  let code := if f.isBlock then bits unit (8 * f.nse + e % 32 * f.w) f.w else unit
  f.decode code c.src.extra (bits unit 0 8) (if f.nse = 2 then bits unit 8 8 else 0)

/-- What a transform encodes for an element, with the f32 pattern of 10 R267: the chain works on f32 values; without one
the value is encoded as it is, by one rounding (10 R274, log 42). -/
def chained (c : Copy) (v : Val) : Val × Option Nat :=
  if c.chain.isEmpty then (v, f32Pattern v)
  else
    let x := f32F.encVal .rne false v
    let y := c.chain.foldl (chainStep c.src.scale c.dst.scale x) x
    (f32F.decFloat y, some y)

/-- The codes of a block as one unit of memory: its exponent bytes, then its elements. -/
def packBlock (f : Fmt) (b : Nat × Nat × List Nat) : Nat :=
  (b.1 + 256 * b.2.1) % 2 ^ (8 * f.nse) +
    2 ^ (8 * f.nse) * (b.2.2.foldr (fun code acc => code % 2 ^ f.w + 2 ^ f.w * acc) 0)

/-- The unit a transform writes from the elements it has read. -/
def transformed (c : Copy) (f : Fmt) (xs : List (Val × Option Nat)) : Nat :=
  if f.isBlock then packBlock f (f.encBlock c.rm c.sat (xs.map (·.1)))
  else
    let x := xs.getD 0 (.nan, none)
    f.encode c.rm c.sat x.1 x.2 c.dst.extra

/-- A unit taken to its own format: unchanged but for NaN, a NaN block becoming the canonical one, and the negative-zero
code of a format with NZ = 1 (10 R274). -/
def sameUnit (c : Copy) (f : Fmt) (x : Nat) : Nat :=
  if f.isBlock then
    if f.nanBlock (bits x 0 8) (if f.nse = 2 then bits x 8 8 else 0) then 2 ^ (8 * f.nse) - 1 else x
  else f.sameCode c.rm c.sat x c.src.extra c.dst.extra

/-! One unit (15 R433). -/

/-- The index of an element, 32 bits at AUX (15 R433). -/
def copyIdx (c : Copy) (u : Nat) (s : State) (ans : List FarAns) (k : State → Nat → Unit1) : Unit1 :=
  copyRead c ((c.aux + 4 * u) % 2 ^ 57) 4 s ans fun s bs => k s (ofBytes bs)

/-- The fill code over a unit: of a block, the codes of its elements only. -/
def copyFill (c : Copy) (f : Fmt) (u : Nat) (s : State) (ans : List FarAns) : Unit1 :=
  let code := c.aux % 2 ^ f.w
  if f.isBlock then
    copyPut c (c.dst.unitAddr f u + 8 * f.nse) (32 * f.w)
      ((List.replicate 32 code).foldr (fun x acc => x + 2 ^ f.w * acc) 0) s ans
  else copyPut c (c.dst.unitAddr f u) f.w code s ans

/-- A sparse-reduce operator on two words (02 R57, R59). -/
def sparseApply (op : SparseOp) (x y : Nat) : Nat :=
  match op with
  | .iadd => (x + y) % 2 ^ 32
  | .imax => if sextInt x 32 < sextInt y 32 then y else x
  | .fadd => f32F.add .rne x y
  | .fmax => f32F.minmax true x y

/-- The port that carries a pair: the trained ports take turns by its index (02 R57). -/
def State.pairPort (s : State) (idx : Nat) : Nat := s.trained.getD (idx % s.trained.length) 0

/-- A pair sent to the peer of its element, once the fabric regulator lets it through: 8 bytes (02 R57, 03 R76). -/
def State.sendPair (s : State) (c : Copy) (va idx v : Nat) (parts : List (Option Nat × Nat × Nat)) : Unit1 :=
  let p := (parts.find? fun p => p.1.isSome).getD (none, 0, 0)
  let dev := p.1.getD 0
  if !s.peersUp parts then .fail 0x16 va s
  else
    match s.letIn c.vd 12 8 with
    | none => .hold (s.enqueue c.vd 12) {} va true (s.markHeld c.vd)
    | some s =>
      .hold (.remote dev (s.pairPort idx)) {} va true
        (s.send (.sparse (s.pairPort idx) dev c.vd p.2.1 c.rop idx (BitVec.ofNat 32 v)))

/-- A pair applied at its destination: as one atomic update where it is local, by a peer otherwise (02 R57, R58). -/
def copyPair (c : Copy) (idx v : Nat) (s : State) (ans : List FarAns) : Unit1 :=
  let va := (c.dst.base + 4 * idx) % 2 ^ 57
  match farOf1 ans va true with
  | some _ => .done s
  | none =>
    match s.copyTouch c va 4 .w with
    | (.ok l, s) => .done (s.writeChunks l (bytesOf (sparseApply c.rop (ofBytes (s.readChunks l)) v) 4))
    | (.remote parts, s) => s.sendPair c va idx v parts
    | (.fail cs ad, s) => .fail cs ad s
    | (.park ad, s) => .park ad s
    | (.hold st, s) => .hold st {} va true s

/-- A unit put into the tile buffer of a request. -/
def State.copyTile (s : State) (c : Copy) (f : Buf → Nat) : Unit1 :=
  match tget s.bufs c.buf with
  | some b => .done (s.setBuf c.buf { b with data := f b })
  | none => .done s

/-- An element of a window load (15 R423). -/
def copyWin (c : Copy) (f : Fmt) (u : Nat) (s : State) (ans : List FarAns) : Unit1 :=
  match tget s.bufs c.buf with
  | none => .done s
  | some b =>
    let k := tileK b.cw f
    let put (s : State) (x : Nat) := s.copyTile c fun b => putCont b b.data f (u / k) (u % k) x
    match c.win.bitAddr f.w (u / k) (u % k) with
    | none => put s (c.win.padv % 2 ^ f.w)
    | some ba =>
      if ba < 0 then .fail 0x0B (truncInt (ba / 8) 64) s
      else copyBits c ba.toNat f.w s ans put

/-- One unit of a request moved, given what peers have answered for it. -/
def moveUnit (c : Copy) (u : Nat) (s : State) (ans : List FarAns) : Unit1 :=
  let fs := s.fmtS c
  let fd := s.fmtD c
  match c.kind with
  | .copy =>
    copyBits c (c.src.unitAddr fs u) fs.unitBits s ans fun s x => copyPut c (c.dst.unitAddr fd u) fd.unitBits x s ans
  | .transform =>
    if c.chain.isEmpty && fs == fd then
      copyBits c (c.src.unitAddr fs u) fs.unitBits s ans fun s x =>
        copyPut c (c.dst.unitAddr fd u) fd.unitBits (sameUnit c fd x) s ans
    else
      let els := upFrom (u * fd.per) fd.per
      let first := u * fd.per / fs.per
      copyUnits c c.src fs (els.map fun e => e / fs.per).eraseDups s ans [] fun s xs =>
        copyPut c (c.dst.unitAddr fd u) fd.unitBits
          (transformed c fd (els.map fun e => chained c (sourceVal c fs (xs.getD (e / fs.per - first) 0) e))) s ans
  | .gather =>
    copyIdx c u s ans fun s i =>
      if c.src.total fs ≤ i then .fail 0x0C ((c.aux + 4 * u) % 2 ^ 57) s
      else
        copyBits c (c.src.unitAddr fs i) fs.unitBits s ans fun s x => copyPut c (c.dst.unitAddr fd u) fd.unitBits x s ans
  | .scatter =>
    copyIdx c u s ans fun s i =>
      if c.dst.total fd ≤ i then .fail 0x0C ((c.aux + 4 * u) % 2 ^ 57) s
      else
        copyBits c (c.src.unitAddr fs u) fs.unitBits s ans fun s x => copyPut c (c.dst.unitAddr fd i) fd.unitBits x s ans
  | .fill => copyFill c fd u s ans
  | .tileLoad =>
    copyBits c (c.src.unitAddr fs u) fs.unitBits s ans fun s x =>
      let idx := indexOf (c.src.ext fs) u
      s.copyTile c fun b => putUnit b fs (c.src.row idx) (idx.getD 0 0) x b.data
  | .tileStore =>
    let idx := indexOf (c.src.ext fs) u
    match tget s.bufs c.buf with
    | none => .done s
    | some b =>
      let e := b.lacksExps fs
      copyPut c (c.src.unitAddr fs u + e) (fs.unitBits - e) (getUnit b fs (c.src.row idx) (idx.getD 0 0) / 2 ^ e) s ans
  | .window => copyWin c fs u s ans
  | .sparse =>
    copyIdx c u s ans fun s i =>
      if c.dst.shape.getD 0 0 ≤ i then .discard s
      else copyBits c (c.src.unitAddr fs u) fs.unitBits s ans fun s x => copyPair c i x s ans

/-! Faults of elements (07 R165, R166). -/

/-- The thread that takes a request's engine traps: the kicking one, else the running one of its team with the lowest
index (07 R165); the same thread takes item reports (07 R166, log 42). -/
def State.trapThread (s : State) (c : Copy) : Option Nat :=
  match (tget s.agents c.agent).filter fun a => !a.ended with
  | some _ => some c.agent
  | none =>
    (s.agents.filter fun (_, a) => !a.id.seq && a.id.team == c.team).foldl (fun m (i, a) =>
      match m with
      | some j => if a.id.tid < ((tget s.agents j).map (·.id.tid)).getD 0 then some i else m
      | none => some i) none

/-- An engine trap of a request becomes due in its thread. -/
def State.engineTrap (s : State) (id : Nat) (c : Copy) (f : FaultInfo) : State :=
  match s.trapThread c with
  | none => s
  | some i =>
    match tget s.agents i with
    | none => s
    | some a =>
      let (n, s) := s.newId
      s.setAgent i { a with flt := { a.flt with
        engine := a.flt.engine ++ [⟨id * 2 ^ 40 + n, false, { f with eng := true, pc := c.pc, iword := c.iword }⟩] } }

/-- The item report of a request: a trap without replay (07 R166). -/
def State.itemReport (s : State) (id : Nat) (c : Copy) (cause addr : Nat) (index : List Nat) : State :=
  if c.irep then s.engineTrap id c { cause, addr := BitVec.ofNat 64 addr, index } else s

/-- The first failed unit in iteration order. -/
def firstOf (u cause : Nat) : Option (Nat × Nat) → Option (Nat × Nat)
  | some (v, k) => if u < v then some (u, cause) else some (v, k)
  | none => some (u, cause)

/-- A unit has failed: it is counted, and reported when the request asks for it. -/
def State.failUnit (s : State) (id u cause addr : Nat) : State :=
  match tget s.copies id with
  | none => s
  | some c =>
    let s := s.setCopy id { c with
      failed := c.failed + 1, finished := c.finished + 1, firstFail := firstOf u cause c.firstFail, asking := none
      answers := [], wait := none }
    s.itemReport id c cause addr (s.indexFor c u)

/-- Bytes of the units that have finished counted down on the request's barrier object (15 R436). A count-down below
zero fails the element whose bytes it covers. -/
def State.countDown (s : State) (id u upTo : Nat) : State :=
  match tget s.copies id with
  | none => s
  | some c =>
    match c.bar with
    | none => s
    | some off =>
      let n := upTo - c.counted
      if n = 0 then s
      else
        let s := s.setCopy id { c with counted := upTo }
        match barCount (s.barAt c.core off) n with
        | some b => s.putBar c.core off b
        | none =>
          let c := { c with counted := upTo, failed := c.failed + 1, firstFail := firstOf u 0x1A c.firstFail }
          (s.setCopy id c).itemReport id c 0x1A (0x1FFFF * 2 ^ 40 + off) (s.indexFor c u)

/-- The count-down that follows a unit: whole bytes of the finished units, the last of them left to the completion. -/
def State.countUnit (s : State) (id u : Nat) : State :=
  match tget s.copies id with
  | none => s
  | some c => s.countDown id u (min (c.finished * c.unit / 8) (c.bytes - 1))

/-- Entries of the replay queue of a core that are taken: by parked units, and by units to be replayed (07 R165). -/
def State.parkedOn (s : State) (core : Nat) : Nat :=
  (s.copies.map fun (_, c) => if c.core = core ∧ !c.saved then c.parked.length + c.redo.length else 0).sum

/-- Since when a request waits by its access to an address for a unit. -/
def State.askedSince (s : State) (c : Copy) (u va : Nat) (wr : Bool) (st : OpSt) : Nat :=
  match c.wait with
  | some old => if c.asking = some u ∧ c.askVa = va ∧ c.askWr = wr then s.waitsSince old st c.askAt else s.now
  | none => s.now

/-- A unit of a request waits. -/
def State.unitWaits (s : State) (id u : Nat) (ans : List FarAns) (st : OpSt) (left : Left) (va : Nat) (wr : Bool) : State :=
  match tget s.copies id with
  | none => s
  | some c =>
    s.setCopy id { c with
      asking := some u, answers := ans, wait := some st, askVa := va, askWr := wr, askLeft := left
      askAt := s.askedSince c u va wr st }

/-- A unit parks, or waits while the replay queue of the core is full; the first one to park while no trap of the request
is out raises one. -/
def State.parkUnit (s : State) (id u addr : Nat) : State :=
  match tget s.copies id with
  | none => s
  | some c =>
    match s.trapThread c with
    | none => (s.failUnit id u 0x0B addr).countUnit id u
    | some _ =>
      if 64 ≤ s.parkedOn c.core then s.unitWaits id u [] .held {} addr false
      else
      let s := s.setCopy id { c with parked := c.parked ++ [u], trapOut := true, asking := none, answers := [], wait := none }
      if c.trapOut then s
      else s.engineTrap id c { cause := 0x0B, repl := true, addr := BitVec.ofNat 64 addr, index := s.indexFor c u }

/-- A unit of a request moved, or what holds it. -/
def State.runUnit (s : State) (id u : Nat) (ans : List FarAns) : State :=
  match tget s.copies id with
  | none => s
  | some c =>
    let fin (s : State) (d : Nat) : State :=
      match tget s.copies id with
      | none => s
      | some c =>
        (s.setCopy id { c with finished := c.finished + 1, discard := c.discard + d, asking := none, answers := [], wait := none
          }).countUnit id u
    match moveUnit c u s ans with
    | .done s => fin s 0
    | .discard s => fin s 1
    | .fail cs ad s => (s.failUnit id u cs ad).countUnit id u
    | .park ad s => s.parkUnit id u ad
    | .hold st left va wr s => s.unitWaits id u ans st left va wr

/-- Parked units of a request fail one after another, when no thread is left to replay them. -/
def State.failParked (s : State) (id : Nat) : List Nat → State
  | [] => s
  | u :: us => ((s.failUnit id u 0x0B 0).countUnit id u).failParked id us

/-- Nothing outside the engine holds the unit a request waits with: no peer, no regulator (03 R76). -/
def Copy.idle (c : Copy) : Bool :=
  match c.wait with
  | some (.remote _ _) | some (.regul _ _) => false
  | _ => true

/-! Completion (15 R437, R438). -/

/-- Every unit has been written, has failed or has been discarded. -/
def Copy.finishedAll (c : Copy) : Bool := decide (c.total ≤ c.next) && c.redo.isEmpty && c.parked.isEmpty && c.asking.isNone

/-- The final value of STATUS. -/
def Copy.status (c : Copy) (stale : Bool) : Nat :=
  let cause := match c.firstFail with | some f => f.2 | none => if stale then 0x08 else 0
  (if c.failed = 0 then 2 else 3) + 16 * b2n stale + 256 * (cause % 256) + 65536 * min c.failed (2 ^ 24 - 1)
    + 2 ^ 40 * min c.discard (2 ^ 24 - 1)

/-- A request that is over is no longer active. -/
def State.copyGone (s : State) (id : Nat) (c : Copy) : State :=
  ((({ s with copies := tdel s.copies id } : State).leaveQueues id).sweepBufs).teamCheck c.team

/-- The add to the completion counter fails: the request's item report tells (07 R166). -/
def State.counterFails (s : State) (id : Nat) (c : Copy) (cause addr : Nat) : State :=
  (s.itemReport id c cause addr [0, 0, 0, 0]).copyGone id c

/-- The add to the completion counter waits. -/
def State.counterWaits (s : State) (id : Nat) (c : Copy) (st : OpSt) : State :=
  s.setCopy id { c with
    counting := true, asking := some c.total, wait := some st, askVa := c.ctr, askWr := true, askLeft := {}
    askAt := s.askedSince c c.total c.ctr true st }

/-- The last step of a completion: an add of 1 to the request's counter, as `ctadd` (15 R437). -/
def State.copyCount (s : State) (id : Nat) : State :=
  match tget s.copies id with
  | none => s
  | some c =>
    if c.ctr = 0 then s.copyGone id c
    else
      match s.copyTouch c c.ctr 8 .w with
      | (.ok l, s) => (s.writeChunks l (bytesOf (satAdd (ofBytes (s.readChunks l)) 1) 8)).copyGone id c
      | (.remote parts, s) =>
        if s.siteOf c.vd c.ctx c.scope ≠ 3 then s.counterFails id c 0x0C c.ctr
        else if !s.peersUp parts then s.counterFails id c 0x16 c.ctr
        else
          let r := s.sendPeers c.vd (farParts parts fun pa _ => .ctadd pa 1 c.rel)
          r.2.2.counterWaits id c r.2.1
      | (.fail cs ad, s) => s.counterFails id c cs ad
      | (.park ad, s) => s.counterFails id c 0x0B ad
      | (.hold st, s) => s.counterWaits id c st

/-- The release of a request meets its scope entry: `none` while the entry is PENDING, otherwise whether the entry is
stale (09 R235). -/
def State.copyRelease (s : State) (c : Copy) : Option Bool :=
  if !c.rel ∨ c.scope < 6 then some false
  else
    match (s.scope c.vd c.ctx c.scope).st with
    | .pending => none
    | .invalid => some true
    | .valid => some false

/-- EXTRA of the tile a request has loaded (15 R422, R423). -/
def State.copyExtra (s : State) (c : Copy) : State :=
  match c.kind with
  | .tileLoad => s.setExtra c.buf (if c.src.hdren then some c.src.extra else none)
  | .window => s.setExtra c.buf (some c.win.extra)
  | .copy | .transform | .gather | .scatter | .fill | .tileStore | .sparse => s

/-- A request completes: release, last count-down, STATUS, counter; then it is no longer active (15 R437). -/
def execCopyRequestComplete (copy : Nat) (s : State) : Out :=
  match tget s.copies copy with
  | none => .next s
  | some c =>
    if c.saved || !c.finishedAll || !s.atWork c.core then .next s
    else
      match s.copyRelease c with
      | none => .next s
      | some stale =>
        let s := if stale then s.itemReport copy c 0x08 c.scope [0, 0, 0, 0] else s
        let s := (s.copyExtra c).countDown copy (c.total - 1) c.bytes
        let c := (tget s.copies copy).getD c
        .next ((s.write (.scr c.core (c.recAt + 0x28)) (bytesOf (c.status stale) 8)).copyCount copy)

/-! The engine. -/

/-- A unit that waited fails: one of the elements, or the add to the counter. -/
def State.waitFails (s : State) (id u cause : Nat) (c : Copy) : State :=
  if c.counting then s.counterFails id c cause c.ctr else (s.failUnit id u cause c.askVa).countUnit id u

/-- A unit of a request goes on with what peers have answered. -/
def State.unitGoes (s : State) (id u : Nat) (ans : List FarAns) : State :=
  match tget s.copies id with
  | none => s
  | some c =>
    if !c.counting then s.runUnit id u ans else if ans.isEmpty then s.copyCount id else s.copyGone id c

/-- The engine's next unit of a request: one that waits for a place to be reached, one replayed, or the next one; none
while the replay queue of the core is full, the device is paused (03 R88), or the island does not work (01 R24, R30). -/
def execCopyElement (copy : Nat) (s : State) : Out :=
  match tget s.copies copy with
  | none => .next s
  | some c =>
    if c.saved || decide (2 ≤ (s.vd c.vd).shed) || !s.atWork c.core then .next s
    else if !c.parked.isEmpty && (s.trapThread c).isNone then
      .next ((s.setCopy copy { c with parked := [] }).failParked copy c.parked)
    else
      match c.asking with
      | some u =>
        match c.wait with
        | some (.ready ws) => .next (s.waitFails copy u (ws.getD 0 0).toNat c)
        | _ =>
          if c.idle then
            match s.usePlanes (cobOfCore c.core) copy (if c.counting then [] else c.images) with
            | (false, s) => .next s
            | (true, s) => .next (s.unitGoes copy u c.answers)
          else .next s
      | none =>
        if c.redo.isEmpty && (decide (c.total ≤ c.next) || decide (64 ≤ s.parkedOn c.core)) then .next s
        else
        match s.usePlanes (cobOfCore c.core) copy c.images with
        | (false, s) => .next s
        | (true, s) =>
          match c.redo with
          | u :: us => .next ((s.setCopy copy { c with redo := us }).runUnit copy u [])
          | [] => .next ((s.setCopy copy { c with next := c.next + 1 }).runUnit copy c.next [])

/-- The answer of a peer to what a request waits for. -/
def Copy.answered (c : Copy) (bs : List Byte) : List FarAns := c.answers ++ [⟨c.askVa, c.askWr, c.askLeft, bs⟩]

/-- What a peer answers for the unit of a saved request is kept until the request resumes: the unit is no longer detached
(07 R184). -/
def Copy.keepReply (c : Copy) (r : Reply) : Copy :=
  match r with
  | .fixed => { c with answers := c.answered [], wait := some .held, det := false }
  | .data bs => { c with answers := c.answered bs, wait := some .held, det := false }
  | .failed cause => { c with wait := some (.ready [BitVec.ofNat 32 cause.toNat]), det := false }

/-- The same, and a rebind that waited for the unit goes on (04 R105). -/
def State.replyKept (s : State) (id : Nat) (c : Copy) (r : Reply) : State :=
  (s.setCopy id (c.keepReply r)).settleRebinds c.vd c.ctx

/-- A peer's answer for a unit arrives, or its failure. -/
def State.copyReply (s : State) (id u : Nat) (r : Reply) : State :=
  match tget s.copies id with
  | none => s
  | some c =>
    if c.asking ≠ some u ∨ !(c.wait.any OpSt.isRemote) then s
    else if c.saved then s.replyKept id c r
    else
      let s := s.setCopy id { c with det := false, wait := some .held }
      match r with
      | .fixed => s.unitGoes id u (c.answered [])
      | .data bs => s.unitGoes id u (c.answered bs)
      | .failed cause => s.waitFails id u cause.toNat c

/-! The records of a request (15 R432, R434). -/

/-- The kind of a request by its OP. -/
def copyKindOf : Nat → Option CopyKind
  | 0 => some .copy
  | 1 => some .transform
  | 2 => some .gather
  | 3 => some .scatter
  | 4 => some .fill
  | 5 => some .tileLoad
  | 6 => some .tileStore
  | 7 => some .window
  | 8 => some .sparse
  | _ => none

/-- The kinds that move a tile. -/
def CopyKind.tile : CopyKind → Bool
  | .tileLoad | .tileStore | .window => true
  | .copy | .transform | .gather | .scatter | .fill | .sparse => false

/-- The records a request names, and whether one of them is malformed. -/
structure Recs where
  src : Iter := {}
  dst : Iter := {}
  win : Win := {}
  chain : List (Nat × Nat × Word) := []
  bad : Bool := false
  deriving DecidableEq, Repr

/-- The entries of a chain record up to its stop. -/
def chainOf (x : Nat) : Nat → List (Nat × Nat × Word)
  | 0 => []
  | n + 1 => if bits x 0 8 = 0 then [] else (bits x 0 8, bits x 8 8, BitVec.ofNat 32 (bits x 32 32)) :: chainOf (x / 2 ^ 64) n

/-- An entry of a chain record breaks R434. -/
def chainBad (x : Nat) (src dst : Iter) : Nat → Bool
  | 0 => false
  | n + 1 =>
    let op := bits x 0 8
    let sel := bits x 8 8
    if op = 0 then false
    else
      decide (8 < op) || decide (3 < sel) || bits x 16 16 != 0
        || (decide (6 ≤ op) && (sel != 0 || bits x 32 32 != 0))
        || (sel == 2 && !src.hdren) || (sel == 3 && !dst.hdren) || chainBad (x / 2 ^ 64) src dst n

/-- A range of the agent's team area, by core offsets. -/
def State.inArea (s : State) (a : Agent) (off n : Nat) : Bool :=
  let (base, size) := s.areaOf a
  decide (base ≤ off) && decide (off + n ≤ base + size)

/-- The chain record of a request, where one applies. -/
def State.readChain (s : State) (a : Agent) (x : Nat) (r : Recs) : Recs :=
  if !bitAt x 10 then r
  else
    let off := fld x 0x1C 0 32
    if off % 64 ≠ 0 ∨ !s.inArea a off 64 then { r with bad := true }
    else
      let y := s.getNat (.scr a.pos.core off) 64
      { r with chain := chainOf y 8, bad := r.bad || chainBad y r.src r.dst 8 }

/-- The records of a request read (15 R435 step 3). -/
def onRecs (s : State) (a : Agent) (kind : CopyKind) (x : Nat) (k : State → Recs → Fx) : Fx :=
  let ma := fld x 8 0 57
  let mb := fld x 0x10 0 57
  match kind with
  | .copy | .gather =>
    onIter s a ma false fun s it b1 => onIter s a mb true fun s jt b2 => k s { src := it, dst := jt, bad := b1 || b2 }
  | .transform =>
    onIter s a ma false fun s it b1 => onIter s a mb true fun s jt b2 =>
      k s (s.readChain a x { src := it, dst := jt, bad := b1 || b2 })
  | .scatter | .sparse =>
    onIter s a ma true fun s it b1 => onIter s a mb false fun s jt b2 => k s { src := it, dst := jt, bad := b1 || b2 }
  | .fill => onIter s a mb true fun s jt b => k s { dst := jt, bad := b }
  | .tileLoad | .tileStore => onIter s a ma true fun s it b => k s { src := it, bad := b }
  | .window => onWin s a ma fun s w b => k s { win := w, bad := b }

/-- The slots a request captures (15 R435 step 5). -/
def copySlots (kind : CopyKind) (x : Nat) (r : Recs) : List Nat :=
  match kind with
  | .copy | .transform | .gather | .scatter => [r.src.slot, r.dst.slot]
  | .fill => [r.dst.slot]
  | .sparse => [r.src.slot]
  | .tileLoad | .tileStore | .window => [bits x 22 4]

/-- A reserved value in a request record (15 R432, R433). -/
def recordBad (kind : CopyKind) (x : Nat) : Bool :=
  let tr := kind == .transform
  let aux := fld x 0x38 0 64
  bits x 12 4 != 0 || bits x 32 32 != 0
    || (!kind.tile && bits x 22 4 != 0) || (!tr && (bits x 26 3 != 0 || bitAt x 10)) || decide (4 < bits x 26 3)
    || fld x 8 57 7 != 0 || fld x 0x10 57 7 != 0 || fld x 0x30 57 7 != 0
    || (kind == .fill && fld x 8 0 57 != 0) || (kind.tile && decide (256 ≤ fld x 0x10 0 57))
    || fld x 0x30 0 57 % 8 != 0
    || (match kind with
        | .gather | .scatter | .sparse => decide (2 ^ 57 ≤ aux)
        | .fill => decide (2 ^ 32 ≤ aux)
        | .copy | .transform | .tileLoad | .tileStore | .window => aux != 0)

/-- An iterator of a request breaks 15 R421. -/
def sideBad (it : Iter) (f : Fmt) (dst : Bool) : Bool := !it.blockOk f || !it.fits57 f || (dst && it.bcast != 0)

/-- Elements of an iterator. -/
def Iter.elements (it : Iter) : Nat := prodOf it.shape

/-- Records that do not fit together (15 R433, R435 step 7). -/
def pairBad (kind : CopyKind) (r : Recs) (fs fd : Fmt) : Bool :=
  let same := fs.w == fd.w && fs.isBlock == fd.isBlock && (!fs.isBlock || fs.nse == fd.nse)
  match kind with
  | .copy => sideBad r.src fs false || sideBad r.dst fd true || !same || r.src.total fs != r.dst.total fd
  | .transform => sideBad r.src fs false || sideBad r.dst fd true || r.src.elements != r.dst.elements
  | .gather | .scatter => sideBad r.src fs false || sideBad r.dst fd true || !same
  | .fill => sideBad r.dst fd true
  | .tileLoad => sideBad r.src fs false
  | .tileStore => sideBad r.src fs true
  | .window => fs.isBlock
  | .sparse =>
    sideBad r.src fs false || fs.isBlock || r.dst.bcast != 0 || !r.dst.fits57 {} || r.dst.shape.drop 1 != [1, 1, 1]

/-- The request as it becomes active (15 R435 step 8), with D of R436 for its bytes. -/
def copyOf (i : Nat) (a : Agent) (kind : CopyKind) (x recAt : Nat) (r : Recs) (slots : List Nat) (is id : Nat)
    (buf : Option (Nat × Buf)) (fs fd : Fmt) (pc iword : DWord) : Copy :=
  let cw := match buf with | some (_, b) => if b.acc then 32 else b.cw | none => 0
  let span : Nat × Nat × Nat :=
    match kind with
    | .copy | .transform | .gather | .fill => (r.dst.start fd, r.dst.total fd, fd.per * fd.w)
    | .scatter => (r.src.start fs, r.src.total fs, fd.per * fd.w)
    | .sparse => (r.src.start fs, r.src.total fs, 64)
    | .tileLoad | .tileStore => (r.src.start fs, r.src.total fs, fs.per * cw)
    | .window => (0, 64 * tileK cw fs, cw)
  let bar := fld x 0x18 0 32
  { agent := i, team := a.id.team, core := a.pos.core, vd := a.id.vd, ctx := a.id.ctx, recAt, kind
    rel := bitAt x 9, irep := bitAt x 11, scope := bits x 16 6, rm := (rmOf (bits x 26 3)).getD .rne, sat := bitAt x 29
    rop := sparseOf (bits x 30 2), src := r.src, dst := r.dst, win := r.win, buf := (buf.map (·.1)).getD 0
    imgS := is, imgD := id, slots, chain := r.chain, bar := if bar = 2 ^ 32 - 1 then none else some bar
    ctr := fld x 0x30 0 57, aux := fld x 0x38 0 64, next := span.1, total := span.2.1, unit := span.2.2
    bytes := ceilDiv ((span.2.1 - span.1) * span.2.2) 8, pc, iword }
where
  sparseOf : Nat → SparseOp
    | 0 => .iadd
    | 1 => .imax
    | 2 => .fadd
    | _ => .fmax

/-- BAR names no object the team can hold (15 R435 step 7). -/
def State.barBad (s : State) (a : Agent) (c : Copy) : Bool :=
  match c.bar with
  | none => false
  | some off => off % 16 != 0 || !s.inArea a off 16

/-! The instructions. -/

/-- The window address of a request record (15 R431). -/
def onRecord (x : Src) (s : State) (a : Agent) (k : Nat → Fx) : Fx :=
  onRd s a (a.src (addrOp x)) fun va =>
    if va % 64 ≠ 0 then .fault (faultAt s a 0x0A va)
    else if a.id.seq then .fault (faultAt s a 0x0C va)
    else if a.pos.away then .fault (faultAt s a 0x19 va)
    else if !inWindow va ∨ !s.inArea a (va % 2 ^ 40) 64 then .fault (faultAt s a 0x0C va)
    else k (va % 2 ^ 40)

/-- Step 6 of R435: the handle of a tile kind; `k` takes its buffer. -/
def onHandle (kind : CopyKind) (x : Nat) (r : Recs) (f : Fmt) (s : State) (i : Nat) (a : Agent)
    (k : Option (Nat × Buf) → Fx) : Fx :=
  if !kind.tile then k none
  else
    let hd := fld x 0x10 0 8
    let store := kind == .tileStore
    onName s a hd fun b t =>
      onUse s a hd (if store then .read else .write) t
        (if !(if kind = .window then t.matchesSlot f else t.fits r.src f) then .fault (faultAt s a 0x06 hd)
         else inTurn s i a b ⟨false, true, !store⟩ (k (some (b, t))))

/-- `cpyk` (15 R435), which checks its scope whatever ACQ and REL hold (14 R376, log 42). -/
def cpykFx (src : Src) (s : State) (i : Nat) (a : Agent) : Fx :=
  onRecord src s a fun off =>
    orderedFx s a
      (let here := s.copies.filter fun (_, c) => c.core == a.pos.core && !c.saved
       if 16 ≤ here.length ∨ (here.any fun (_, c) => c.recAt == off) then .keep s
       else
         let x := s.getNat (.scr a.pos.core off) 64
         match copyKindOf (bits x 0 8) with
         | none => .fault (faultAt s a 0x01 0)
         | some kind =>
           onRecs s a kind x fun s r =>
             onRd s a (s.scopeCheck a (bits x 16 6)) fun _ =>
               let slots := copySlots kind x r
               onRd s a (s.captures a slots) fun ms =>
                 let is := ms.getD 0 0
                 let id := ms.getLastD 0
                 let fs := (s.image is).fmt
                 let fd := (s.image id).fmt
                 onHandle kind x r fs s i a fun buf =>
                   let c := copyOf i a kind x off r slots is id buf fs fd a.curPc s.run.word
                   if recordBad kind x || r.bad || pairBad kind r fs fd || s.barBad a c || fld x 0x20 0 64 != c.bytes then
                     .fault (faultAt s a 0x01 0)
                   else
                     let (n, s) := s.newId
                     .done ((s.write (.scr a.pos.core (off + 0x28)) (bytesOf 1 8)).setCopy n c))

def execCpyk (h : Hdr) (a : Src) (s : State) : Out := issue .both false h offNone (cpykFx a) s

/-- A unit put among others in iteration order. -/
def insUnit (u : Nat) : List Nat → List Nat
  | [] => [u]
  | v :: vs => if u ≤ v then u :: v :: vs else v :: insUnit u vs

/-- The parked units of a request replay in iteration order, and its trap is over (15 R439). -/
def Copy.replay (c : Copy) : Copy :=
  if c.parked.isEmpty then c
  else { c with redo := (c.redo ++ c.parked).foldr insUnit [], parked := [], trapOut := false }

/-- `cprepl` (15 R439). -/
def execCprepl (h : Hdr) (a : Src) (s : State) : Out :=
  issue .both false h offNone
    (fun s _ x => onRecord a s x fun off =>
      .done { s with copies := tmap s.copies fun _ c =>
        if c.core = x.pos.core ∧ c.recAt = off ∧ !c.saved then c.replay else c }) s

/-! The limit of a drain (04 R103). -/

/-- An operation of an agent that holds a slot's old binding fails. -/
def State.failHolders (s : State) (n : Nat) : List Nat → State
  | [] => s
  | i :: is =>
    match tget s.agents i with
    | none => s.failHolders n is
    | some a =>
      let es := a.pend.mq.filter fun e => e.slots.contains n
      let s := (s.setAgent i (es.foldl (fun a e => a.failEntry e 0x0E n) a)).endEntries es
      let os := a.pend.ops.filter fun o => (o.acc.bind Acc.captured).map (·.2) == some n
      (os.foldl (fun s o => s.failOp i o 0x0E n) s).failHolders n is

/-- The units of a request that are still to move fail. -/
def State.failUnits (s : State) (id n : Nat) : List Nat → State
  | [] => s
  | u :: us => ((s.failUnit id u 0x0E n).countUnit id u).failUnits id n us

/-- Requests that hold a slot's old binding fail from here on; of a saved one only the unit that is out to a peer holds
it (04 R105). -/
def State.failCopies (s : State) (n : Nat) : List Nat → State
  | [] => s
  | id :: ids =>
    match tget s.copies id with
    | none => s.failCopies n ids
    | some c =>
      if c.saved then (s.setCopy id { c.keepReply (.failed 0x0E) with slots := c.slots.filter fun k => k != n }).failCopies n ids
      else if c.counting then (s.setCopy id { c with slots := [] }).failCopies n ids
      else
      let us := c.asking.toList ++ c.redo ++ c.parked ++ upFrom c.next (c.total - c.next)
      let c := { c with redo := [], parked := [], asking := none, answers := [], wait := none }
      let s := s.setCopy id { c with next := c.total, slots := [] }
      (s.failUnits id n us).failCopies n ids

/-- A drain that has lasted 1,000,000 ticks ends: what still holds the old binding fails (04 R103). -/
def execDrainTimeout (vd ctx slot : Nat) (s : State) : Out :=
  let b := s.slot vd ctx slot
  if b.st = 2 ∧ !b.drained ∧ b.since + 1000000 ≤ s.now then
    let ids := (s.agents.filter fun (_, a) => a.id.vd == vd && a.id.ctx == ctx).map (·.1)
    let cs := (s.copies.filter fun (_, c) => c.vd == vd && c.ctx == ctx && c.slots.contains slot).map (·.1)
    let s := (s.failHolders slot ids).failCopies slot cs
    .next ((s.setSlot vd ctx slot { b with drained := true }).sweepBufs.tryRelease vd ctx slot)
  else .next s

end Sys2Proof.Machine
end

