-- ==== Sys2Proof/Machine/Launch.lean ====
section
/-!
DEFINITION. Launch records (05 R121 to R124): fetching one from a stream (03 R81, 06 R135) or by `launch` (14 R405,
R406), its checks and waits (05 R122, 06 R136), and what its end writes (05 R126 to R128).
-/
namespace Sys2Proof.Machine

/-- Field of a launch record: `n` bits from bit `b` of byte `off`. -/
def lfld (x off b n : Nat) : Nat := bits x (8 * off + b) n

/-- Every reserved bit of a launch record is zero (05 R121). -/
def recReserved (x : Nat) : Bool :=
  lfld x 0 28 4 == 0 && lfld x 4 20 12 == 0 && lfld x 8 57 7 == 0 && lfld x 0x30 57 7 == 0 && lfld x 0x40 57 7 == 0
    && lfld x 0xC0 57 7 == 0 && lfld x 0xD0 0 (8 * 0x30) == 0 && lfld x 0xB0 57 7 == 0
    && ((upFrom 0 4).all fun i => lfld x (0x50 + 16 * i) 57 7 == 0)
    && (upFrom 0 2).all fun i => lfld x (0x90 + 16 * i) 57 7 == 0

/-- The fields of the launch record at an address (05 R121). -/
def recOf (va x : Nat) : LRec :=
  { va
    seq := bitAt x 24
    pod := bitAt x 25
    acq := bitAt x 26
    rel := bitAt x 27
    ascope := lfld x 4 0 6
    rscope := lfld x 4 6 6
    prio := lfld x 4 12 4
    ctx := lfld x 4 16 4
    code := lfld x 8 0 57
    entry := lfld x 0x10 0 32
    sentry := lfld x 0x14 0 32
    gx := lfld x 0x18 0 32
    gy := lfld x 0x1C 0 32
    gz := lfld x 0x20 0 32
    tx := lfld x 0x24 0 16
    ty := lfld x 0x26 0 16
    tz := lfld x 0x28 0 16
    demand := lfld x 0x2A 0 8
    podsz := lfld x 0x2B 0 8
    scratch := lfld x 0x2C 0 32
    spill := lfld x 0x30 0 57
    spillb := lfld x 0x38 0 32
    affin := lfld x 0x3C 0 16
    slots := lfld x 0x3E 0 16
    argp := lfld x 0x40 0 57
    argb := lfld x 0x48 0 32
    ncores := lfld x 0x4C 0 32
    waits := (upFrom 0 4).map fun i => (lfld x (0x50 + 16 * i) 0 57, lfld x (0x58 + 16 * i) 0 64)
    sigs := (upFrom 0 2).map fun i => (lfld x (0x90 + 16 * i) 0 57, lfld x (0x98 + 16 * i) 0 64)
    fail := (lfld x 0xB0 0 57, lfld x 0xB8 0 64)
    done := lfld x 0xC0 0 57
    reserved := recReserved x }

/-- Counter addresses of a record. -/
def LRec.counters (r : LRec) : List Nat := r.waits.map (·.1) ++ r.sigs.map (·.1) ++ [r.fail.1]

/-- The rules of status 2 (05 R122). -/
def State.recordOk (s : State) (vd : Nat) (r : LRec) : Bool :=
  r.reserved && decide (r.prio ≤ 7) && decide (r.ctx < (s.vd vd).desc.nctx)
    && [r.gx, r.gy, r.gz, r.tx, r.ty, r.tz].all (fun n => n != 0)
    && decide (r.threads ≤ 1024) && decide (r.teams < 2 ^ 32)
    && decide (8 ≤ r.demand) && decide (r.demand ≤ 128) && r.demand % 8 == 0
    && (if r.pod then decide (1 ≤ r.podsz) && decide (r.podsz ≤ 4) else r.podsz == 0)
    && decide (r.argb ≤ 4096) && decide (r.ncores ≤ 1152) && r.counters.all (fun a => a % 8 == 0)
    && r.argp % 8 == 0 && r.spill % 256 == 0 && r.done % 32 == 0

/-- The loaded object a record names by its address (05 R120, R121): of several, the one with the lowest number (log 49). -/
def State.objAt (s : State) (vd code : Nat) : Option (Nat × Obj) := (s.vd vd).objs.find? fun o => o.2.va == code

/-- The rules of status 3. -/
def codeOk (r : LRec) (o : Obj) : Bool :=
  r.entry % 8 == 0 && decide (r.entry < o.secLen.getD 0 0)
    && (!r.seq || (r.sentry % 8 == 0 && decide (r.sentry < o.secLen.getD 1 0)))

/-- The rules of status 6. -/
def sizesOk (r : LRec) : Bool := decide (r.scratch ≤ 458752) && r.spillb % 256 == 0 && decide (256 ≤ r.spillb)

/-- The status with which the fetch checks end a launch. -/
def State.fetchStatus (s : State) (vd : Nat) (r : LRec) : Option Nat :=
  if !s.recordOk vd r then some 2
  else
    match s.objAt vd r.code with
    | none => some 3
    | some (_, o) => if !codeOk r o then some 3 else if !sizesOk r then some 6 else none

/-! Waits. -/

/-- What looking at one wait entry comes to: met, armed at its counter, the status with which the launch ends, or what
holds the look. -/
inductive Looked where
  | met
  | armed (at_ : Loc)
  | over (status : Nat)
  | wait (st : OpSt)
  deriving DecidableEq, Repr

/-- A wait entry examined for the first time: the check and the arming are one operation at the counter's home (06 R136).
A remote page is no place a launch reaches (02 R55). -/
def State.lookAt (s : State) (vd ctx va thr : Nat) : Looked × State :=
  if inWindow va then (.over 6, s)
  else
    match s.resolve vd ctx va 8 .r with
    | (.wait st, s) => (.wait st, s)
    | (.remote _, s) => (.over 6, s)
    | (.fail c _ _, s) => (.over (if c = 0x16 then 9 else 6), s)
    | (.ok l, s) =>
      match s.atHome vd false l with
      | (some st, s) => (.wait st, s)
      | (none, s) =>
        if thr ≤ ofBytes (s.readChunks l) then (.met, s) else (.armed ((l.head?.map (·.1)).getD (.mem 0)), s)

/-- A launch ends before any unit of it has been placed. -/
def Grid.over (g : Grid) (status : Nat) : Grid :=
  { g with st := .ending, placed := true, failed := some (status, 0, 0), own := [] }

/-- The wait entries of a launch from entry `i` on examined in order, as far as none waits; the launch becomes ready when
all have been and every one is met (06 R136). -/
def State.lookFrom (s : State) (id : Nat) : Nat → List (Nat × Nat) → State
  | _, [] =>
    match tget s.grids id with
    | some g =>
      let g := { g with looked := 4 }
      s.setGrid id (if g.allMet then s.makeReady g else g)
    | none => s
  | i, (va, thr) :: ws =>
    if va = 0 then s.lookFrom id (i + 1) ws
    else
      match tget s.grids id with
      | none => s
      | some g =>
        match ownDead g.own va 8 false, s.lookAt g.vd g.lrec.ctx va thr with
        | some _, _ => s.setGrid id (g.over 9)
        | none, (.wait st, s) => s.setGrid id { g with looked := i, own := s.ownWait g.own va 8 false st }
        | none, (.over st, s) => s.setGrid id (g.over st)
        | none, (.met, s) =>
          (s.setGrid id { g with met := setBit g.met i, own := ownDone g.own va 8 false }).lookFrom id (i + 1) ws
        | none, (.armed l, s) =>
          (s.setGrid id { g with arms := g.arms ++ [(i, l)], own := ownDone g.own va 8 false }).lookFrom id (i + 1) ws

/-- The examination of a launch's wait entries goes on where it stands. -/
def State.lookGrid (s : State) (id : Nat) : State :=
  match tget s.grids id with
  | some g => if g.st = .waiting ∧ g.looked < 4 then s.lookFrom id g.looked (g.lrec.waits.drop g.looked) else s
  | none => s

/-- Launches of a device whose wait entries have not all been examined. -/
def State.unlooked (s : State) (vd : Nat) : List Nat :=
  (s.grids.filter fun e => e.2.vd == vd && e.2.st == .waiting && decide (e.2.looked < 4)).map (·.1)

/-- Where a launch comes from. -/
structure Origin where
  vd : Nat
  fctx : Nat
  stream : Option Nat := none
  parent : Option Nat := none
  pteam : Nat := 0
  parentCore : Nat := 0
  childDie : Option Nat := none
  depth : Nat := 0
  deriving DecidableEq, Repr

/-- The launch of a record as a grid. -/
def gridOf (o : Origin) (r : LRec) (obj : Nat) : Grid :=
  { vd := o.vd, fctx := o.fctx, lrec := r, stream := o.stream, parent := o.parent, pteam := o.pteam, childDie := o.childDie, depth := o.depth
    parentCore := o.parentCore, obj }

/-- PARENT of the record of a launch: the record of the grid that launched it (05 R121). -/
def State.parentVa (s : State) (o : Origin) : Nat := match o.parent with | some g => (s.grid g).lrec.va | none => 0

/-- A record whose PARENT has been written becomes a launch (05 R122): the fetch checks are made, then the waits are
examined. -/
def State.admitLaunch (s : State) (o : Origin) (r : LRec) : Nat × State :=
  let (id, s) := s.newId
  match s.fetchStatus o.vd r with
  | some st => (id, s.setGrid id ((gridOf o r 0).over st))
  | none => (id, (s.setGrid id (gridOf o r (((s.objAt o.vd r.code).map (·.1)).getD 0))).lookGrid id)

/-! Reading a record (05 R122): it is read once; the bytes are kept while the write of PARENT waits. -/

/-- What reading a record and writing its PARENT comes to. -/
inductive Admit where
  | go (r : LRec)
  /-- its magic or version is wrong: dropped -/
  | dropped
  | fail (cause : Nat) (repl : Bool) (addr : Nat)
  | wait
  deriving DecidableEq, Repr

/-- A record whose magic is wrong or whose version is not 1 (03 R81). -/
def badMagic (x : Nat) : Bool := bits x 0 16 != 0x6B52 || bits x 16 8 != 1

/-- The accesses with a record that has been read kept among them. -/
def keepRead (l : List Own) (va : Nat) (bs : List Byte) (now : Nat) : List Own :=
  ownDone l va 256 false ++ [{ va, n := 256, wr := false, st := .held, since := now, data := some bs }]

/-- A record that has been read: PARENT is written before any other check. A write that cannot be made is skipped
(log 49). -/
def State.writeParent (s : State) (o : Origin) (va : Nat) (bs : List Byte) (l : List Own) : Admit × List Own × State :=
  if badMagic (ofBytes bs) then (.dropped, ownDone l va 256 false, s)
  else
    match s.ownTry l (va + 0xC8) 8 true (s.writeVa o.vd o.fctx (va + 0xC8) (bytesOf (s.parentVa o) 8)) with
    | (.wait _, l, s) => (.wait, keepRead l va bs s.now, s)
    | (_, l, s) => (.go (recOf va (ofBytes bs)), ownDone l va 256 false, s)

/-- A record read, in the fetch context, and its PARENT written. -/
def State.takeRecord (s : State) (o : Origin) (va : Nat) (l : List Own) : Admit × List Own × State :=
  match (l.find? (Own.is va 256 false)).bind (·.data) with
  | some bs => s.writeParent o va bs l
  | none =>
    match s.ownTry l va 256 false (s.readVa o.vd o.fctx va 256) with
    | (.wait _, l, s) => (.wait, l, s)
    | (.fail c r a, l, s) => (.fail c r a, l, s)
    | (.ok bs, l, s) => s.writeParent o va bs l

/-! Streams (03 R81, 06 R135). -/

/-- The place of the entry at an index of a stream's FIFO in its ring (03 R82). -/
def State.fifoAt (s : State) (vd n k : Nat) : Nat :=
  let x := (s.vd vd).stream n
  (s.vd vd).desc.sfifo + 256 * n + 8 * ((x.accepted + 2 ^ 16 - x.fifo.length + k) % 32)

/-- An access of the part's own to a physical address is kept among a stream's under a number no virtual address has. -/
def physKey (pa : Nat) : Nat := 2 ^ 60 + pa

/-- Physical bytes can be neither read nor written: they are unbacked, their die is lost or their line holds an error
(01 R22, R25). -/
def State.physGone (s : State) (pa n : Nat) : Bool :=
  match s.homeDie pa with
  | some d => (s.die d).lost || s.isFaulty pa n
  | none => true

/-- The access to the entry at an index of a stream's FIFO has failed: its memory is out of reach, or the host has not
given up its line (01 R25, 02 R52). -/
def State.fifoFails (s : State) (vd n k : Nat) (wr : Bool) : Bool :=
  let pa := s.fifoAt vd n k
  s.physGone pa 8 || (ownDead ((s.vd vd).stream n).own (physKey pa) 8 wr).isSome

/-- The access to that entry waits for a line the host holds (02 R48). -/
def State.fifoWait (s : State) (vd n k : Nat) (wr : Bool) (line : Nat) : State :=
  let s := s.sendSnoop line wr
  let x := (s.vd vd).stream n
  s.setStream vd n { x with own := s.ownWait x.own (physKey (s.fifoAt vd n k)) 8 wr (.snoop line) }

/-- The entries of a stream that are to be written out are, each at its own position, as far as the host holds none of
their lines; each becomes pending reload. One that cannot be written is lost (log 25). -/
def State.putFifo (s : State) (vd n : Nat) : Nat → State
  | 0 => s
  | fuel + 1 =>
    let x := (s.vd vd).stream n
    match x.toPut with
    | [] => s
    | k :: ks =>
      let pa := s.fifoAt vd n k
      let own := ownDone x.own (physKey pa) 8 true
      if s.fifoFails vd n k true then
        (s.setStream vd n { x with toPut := ks, own, lost := k :: x.lost }).putFifo vd n fuel
      else
        match s.snoopNeeded [(.mem pa, 8)] true with
        | some line => s.fifoWait vd n k true line
        | none =>
          (((s.passMem vd true pa 8 true).write (.mem pa) (bytesOf (x.fifo.getD k 0).toNat 8)).setStream vd n
            { x with toPut := ks, own }).putFifo vd n fuel

/-- The entries of a stream that are to be reloaded are, in ring order, once the host holds none of their lines modified
(03 R84). One that is lost or cannot be read comes back as an address no record has (log 25). -/
def State.getFifo (s : State) (vd n : Nat) : State :=
  let x := (s.vd vd).stream n
  if x.reload = 0 ∨ !x.toPut.isEmpty then s
  else
    let bad (k : Nat) : Bool := x.lost.contains k || s.fifoFails vd n k false
    let ks := upFrom 0 x.reload
    match ks.findSome? fun k =>
      if bad k then none else (s.snoopNeeded [(.mem (s.fifoAt vd n k), 8)] false).map fun line => (k, line) with
    | some (k, line) => s.fifoWait vd n k false line
    | none =>
      let got := ks.map fun k =>
        if bad k then BitVec.allOnes 64 else BitVec.ofNat 64 (s.getNat (.mem (s.fifoAt vd n k)) 8)
      let s := ks.foldl (fun t k => if bad k then t else t.passMem vd true (s.fifoAt vd n k) 8 false) s
      let s := s.setStream vd n
        { x with fifo := got ++ x.fifo.drop x.reload, reload := 0, lost := [], own := x.own.filter fun o => decide (o.va < 2 ^ 60) }
      s.setVd vd { s.vd vd with pending := (s.vd vd).pending &&& (2 ^ 64 - 1 - 2 ^ n) }

/-- What is to be written out or reloaded of a stream goes on. -/
def State.moveFifo (s : State) (vd n : Nat) : State := (s.putFifo vd n 32).getFifo vd n

def State.moveFifos (s : State) (vd : Nat) : List Nat → State
  | [] => s
  | n :: ns => (s.moveFifo vd n).moveFifos vd ns

/-- A stream of a device that leaves ACTIVE is written out (03 R82); what waited to be reloaded is still in memory. -/
def State.spillStream (s : State) (vd n : Nat) : State :=
  let x := (s.vd vd).stream n
  if x.fifo.isEmpty then s
  else
    let s := s.setStream vd n { x with toPut := x.toPut ++ upFrom x.reload (x.fifo.length - x.reload), reload := 0 }
    (s.setVd vd { s.vd vd with pending := setBit (s.vd vd).pending n }).putFifo vd n 32

def State.spillStreams (s : State) (vd : Nat) : List Nat → State
  | [] => s
  | n :: ns => (s.spillStream vd n).spillStreams vd ns

/-- Streams whose entries are to be reloaded. -/
def State.askReloads (s : State) (vd : Nat) : List Nat → State
  | [] => s
  | n :: ns =>
    let x := (s.vd vd).stream n
    (s.setStream vd n { x with reload := x.fifo.length }).askReloads vd ns

/-- A device whose streams are fetched and whose units are placed. -/
def State.schedules (s : State) (vd : Nat) : Bool :=
  (s.vd vd).st == .active && decide ((s.vd vd).shed < 2) && s.pkg.ready && !s.pkg.stopped

/-- The head of a stream dropped (03 R81). -/
def State.dropRecord (s : State) (vd n : Nat) : State :=
  let st := (s.vd vd).stream n
  (s.setStream vd n { st with fifo := st.fifo.drop 1, own := [], badrec := min (st.badrec + 1) 0xFFFF }).setCause vd 1

/-- The head record of a stream is fetched into its empty admission slot, once the stream stands in its FIFO; before, what
is to be written out or reloaded goes on (03 R82, R84, 06 R135). DESIGN CHOICE (log 25): the entries of a stream that a
RESIZE disables stay queued and are not fetched until the stream is enabled again. -/
def execStreamFetch (vd stream : Nat) (s : State) : Out :=
  let s := s.moveFifo vd stream
  let st := (s.vd vd).stream stream
  if st.reload ≠ 0 ∨ !st.toPut.isEmpty then .next s
  else
  match st.fifo, st.slot with
  | va :: rest, none =>
    if !s.schedules vd || !bitAt (s.vd vd).desc.streams stream then .next s
    else
      let o : Origin := { vd, fctx := bits (s.vd vd).desc.sctx (4 * stream) 4, stream := some stream }
      match s.takeRecord o va.toNat st.own with
      | (.wait, l, s) => .next (s.setStream vd stream { (s.vd vd).stream stream with own := l })
      | (.fail _ _ _, _, s) | (.dropped, _, s) => .next (s.dropRecord vd stream)
      | (.go r, _, s) =>
        let (g, s) := s.admitLaunch o r
        .next (s.setStream vd stream { (s.vd vd).stream stream with fifo := rest, slot := some g, own := [] })
  | _, _ => .next s

/-! `launch` (14 R405, R406). -/

/-- Fetched child records of a die that have not dispatched. -/
def State.childrenOn (s : State) (d : Nat) : Nat := s.grids.countP fun g => g.2.childDie == some d

/-- A `launch` of the record at an address, once nothing holds it: what keeps the record from being read is a fault at the
instruction (14 R377, R405). -/
def launchAt (va : Nat) (s : State) (i : Nat) (a : Agent) : Fx :=
  let o : Origin :=
    { vd := a.id.vd, fctx := a.id.ctx, parent := some a.id.grid, pteam := a.id.team, parentCore := a.pos.core
      childDie := some (dieOfCore a.pos.core), depth := (s.grid a.id.grid).depth + 1 }
  match s.takeRecord o va (s.ownsOf i) with
  | (.wait, l, s) => .keep (s.setOwns i l)
  | (.fail c r ad, l, s) => .fault (faultAt (s.setOwns i l) a c ad r)
  | (.dropped, l, s) => .done ((s.setOwns i l).setCause a.id.vd 1)
  | (.go r, l, s) => .done ((s.setOwns i l).admitLaunch o r).2

def launchFx (x : Src) (s : State) (i : Nat) (a : Agent) : Fx :=
  if a.id.seq ∨ a.id.tid ≠ 0 then .fault (faultAt s a 0x0C 0)
  else
    onRd s a (a.src ⟨x, 64, .int⟩) fun va =>
      if va % 64 ≠ 0 then .fault (faultAt s a 0x0A va)
      else if inWindow va then .fault (faultAt s a 0x0C va)
      else if (((s.ownsOf i).find? (Own.is va 256 false)).bind (·.data)).isSome then launchAt va s i a
      else
        match ownDead (s.ownsOf i) va 256 false, s.resolve a.id.vd a.id.ctx va 256 .r with
        | some c, _ => .fault (faultAt (s.setOwns i (ownDone (s.ownsOf i) va 256 false)) a c va)
        | none, (.fail c r ad, s) => .fault (faultAt s a c ad r)
        | none, (.remote _, s) => .fault (faultAt s a 0x0C va)
        | none, (.wait st, s) => .keep (s.setOwns i (s.ownWait (s.ownsOf i) va 256 false st))
        | none, (.ok _, s) =>
          if 10 < (s.grid a.id.grid).depth + 1 then .fault (faultAt s a 0x10 0)
          else if a.hasParked then .point s
          else if a.memHeld ∨ 4096 ≤ s.childrenOn (dieOfCore a.pos.core) then .keep s
          else launchAt va s i a

def execLaunch (h : Hdr) (a : Src) (s : State) : Out := issue .both false h offNone (launchFx a) s

/-! The end of a launch (05 R126 to R128). -/

/-- A place a completion writes, `none` where it is skipped; what it waits for, if it cannot be written yet
(05 R126). -/
def State.placeFor (s : State) (vd ctx va n : Nat) (l : List Own) : Option (List (Loc × Nat)) × Option OpSt × State :=
  if va = 0 ∨ inWindow va ∨ (s.vd vd).desc.nctx ≤ ctx ∨ (ownDead l va n true).isSome then (none, none, s)
  else
    match s.resolve vd ctx va n .w with
    | (.wait st, s) => (none, some st, s)
    | (.remote _, s) | (.fail _ _ _, s) => (none, none, s)
    | (.ok l, s) =>
      match s.atHome vd true l with
      | (some st, s) => (none, some st, s)
      | (none, s) => (some l, none, s)

/-- What several places come to: the places in order, those among the waiting accesses of the grid, and whether any still
waits. -/
structure Places where
  at_ : List (Option (List (Loc × Nat)))
  own : List Own
  waits : Bool

/-- Several places, in order. -/
def State.placesFor (s : State) (vd ctx : Nat) (own : List Own) : List (Nat × Nat) → Places × State
  | [] => (⟨[], own, false⟩, s)
  | (va, n) :: t =>
    match s.placeFor vd ctx va n own with
    | (l, none, s) =>
      let r := s.placesFor vd ctx own t
      ({ r.1 with at_ := l :: r.1.at_ }, r.2)
    | (_, some st, s) =>
      let r := s.placesFor vd ctx (s.ownWait own va n true st) t
      ({ r.1 with at_ := none :: r.1.at_, waits := true }, r.2)

/-- Counters added to at places (09 R247). -/
def State.addAt (s : State) : List (Option (List (Loc × Nat)) × Nat) → State
  | [] => s
  | (some l, v) :: t => (s.writeChunks l (bytesOf (satAdd (ofBytes (s.readChunks l)) v) 8)).addAt t
  | (none, _) :: t => s.addAt t

/-- Status, cause and PC of a launch that ends: an INVALID release scope is status 7 (05 R126). -/
def State.endOf (s : State) (g : Grid) : Nat × Nat × DWord :=
  match g.failed with
  | some (st, cause, pc) => (st, if st = 8 then cause else 0, if st = 8 then pc else 0)
  | none =>
    if g.lrec.rel ∧ 6 ≤ g.lrec.rscope ∧ (s.scope g.vd g.lrec.ctx g.lrec.rscope).st = .invalid then (7, 0, 0) else (1, 0, 0)

/-- The completion record (05 R128). -/
def completionBytes (e : Nat × Nat × DWord) (time teams : Nat) : List Byte :=
  bytesOf (e.1 + 256 * (e.2.1 % 256)) 8 ++ bytesOf time 8 ++ bytesOf e.2.2.toNat 8 ++ bytesOf (teams % 2 ^ 32) 8

/-- The release of a launch waits for an update of its scope entry (09 R234). -/
def State.releaseWaits (s : State) (g : Grid) : Bool :=
  g.lrec.rel && decide (6 ≤ g.lrec.rscope) && (s.scope g.vd g.lrec.ctx g.lrec.rscope).st == .pending

/-- A launch ends, once its units and its children have (05 R126, R127). -/
def execLaunchEnd (grid : Nat) (s : State) : Out :=
  match tget s.grids grid with
  | none => .next s
  | some g =>
    let busy := s.grids.any (fun e => e.2.parent == some grid) || s.pods.any (fun e => e.2.grid == grid)
      || (g.lrec.rel && s.agents.any fun e => e.2.id.grid == grid)
    if g.st ≠ .ending ∨ busy ∨ s.releaseWaits g then .next s
    else
      let e := s.endOf g
      let adds := if e.1 = 1 then g.lrec.sigs else [g.lrec.fail]
      let (p, s) := s.placesFor g.vd g.lrec.ctx g.own ((g.lrec.done, 32) :: adds.map fun a => (a.1, 8))
      if p.waits then .next (s.setGrid grid { s.grid grid with own := p.own })
      else
        let ls := p.at_
        let s := s.leaveSlot grid
        let s := match ls.head? with
          | some (some l) => s.writeChunks l (completionBytes e s.now g.good)
          | _ => s
        let s := s.addAt ((ls.drop 1).zip (adds.map (·.2)))
        let s := if e.1 ≠ 1 ∧ ((ls.getD 1 none).isSome) then s.setCause g.vd 2 else s
        .next { s with grids := tdel s.grids grid }

end Sys2Proof.Machine
end

