-- ==== Sys2Proof/Machine/Place.lean ====
section
/-!
DEFINITION. Placing units on cores (06 R138 to R144, 05 R125): the ready order, the fit of a team on a core, new units,
and units that return from a save or a swap (07 R185, 06 R146).
-/
namespace Sys2Proof.Machine

/-- The device whose margin set a cob is in. -/
def State.marginOf (s : State) (cob : Nat) : Option Nat := (s.vds.find? fun v => bitAt v.2.desc.mset cob).map (·.1)

/-! Keys by device, context and cob. -/

/-- The key of a context's slice or pre-emption request on a cob (06 R155, 07 R177). -/
def cobKey (vd ctx cob : Nat) : Nat := (16 * vd + ctx) * 288 + cob

/-- A context has work on a cob (06 R155): a team, landing thread, sequencer context or copy request. -/
def State.workOn (s : State) (vd ctx cob : Nat) : Bool :=
  s.agents.any (fun (_, a) => a.id.vd == vd && a.id.ctx == ctx && !a.pos.out && cobOfCore a.pos.core == cob)
    || s.teams.any (fun (_, t) =>
        t.holds && cobOfCore t.core == cob && (s.grid t.grid).vd == vd && (s.grid t.grid).lrec.ctx == ctx)
    || s.copies.any fun (_, c) => c.vd == vd && c.ctx == ctx && !c.saved && cobOfCore c.core == cob

/-- A context's slice on a cob starts when its first item is placed there (06 R155). -/
def State.startSlice (s : State) (vd ctx cob : Nat) : State :=
  let s := s.setCob cob { s.cob cob with idleSince := s.now }
  if s.workOn vd ctx cob && (tget s.slices (cobKey vd ctx cob)).isSome then s else { s with slices := tset s.slices (cobKey vd ctx cob) ⟨0, s.now, (s.vd vd).slice⟩ }

/-- A dispatch, landing or return aimed at a die that is not ON asks for it (01 R28, R30). -/
def State.wakeDie (s : State) (d : Nat) : State :=
  let x := s.die d
  match x.gate with
  | .on | .waking => s
  | .gating => s.setDie d { x with gate := .on }
  | .gated => s.setDie d { x with gate := .waking }

/-! The fit of a team on a core (06 R140, R141). -/

/-- Slot units a team of `n` threads takes. -/
def unitsOf (n : Nat) : Nat := ceilDiv n 64

/-- Teams that hold places on a core. -/
def State.teamsAt (s : State) (core : Nat) : List Team :=
  (s.teams.filter fun (_, t) => t.holds && t.core == core).map (·.2)

/-- The lowest base at which `u` slot units are free. -/
def State.freeBase (s : State) (core u : Nat) : Option Nat :=
  (upFrom 0 (17 - u)).find? fun b =>
    (s.teamsAt core).all fun t => decide (t.base + t.units ≤ b) || decide (b + u ≤ t.base)

/-- Scratchpad bytes of a team. -/
def State.scratchOf (s : State) (t : Team) : Nat := (s.grid t.grid).lrec.scratch

/-- The split a core takes for its first team. -/
def splitFor (scratch u : Nat) : Nat := min 458752 (ceilDiv (scratch * (16 / u)) 65536 * 65536)

/-- The lowest offset, a multiple of 4 KiB, where `n` bytes are free within a split. -/
def State.freeScratch (s : State) (core split n : Nat) : Option Nat :=
  ((upFrom 0 113).map fun k => 4096 * k).find? fun o =>
    decide (o + n ≤ split) &&
      (n == 0 || (s.teamsAt core).all fun t => decide (t.scr + s.scratchOf t ≤ o) || decide (o + n ≤ t.scr))

/-- Granules a team needs on each lane, by 16 * pip + lane. -/
abbrev Needs := Tab Nat

/-- The lane of a thread of a team (06 R142). -/
def laneOf (tid : Nat) : Nat := 16 * (tid / 16 % 4) + tid % 16

/-- Needs of a new team of `n` threads. -/
def freshNeeds (n demand : Nat) : Needs :=
  (upFrom 0 n).foldl (fun m t => tset m (laneOf t) (tgetD m (laneOf t) 0 + ceilDiv demand 16)) []

/-- Every lane has the granules, and no thread of it is frame-blocked (08 R198). -/
def State.lanesFit (s : State) (core : Nat) (needs : Needs) : Bool :=
  needs.all fun (l, n) =>
    let p : Pool := .lane core (l / 16) (l % 16) false
    (s.blockedIn p).isEmpty && decide (n ≤ (s.freeGran p).length)

/-- What a team needs of a core. -/
structure Want where
  vd : Nat
  ctx : Nat
  lrec : LRec
  obj : Nat
  threads : Nat
  needs : Needs
  /-- copy requests it brings to the core's engine, and replay entries they take (15 R440) -/
  reqs : Nat := 0
  parks : Nat := 0
  deriving Repr

/-- A pre-emption request is in force on a cob: no unit is newly placed there (07 R177). -/
def State.requestOn (s : State) (cob : Nat) : Bool := s.preReqs.any fun e => e.1 % 288 == cob

/-- The engine of a core has room for the requests a team brings: 16 requests, 64 replay entries (15 R440). -/
def State.engineFits (s : State) (w : Want) (core : Nat) : Bool :=
  w.reqs == 0 || (decide ((s.copies.countP fun e => e.2.core == core && !e.2.saved) + w.reqs ≤ 16)
    && decide (s.parkedOn core + w.parks ≤ 64))

/-- The place of a team on a core: its base and its scratchpad area. -/
def State.fitCore (s : State) (w : Want) (core : Nat) : Option (Nat × Nat) :=
  let cob := cobOfCore core
  let c := s.core core
  let empty := (s.teamsAt core).isEmpty
  let u := unitsOf w.threads
  if !s.holdsCob w.vd cob || !s.dieFor w.lrec (dieOfCore core) || !s.coreOn core
    || s.requestOn cob || !s.lanesFit core w.needs || !s.engineFits w core
    || !(empty || c.macObj == some (w.vd, w.obj)) then none
  else
    match s.freeBase core u, s.freeScratch core (if empty then splitFor w.lrec.scratch u else c.split) w.lrec.scratch with
    | some b, some o => some (b, o)
    | _, _ => none

/-! Placing. -/

/-- The macro control store of a core filled with section 3 of an object (05 R125). -/
def State.fillStore (s : State) (core vd obj : Nat) : State :=
  let c := s.core core
  if c.macObj = some (vd, obj) then s
  else
    let o := tgetD (s.vd vd).objs obj {}
    let words := (upFrom 0 2048).map fun k : Nat =>
      if 8 * k + 8 ≤ o.secLen.getD 3 0 then BitVec.ofNat 64 (s.getNat (.mem (o.base + o.secOff.getD 3 0 + 8 * k)) 8) else 0
    s.setCore core { c with macObj := some (vd, obj), store := words }

/-- A core takes a team: its split when it held none, its macro control store, the area zeroed or put back (06 R141,
05 R125, 01 R37). -/
def State.openCore (s : State) (w : Want) (core scr : Nat) (image : List Byte) : State :=
  let c := s.core core
  let s := if (s.teamsAt core).isEmpty then s.setCore core { c with split := splitFor w.lrec.scratch (unitsOf w.threads) } else s
  let s := s.fillStore core w.vd w.obj
  let s := { s with scr := memZero s.scr (scrKey core scr) w.lrec.scratch }
  s.putBytes (.scr core scr) image

/-- A new agent with one frame of its demand. -/
def State.newAgent (s : State) (id : Ident) (pos : Pos) (pc demand : Nat) : Nat × State :=
  let (i, s) := s.newId
  let (u, s) := s.newId
  let a : Agent := { id, pos, arch := { pc := BitVec.ofNat 64 pc } }
  let (g, s) := pickGran s (s.freeGran (poolOf i a)) (ceilDiv demand 16)
  (i, s.setAgent i { a with arch := { a.arch with frames := [newFrame u demand 0 false false 0 g] } })

/-- The threads of a new team (06 R142, 05 R125). -/
def State.newThreads (s : State) (id : Ident) (core base pc demand : Nat) : Nat → Nat → State
  | 0, _ => s
  | n + 1, t =>
    ((s.newAgent { id with tid := t }
        { core, pip := t / 16 % 4, lane := t % 16, slot := base + t / 64 } pc demand).2).newThreads id core base pc demand n
      (t + 1)

/-- One team of a new unit placed on a core of a cob. -/
def State.newTeam (s : State) (w : Want) (g n pod core base scr : Nat) : Nat × State :=
  let s := s.startSlice w.vd w.ctx (cobOfCore core)
  let s := s.openCore w core scr []
  let (t, s) := s.newId
  let s := s.setTeam t
    { grid := g, n, pod, core, base, units := unitsOf w.threads, scr, place := .resident, live := w.threads, clean := true
      done := false, since := 0, image := [], pages := [] }
  let o := tgetD (s.vd w.vd).objs w.obj {}
  (t, s.newThreads { vd := w.vd, ctx := w.ctx, grid := g, team := t, pod } core base (o.va + o.secOff.getD 0 0 + w.lrec.entry)
    w.lrec.demand w.threads 0)

/-- A core of a cob for one more team of a unit: one the unit does not use yet, else one it uses (06 R143). DESIGN CHOICE:
'share cores in the same order' is read for each team anew, so it shares the lowest used core it fits, not the cores one
each in turn. -/
def State.pickCore (s : State) (w : Want) (cob : Nat) (used : List Nat) : Option (Nat × Nat × Nat) :=
  let cores := upFrom (4 * cob) 4
  let fit (cs : List Nat) := cs.findSome? fun c => (s.fitCore w c).map fun p => (c, p.1, p.2)
  match fit (cores.filter fun c => !used.contains c) with
  | some x => some x
  | none => fit (cores.filter used.contains)

/-- The teams of a new unit placed one after another on a cob. -/
def State.newTeams (s : State) (w : Want) (g pod cob : Nat) : List Nat → List Nat → Option State
  | [], _ => some s
  | n :: ns, used =>
    match s.pickCore w cob used with
    | none => none
    | some (core, base, scr) => ((s.newTeam w g n pod core base scr).2).newTeams w g pod cob ns (core :: used)

/-- A free sequencer context of a cob, the lowest (06 R143): a pod group holds its own to its end (R144, 15 R430). -/
def State.freeSeq (s : State) (cob : Nat) : Option Nat :=
  (upFrom 0 8).find? fun k => !(s.pods.any fun (_, x) => x.cob == cob && !x.out && x.held == some k)

/-- The teams of unit `k` of a grid (06 R143). -/
def unitTeams (r : LRec) (k : Nat) : List Nat :=
  if r.pod then upFrom (r.podsz * k) (min r.podsz (r.teams - r.podsz * k)) else [k]

/-- Units of a grid. -/
def unitCount (r : LRec) : Nat := if r.pod then ceilDiv r.teams r.podsz else r.teams

/-- What every team of a new unit needs. -/
def wantOf (g : Grid) : Want :=
  let n := g.lrec.threads
  { vd := g.vd, ctx := g.lrec.ctx, lrec := g.lrec, obj := g.obj, threads := n, needs := freshNeeds n g.lrec.demand }

/-- A new unit placed on a cob, with its pod group and its sequencer context. -/
def State.newUnit (s : State) (gid cob : Nat) : Option State :=
  let g := s.grid gid
  let w := wantOf g
  let r := g.lrec
  let (p, s) := s.newId
  let s := s.setPod p
    { grid := gid, k := g.next, vd := g.vd, ctx := r.ctx, cob, seq := none, seqClean := true, names := [], out := false
      pages := [] }
  match s.newTeams w gid p cob (unitTeams r g.next) [] with
  | none => none
  | some s =>
    if !r.seq then some s
    else
      match s.freeSeq cob, s.teams.find? fun t => t.2.pod == p with
      | some k, some (t, _) =>
        let o := tgetD (s.vd g.vd).objs g.obj {}
        let (i, s) := s.newAgent { seq := true, vd := g.vd, ctx := r.ctx, grid := gid, team := t, pod := p, tid := k }
          { core := 4 * cob } (o.va + o.secOff.getD 1 0 + r.sentry) r.demand
        some (match tget s.pods p with | some x => s.setPod p { x with seq := some i, held := some k } | none => s)
      | _, _ => none

/-- Dies in the order a grid visits them (06 R143). -/
def diesFrom (last : Option Nat) : List Nat :=
  match last with
  | none => upFrom 0 12
  | some d => upFrom (d + 1) (11 - d) ++ upFrom 0 (d + 1)

/-- Cobs in the order a unit of a grid tries them. -/
def cobsFrom (last : Option Nat) : List Nat := (diesFrom last).flatMap fun d => upFrom (24 * d) 24

/-- The next unit of a grid placed, where it fits; the first one empties the admission slot (06 R135). -/
def State.placeNext (s : State) (gid : Nat) : Option State :=
  let g := s.grid gid
  (cobsFrom g.lastDie).findSome? fun cob =>
    (s.newUnit gid cob).map fun s =>
      let s := if g.next = 0 then s.leaveSlot gid else s
      let g := s.grid gid
      let s := s.setGrid gid { g with
        st := .running, next := g.next + 1, placed := decide (unitCount g.lrec ≤ g.next + 1), lastDie := some (dieOfCob cob)
        tried := none, blocking := false }
      s.wakeDie (dieOfCob cob)

/-! Units that return (07 R185, 06 R146). -/

/-- Needs of a team that returns: the frames its threads hold (08 R205). -/
def State.backNeeds (s : State) (t : Nat) : Needs :=
  s.agents.foldl (fun m (_, a) =>
    if a.id.team = t ∧ !a.id.seq ∧ a.pos.out ∧ a.sched.page.isNone then
      let l := laneOf a.id.tid
      tset m l (tgetD m l 0 + (a.arch.frames.map fun f => ceilDiv f.dem 16).sum)
    else m) []

/-- Resident granules for the frames of an agent that returns, one frame after another. -/
def regrant (s : State) (avail : List Nat) : List Frame → List Frame × State
  | [] => ([], s)
  | f :: fs =>
    let (g, s) := pickGran s avail (ceilDiv f.dem 16)
    let (r, s) := regrant s (avail.filter fun x => !g.contains x) fs
    ({ f with gran := g } :: r, s)

/-- Cancelled loads of an agent are issued again, and parked accesses replay, in order (07 R184); those of a thread in a
handler replay at its `rtt` (R171, log 33). On a die that is waking they wait for it (01 R30). -/
def State.reissue (s : State) (i : Nat) : State :=
  match tget s.agents i with
  | none => s
  | some a =>
    let again (o : Op) : Bool := (o.st == .held && !o.det) || (o.st.isParked && !a.inHandler)
    if (s.die (dieOfCore a.pos.core)).gate = .on then s.replay i ((a.pend.ops.filter again).map (·.id))
    else s.setAgent i (a.setOps (a.pend.ops.map fun o => if again o then { o with st := .held, left := {} } else o))

/-- An agent put back at a position with what it was saved with (07 R185). -/
def State.putBack (s : State) (i : Nat) (pos : Pos) (tid : Nat) : State :=
  match tget s.agents i with
  | none => s
  | some a =>
    let s := s.wakeDie (dieOfCore pos.core)
    let a := { a with pos, id := { a.id with tid }, sched := { a.sched with psaved := none, page := none, covered := false } }
    let (fs, s) := regrant s (s.freeGran (poolOf i a)) a.arch.frames
    (s.setAgent i { a with arch := { a.arch with frames := fs } }).reissue i

/-- The threads of a team put back in their lanes. -/
def State.putThreads (s : State) (core base : Nat) : List Nat → State
  | [] => s
  | i :: is =>
    match tget s.agents i with
    | none => s.putThreads core base is
    | some a =>
      let t := a.id.tid
      (s.putBack i { core, pip := t / 16 % 4, lane := t % 16, slot := base + t / 64 } t).putThreads core base is

/-- A window address of a team moved with its area. -/
def moveVa (old new va : Nat) : Nat := if inWindow va then va + new - old else va

/-- A request of a team moved with its area to another core. -/
def Copy.moved (c : Copy) (core old new : Nat) : Copy :=
  { c with
    core
    recAt := c.recAt + new - old
    bar := c.bar.map fun b => b + new - old
    ctr := moveVa old new c.ctr
    aux := match c.kind with
      | .gather | .scatter | .sparse => moveVa old new c.aux
      | .copy | .transform | .fill | .tileLoad | .tileStore | .window => c.aux
    src := { c.src with base := moveVa old new c.src.base }
    dst := { c.dst with base := moveVa old new c.dst.base }
    win := { c.win with base := moveVa old new c.win.base }
    saved := false }

/-- An armed wait of a team moved with its area: a word of the area is now at its new place (06 R146, 09 R248). -/
def CtArm.moved (c : CtArm) (was core old new n : Nat) : CtArm :=
  match c.loc with
  | .scr k o =>
    if k = was ∧ old ≤ o ∧ o < old + n then { c with loc := .scr core (o + new - old), va := moveVa old new c.va } else c
  | .mem _ => c

/-- One saved or swapped team back on a core. -/
def State.teamBack (s : State) (w : Want) (t : Nat) (x : Team) (core base scr : Nat) : State :=
  let s := s.startSlice w.vd w.ctx (cobOfCore core)
  let s := s.openCore w core scr x.image
  let s := s.setTeam t { x with core, base, scr, place := .resident, image := [], pages := [] }
  let s := { s with
    copies := tmap s.copies fun _ c => if c.team = t then c.moved core x.scr scr else c
    agents := tmap s.agents fun _ (a : Agent) =>
      if a.id.team = t ∧ !a.id.seq then
        { a with pend := { a.pend with ct := a.pend.ct.map fun (c : CtArm) => c.moved x.core core x.scr scr w.lrec.scratch } }
      else a }
  s.putThreads core base ((s.agents.filter fun (_, a) =>
    a.id.team == t && !a.id.seq && a.pos.out && a.sched.page.isNone).map (·.1))

/-- What a team that returns needs. -/
def State.wantBack (s : State) (t : Nat) (x : Team) : Want :=
  let g := s.grid x.grid
  { vd := g.vd, ctx := g.lrec.ctx, lrec := g.lrec, obj := g.obj, threads := g.lrec.threads, needs := s.backNeeds t
    reqs := s.copies.countP fun e => e.2.team == t
    parks := (s.copies.map fun e => if e.2.team = t then e.2.parked.length + e.2.redo.length else 0).sum }

/-- Teams back on a cob, one after another. -/
def State.teamsBack (s : State) (cob : Nat) : List (Nat × Team) → List Nat → Option State
  | [], _ => some s
  | (t, x) :: ts, used =>
    let w := s.wantBack t x
    match s.pickCore w cob used with
    | none => none
    | some (core, base, scr) => (s.teamBack w t x core base scr).teamsBack cob ts (core :: used)

/-- When the first wait of a thread of a swapped team was met (06 R146). -/
def State.hitAt (s : State) (t : Nat) : Option Nat :=
  (s.agents.filterMap fun (_, a) =>
    if a.id.team = t then a.pend.ct.bind fun c => c.hit.map fun _ => c.hitAt else none).foldl (fun m h =>
      match m with | some k => some (min k h) | none => some h) none

/-- The teams of a pod group that wait to return; a swapped one waits until a wait of its threads is met. -/
def State.returning (s : State) (p : Nat) : List (Nat × Team) :=
  s.teams.filter fun (t, x) => x.pod == p && !x.done && (x.place == .saved || (x.place == .swapped && (s.hitAt t).isSome))

/-- A pod group whose tiles were saved, back on a cob with the teams that return. -/
def State.podBack (s : State) (p : Nat) (x : Pod) (cob : Nat) : Option State :=
  let need := s.tilesOf p
  if x.out && decide (s.freeTiles cob < need) then none
  else
    match s.teamsBack cob (s.returning p) [] with
    | none => none
    | some s =>
      let k := s.freeSeq cob
      let back := x.out && x.held.isSome
      let s := s.setPod p { x with out := false, cob, pages := [], held := if back then k else x.held }
      let s := { s with bufs := tmap s.bufs fun _ b => if b.pod = p then { b with cob } else b }
      let s := s.trimTilePages x.vd x.ctx x.cob
      let s := s.writeTilePages x.vd x.ctx x.cob
      if !back then some s
      else
        k.map fun k =>
          match x.seq with
          | none => s
          | some i => (s.startSlice x.vd x.ctx cob).putBack i { core := 4 * cob } k

/-- The save records of what returns with a pod group: those of its teams, of its sequencer context, of its tiles. -/
def State.recordsOf (s : State) (p : Nat) (x : Pod) : List (Nat × Nat) :=
  ((s.returning p).flatMap fun e => e.2.pages) ++ x.pages
    ++ (if x.out then tgetD (s.ctx x.vd x.ctx).tilePages x.cob [] else [])

/-- A pod group returns where it fits (06 R143): on any cob it may use, or on its own while part of it is still there. A
record whose tag fails, or that cannot be read, fails its grid (07 R176, R180, R183). -/
def State.returnPod (s : State) (p : Nat) : Option State :=
  match tget s.pods p with
  | none => none
  | some x =>
    let g := s.grid x.grid
    if !s.pagesHold x.vd x.ctx (s.recordsOf p x) then some (s.endGrid x.grid 8 0x0C 0)
    else
      (if x.out then cobsFrom g.lastDie else [x.cob]).findSome? fun cob =>
        if s.holdsCob x.vd cob && s.dieFor g.lrec (dieOfCob cob) && !s.requestOn cob then
          (s.podBack p x cob).map fun s =>
            let g := s.grid x.grid
            (s.setGrid x.grid { g with lastDie := some (dieOfCob cob), tried := none, blocking := false }).wakeDie (dieOfCob cob)
        else none

/-! The ready order (06 R138). -/

/-- An entry of the ready order: a grid with units to place, or a pod group that returns. -/
inductive Entry where
  | fresh (g : Nat)
  | back (p : Nat)
  deriving DecidableEq, Repr

/-- PRIO reversed, ready time, kicked before child, stream or parent's core. -/
def gridKey (g : Grid) (time : Nat) : List Nat :=
  [7 - g.lrec.prio, time, if g.stream.isSome then 0 else 1, g.stream.getD g.parentCore]

def lexLt : List Nat → List Nat → Bool
  | [], _ => false
  | _, [] => false
  | a :: as, b :: bs => decide (a < b) || (a == b && lexLt as bs)

/-- An entry put at its place. -/
def insEntry (e : List Nat × Entry) : List (List Nat × Entry) → List (List Nat × Entry)
  | [] => [e]
  | x :: xs => if lexLt e.1 x.1 then e :: x :: xs else x :: insEntry e xs

/-- A save of a pod group is still being written (07 R182). -/
def State.saving (s : State) (p : Nat) (x : Pod) : Bool :=
  match tget s.preReqs (cobKey x.vd x.ctx x.cob) with
  | some q => q.saving && q.pods.contains p
  | none => false

/-- The ready time of a pod group that returns: when its save completed, or a wait of a swapped team was met
(06 R138, R146). DESIGN CHOICE (log 33): of a group with teams of both kinds, the earliest. -/
def State.backTime (s : State) (p : Nat) (x : Pod) : Nat :=
  let ts := (s.returning p).map fun (t, y) => if y.place = .swapped then (s.hitAt t).getD y.since else y.since
  ts.foldl min (if x.out && x.seq.isSome then x.since else 2 ^ 64)

/-- A pod group has something that waits to return. -/
def State.mayReturn (s : State) (p : Nat) (x : Pod) : Bool :=
  let seqOut := match x.seq with
    | some i => ((tget s.agents i).map (·.pos.out)).getD false
    | none => false
  !s.saving p x && (!(s.returning p).isEmpty || (x.out && seqOut))

/-- The ready order of a device. -/
def State.readyOrder (s : State) (vd : Nat) : List (List Nat × Entry) :=
  let fresh := s.grids.filterMap fun (i, g) =>
    if g.vd = vd ∧ !g.placed ∧ (g.st = .ready ∨ g.st = .running) then some (gridKey g g.readyAt, Entry.fresh i) else none
  let back := s.pods.filterMap fun (i, p) =>
    if p.vd = vd ∧ s.mayReturn i p then some (gridKey (s.grid p.grid) (s.backTime i p), Entry.back i) else none
  (fresh ++ back).foldl (fun l e => insEntry e l) []

/-- An entry placed, where it fits. -/
def State.placeEntry (s : State) : Entry → Option State
  | .fresh g => s.placeNext g
  | .back p => s.returnPod p

/-- The grid of an entry. -/
def State.gridAt (s : State) : Entry → Nat
  | .fresh g => g
  | .back p => match tget s.pods p with | some x => x.grid | none => 0

/-- A grid whose next unit did not fit: the time of its first trial stands (06 R139). -/
def State.noteTried (s : State) (g : Nat) : State :=
  match tget s.grids g with
  | some x => if x.tried.isNone then s.setGrid g { x with tried := some s.now } else s
  | none => s

/-- Entries tried in order: the first that fits is placed; none after one of a blocking grid. -/
def State.placeFirst (s : State) : List (List Nat × Entry) → State
  | [] => s
  | (_, e) :: es =>
    match s.placeEntry e with
    | some s => s
    | none =>
      let g := s.gridAt e
      if (s.grid g).blocking then s.noteTried g else (s.noteTried g).placeFirst es

/-- Launches whose wait entries have not all been examined go on with it. -/
def State.lookGrids (s : State) : List Nat → State
  | [] => s
  | g :: gs => (s.lookGrid g).lookGrids gs

/-- One pass of the scheduler for a device (06 R136, R139). -/
def execPlacementPass (vd : Nat) (s : State) : Out :=
  if s.schedules vd then
    let s := (s.lookGrids (s.unlooked vd)).sweepRows
    .next (s.placeFirst (s.readyOrder vd))
  else .next s

/-- A grid whose next unit has not fitted for 100 µs becomes blocking (06 R139). -/
def execBlockingGridTimeout (grid : Nat) (s : State) : Out :=
  match tget s.grids grid with
  | none => .next s
  | some g =>
    match g.tried with
    | some t =>
      if decide (t + 10000 ≤ s.now) && (s.readyOrder g.vd).any fun e => s.gridAt e.2 == grid then
        .next (s.setGrid grid { g with blocking := true })
      else .next s
    | none => .next s

end Sys2Proof.Machine
end

