-- ==== Sys2Proof/Machine/Save.lean ====
section
/-!
DEFINITION. Pre-emption, forced and cooperative saves, child-wait swaps (07 R177 to R187, 06 R146), `psave` (15 R445) and
`migrate` (08 R207 to R211, 14 R404).
-/
namespace Sys2Proof.Machine

/-! The save region (07 R180, R181). -/

/-- Save pages of a context in use. -/
def State.pagesUsed (s : State) (vd ctx : Nat) : List Nat :=
  (s.teams.flatMap fun (_, t) => if (s.grid t.grid).vd = vd ∧ (s.grid t.grid).lrec.ctx = ctx then t.pages.map (·.1) else [])
    ++ (s.pods.flatMap fun (_, p) => if p.vd = vd ∧ p.ctx = ctx then p.pages.map (·.1) else [])
    ++ ((s.ctx vd ctx).tilePages.flatMap fun (_, ps) => ps.map (·.1))
    ++ (s.agents.flatMap fun (_, a) => if a.id.vd = vd ∧ a.id.ctx = ctx then (a.sched.page.map (·.1)).toList else []).eraseDups

/-- The granules of a region of `n` pages belong to a device. -/
def State.regionOwned (s : State) (vd base : Nat) : Nat → Bool
  | 0 => true
  | n + 1 =>
    (match granuleOf (base + 65536 * n) with
     | some g => s.ownerOf g == vd && s.backed (base + 65536 * n)
     | none => false) && s.regionOwned vd base n

/-- The region is present (07 R180): aligned, its reserved bits zero, its pages owned. The granules are asked for once
each, by their first page in the region. -/
def State.regionOk (s : State) (vd ctx : Nat) : Bool :=
  let c := s.ctx vd ctx
  c.saveRes == 0 && c.saveBase % 65536 == 0 && c.savePages != 0 &&
    ((upFrom 0 (c.savePages / 16384 + 2)).all fun k =>
      s.regionOwned vd (c.saveBase + 65536 * min (16384 * k) (c.savePages - 1)) 1)

/-- `n` free save pages, where the region has them and they can be written (07 R176, R183); a checkpoint writes to the
reserve instead and takes none (01 R38). -/
def State.takePages (s : State) (vd ctx n : Nat) : Option (List Nat) :=
  let used := s.pagesUsed vd ctx
  if n = 0 ∨ s.pkg.stopped then some []
  else if !s.regionOk vd ctx ∨ (s.ctx vd ctx).savePages < used.length + n then none
  else
    let ps := ((upFrom 0 (used.length + n)).filter fun p => !used.contains p).take n
    if ps.all (s.pageSound vd ctx) then some ps else none

/-- Pages of a team. -/
def State.teamPages (s : State) (t : Nat) (x : Team) : Nat :=
  let fs := s.agents.flatMap fun (_, a) => if a.id.team = t ∧ !a.id.seq then a.arch.frames else []
  let r := (s.grid x.grid).lrec
  ceilDiv (r.scratch + 256 * r.threads + 16 * fs.length + 4 * (fs.map (·.dem)).sum + 4096) 65536

/-! Work in flight at the stop stage (07 R184). -/

/-- An outstanding operation as a save leaves it: loads, whose results have not returned, and tile loads are cancelled and
issued again later, other operations are detached. -/
def Op.stopped (o : Op) : Op :=
  let again := match o.acc with
    | some (.tileLd ..) | some (.tileWin ..) => true
    | some a => a.again
    | none => false
  match o.st with
  | .parked _ _ => o
  | .ready _ => if again then { o with st := .held } else o
  | .walker _ _ | .snoop _ | .regul _ _ | .remote _ _ | .held =>
    if again then { o with st := .held, left := {} } else { o with det := true }

/-- A request as a save leaves it: a unit out to a peer is detached, one that waits here is tried again later
(07 R184). -/
def Copy.stopped (c : Copy) : Copy :=
  match c.wait with
  | some (.remote _ _) => { c with saved := true, det := true }
  | some (.ready _) | none => { c with saved := true }
  | some _ => { c with saved := true, wait := some .held }

/-- An agent stopped and out of its place. A pre-emption trap it has not entered is given up; a wait it is in is left
(07 R177, R187, 14 R393), but for an armed `ctwait` of a swap. -/
def State.stopAgent (s : State) (i : Nat) (swap : Bool) : State :=
  match tget s.agents i with
  | none => s
  | some a0 =>
    let s := s.finishEntries i (a0.pend.mq.countP fun e => e.array.isSome)
    let s := (s.leaveWaits i).leaveAll (a0.pend.mq.map (·.id) ++ a0.pend.ops.map (·.id))
    match tget s.agents i with
    | none => s
    | some a =>
      let was := poolOf i a
      let pre := match a.flt.due with | some f => a.flt.trapping && f.cause == 0x20 | none => false
      let a := a.setOps (a.pend.ops.map Op.stopped)
      (s.setAgent i { a with
        pos := { a.pos with out := true, away := false }
        pend := { a.pend with ct := if swap then a0.pend.ct else none }
        sched := { a.sched with gmask := 0, covered := false, page := none }
        flt := { a.flt with
          pre := false
          trapping := a.flt.trapping && !pre
          due := if pre then none else a.flt.due } }).noteFreedIf (!a.granules.isEmpty) was

def State.stopAgents (s : State) (swap : Bool) : List Nat → State
  | [] => s
  | i :: is => (s.stopAgent i swap).stopAgents swap is

/-! Saving units. -/

/-- Running agents of a team. -/
def State.teamAgents (s : State) (t : Nat) : List (Nat × Agent) :=
  s.agents.filter fun (_, a) => a.id.team == t && !a.id.seq

/-- Every agent of a list has executed `psave` with a bit of its skip mask set (07 R179). -/
def skips (bit : Nat) (l : List (Nat × Agent)) : Bool :=
  l.all fun (_, a) => match a.sched.psaved with | some m => bitAt m bit | none => false

/-- A team out of its core; its scratchpad is kept unless software has saved it. -/
def State.saveTeam (s : State) (t : Nat) (x : Team) (place : Place) (skip : Bool) (pages : List Nat) : State :=
  let ids := (s.teamAgents t).map (·.1)
  let image := if skip then [] else s.getBytes (.scr x.core x.scr) (s.scratchOf x)
  let s := s.leaveAll ((s.copies.filter fun (_, c) => c.team == t).map (·.1))
  let s := s.stopAgents (place == .swapped) ids
  let s := { s with copies := tmap s.copies fun _ c => if c.team = t then c.stopped else c }
  let (pages, s) := s.fillPages (s.grid x.grid).vd (s.grid x.grid).lrec.ctx pages
  (s.setTeam t { x with place, image, pages, since := s.now }).settleCores

/-- Pages for each of a list of teams; `none` when the region is too small. -/
def State.pagesFor (s : State) (vd ctx : Nat) : List (Nat × Team) → Option (List (List Nat) × State)
  | [] => some ([], s)
  | (t, x) :: ts =>
    match s.takePages vd ctx (s.teamPages t x) with
    | none => none
    | some ps =>
      match (s.setTeam t { x with pages := ps.map fun p => (p, 0) }).pagesFor vd ctx ts with
      | none => none
      | some (l, s) => some (ps :: l, s)

/-- Teams saved with the pages found for them. -/
def State.saveTeams (s : State) (forced : Bool) : List ((Nat × Team) × List Nat) → State
  | [] => s
  | ((t, x), ps) :: ts =>
    (s.saveTeam t x .saved (!forced && skips 0 (s.teamAgents t)) ps).saveTeams forced ts

/-- The tiles of a pod group saved with it, or given up when software has saved them: every name is then unbound. -/
def State.saveTiles (s : State) (p : Nat) (x : Pod) (skip : Bool) : State :=
  if skip then { s with bufs := s.bufs.filter fun (_, b) => b.pod != p }.setPod p { x with out := true, names := [] }
  else s.setPod p { x with out := true }

/-- The tile record of a cob grows to what it needs and is written; `none` when the region is too small, or a page cannot
be written. -/
def State.growTilePages (s : State) (vd ctx cob : Nat) : Option State :=
  let c := s.ctx vd ctx
  let ps := tgetD c.tilePages cob []
  match s.takePages vd ctx (s.tilePagesFor vd ctx cob - ps.length) with
  | none => none
  | some more =>
    if !s.pkg.stopped && !(ps.all fun p => s.pageSound vd ctx p.1) then none
    else
      some ((s.setCtx vd ctx { c with tilePages := tset c.tilePages cob (ps ++ more.map fun p => (p, 0)) }).writeTilePages
        vd ctx cob)

/-- A pod group saved whole: its resident teams, its sequencer context, its tiles. A save that cannot be written fails
its grid with cause 0x0C (07 R183). -/
def State.savePod (s : State) (p : Nat) (forced : Bool) : State :=
  match tget s.pods p with
  | none => s
  | some x =>
    let ts := s.teams.filter fun (_, t) => t.pod == p && t.holds
    let seq := match x.seq with
      | some i => (match tget s.agents i with | some a => if a.pos.out then [] else [(i, a)] | none => [])
      | none => []
    let who := (ts.flatMap fun (t, _) => s.teamAgents t) ++ seq
    let skip := !forced && skips 1 who
    let fail := s.endGrid x.grid 8 0x0C 0
    match s.pagesFor x.vd x.ctx ts with
    | none => fail
    | some (pss, s1) =>
      match s1.takePages x.vd x.ctx seq.length with
      | none => fail
      | some sp =>
        let s2 := ((s1.setPod p { x with pages := sp.map fun q => (q, 0) }).saveTeams forced (ts.zip pss)).stopAgents false
          (seq.map (·.1))
        let (sp, s2) := s2.fillPages x.vd x.ctx sp
        match tget s2.pods p with
        | none => s2
        | some x2 =>
          match (s2.saveTiles p { x2 with pages := sp, since := s2.now } skip).growTilePages x.vd x.ctx x.cob with
          | none => fail
          | some s3 => s3.settleRebinds x.vd x.ctx

def State.savePods (s : State) (forced : Bool) : List Nat → State
  | [] => s
  | p :: ps => (s.savePod p forced).savePods forced ps

/-- Pod groups of a context on a cob that are not saved. -/
def State.podsOn (s : State) (vd ctx cob : Nat) : List Nat :=
  (s.pods.filter fun (_, p) => p.vd == vd && p.ctx == ctx && p.cob == cob && !p.out).map (·.1)

/-! Pre-emption requests (07 R177, R178). -/

/-- Agents a request covers: those of the context's teams placed on the cob, wherever they run, and sequencer contexts
of its pod groups there. -/
def State.coveredBy (s : State) (vd ctx cob : Nat) : List (Nat × Agent) :=
  s.agents.filter fun (_, a) =>
    a.id.vd == vd && a.id.ctx == ctx && !a.pos.out &&
      (if a.id.seq then cobOfCore a.pos.core == cob
       else match tget s.teams a.id.team with
         | some t => t.holds && cobOfCore t.core == cob
         | none => false)

/-- A pre-emption request reaches a cob: work without a trap vector is saved at once, the rest is told. -/
def State.preempt (s : State) (vd ctx cob : Nat) (whole : Bool) : State :=
  let key := cobKey vd ctx cob
  if (tget s.preReqs key).isSome then s
  else
    let isl := s.isl (dieOfCob cob) (islandOfCob cob)
    let blind := (s.podsOn vd ctx cob).filter fun p =>
      match tget s.pods p with | some x => (s.grid x.grid).vector.isNone | none => false
    let s := { s with preReqs := tset s.preReqs key { start := isl.cyc, whole, saving := false, pods := blind } }
    let s := s.savePods true blind
    let ids := (s.coveredBy vd ctx cob).map (·.1)
    { s with agents := tmap s.agents fun i a =>
        if ids.contains i then { a with sched := { a.sched with covered := true }, flt := { a.flt with pre := true } } else a }

/-- Every covered agent has executed `psave` or ended. -/
def State.allPsaved (s : State) (vd ctx cob : Nat) : Bool :=
  (s.coveredBy vd ctx cob).all fun (_, a) => a.sched.psaved.isSome

/-- The save of a request's work starts. -/
def State.saveCob (s : State) (vd ctx cob : Nat) (forced : Bool) : State :=
  let key := cobKey vd ctx cob
  let ps := s.podsOn vd ctx cob
  let s := s.savePods forced ps
  match tget s.preReqs key with
  | some q => { s with preReqs := tset s.preReqs key { q with saving := true, pods := q.pods ++ ps } }
  | none => s

/-- The cooperative save, when the last covered agent has stopped (07 R179). -/
def State.coopCheck (s : State) (vd ctx cob : Nat) : State :=
  match tget s.preReqs (cobKey vd ctx cob) with
  | some q => if !q.saving && s.allPsaved vd ctx cob then s.saveCob vd ctx cob false else s
  | none => s

/-- The contexts of a device that a DESCHEDULE command still has to stop (03 R69). -/
def execPreemptionRequest (vd ctx cob : Nat) (s : State) : Out :=
  if (s.vd vd).st = .held ∧ (s.vd vd).cmd ∧ !(s.podsOn vd ctx cob).isEmpty then .next (s.preempt vd ctx cob true)
  else .next s

/-- The end of a budget, or of the last covered agent within it (07 R178). -/
def execPreemptionBudgetEnd (vd ctx cob : Nat) (s : State) : Out :=
  match tget s.preReqs (cobKey vd ctx cob) with
  | none => .next s
  | some q =>
    if q.saving then .next s
    else if s.allPsaved vd ctx cob then .next (s.saveCob vd ctx cob false)
    else if q.start + 50000 ≤ (s.isl (dieOfCob cob) (islandOfCob cob)).cyc then .next (s.saveCob vd ctx cob true)
    else .next s

/-- The save of a cob's work is written: its units return to the ready order from now (07 R182, R185); what the context
still has on the cob, threads that have landed there, has a new slice (06 R155). -/
def execSaveComplete (vd ctx cob : Nat) (s : State) : Out :=
  let key := cobKey vd ctx cob
  match tget s.preReqs key with
  | none => .next s
  | some q =>
    if !q.saving then .next s
    else
      let ps := (s.pods.filter fun (p, x) => q.pods.contains p && x.out).map (·.1)
      let s := { s with
        preReqs := tdel s.preReqs key
        slices := tdel s.slices key
        teams := tmap s.teams fun _ t => if ps.contains t.pod && t.place == Place.saved then { t with since := s.now } else t
        pods := tmap s.pods fun p x => if ps.contains p then { x with since := s.now } else x }
      .next (if s.workOn vd ctx cob then s.startSlice vd ctx cob else s)

/-! Child-wait swaps (06 R146). -/

/-- A team is in child wait: a grid its leader launched has not ended, and each of its threads waits in `ctwait`. -/
def State.childWait (s : State) (t : Nat) (x : Team) : Bool :=
  x.holds && (s.grids.any fun (_, g) => g.parent == some x.grid && g.pteam == t) &&
    !(s.teamAgents t).isEmpty && (s.teamAgents t).all fun (_, a) =>
      (match a.pend.ct with | some c => c.hit.isNone | none => false) && !a.flt.trapping

/-- Since when a team is in child wait: the last of its threads to arm, or to exit. -/
def State.childWaitFrom (s : State) (t : Nat) : Nat :=
  ((s.teamAgents t).map fun (_, a) => (a.pend.ct.map (·.since)).getD 0).foldl max (((tget s.teams t).map (·.endAt)).getD 0)

/-- The team swapped out. -/
def State.swapTeam (s : State) (t : Nat) (x : Team) : Option State :=
  let g := s.grid x.grid
  match s.takePages g.vd g.lrec.ctx (s.teamPages t x), tget s.pods x.pod with
  | some ps, some p =>
    let alone := p.seq.isNone && !(s.teams.any fun (u, y) => u != t && y.pod == x.pod && y.holds)
    let s := s.saveTeam t x .swapped false ps
    if alone then (s.saveTiles x.pod p false).growTilePages g.vd g.lrec.ctx p.cob else some s
  | _, _ => none

/-- A blocking child grid would have its next unit, the whole of it, on the team's cob with a team of it on the team's core,
once the team is gone. -/
def State.helps (s : State) (t : Nat) (x : Team) : Bool :=
  let s' := s.setTeam t { x with place := .swapped }
  let s' := { s' with agents := tmap s'.agents fun _ a =>
    if a.id.team = t ∧ !a.id.seq then { a with pos := { a.pos with out := true }, pend := { a.pend with freq := none } } else a }
  s.grids.any fun (i, g) =>
    g.parent.isSome && g.blocking && !g.placed && g.vd == (s.grid x.grid).vd && (s'.fitCore (wantOf g) x.core).isSome
      && (s'.newUnit i (cobOfCore x.core)).isSome

/-- A team in child wait is swapped out for a blocking child grid: the one that has waited longest, when everything of
it has completed and the region has room. -/
def execChildWaitSwap (team : Nat) (s : State) : Out :=
  match tget s.teams team with
  | none => .next s
  | some x =>
    let cand := s.teams.filter fun (t, y) => s.childWait t y && s.helps t y
    let first := cand.all fun (t, _) => t == team || decide (s.childWaitFrom team ≤ s.childWaitFrom t)
    let still := (s.teamAgents team).all (fun (_, a) => a.pend.ops.isEmpty) && !(s.copies.any fun (_, c) => c.team == team)
    if (cand.any fun e => e.1 == team) ∧ first ∧ still then
      match s.swapTeam team x with
      | some s => .next s
      | none => .next s
    else .next s

/-! `psave` (15 R445). -/

/-- The agent is in a handler entered for a pre-emption (07 R172). -/
def Agent.inPreHandler (a : Agent) : Bool :=
  match a.flt.entries with
  | e :: _ => e.cause == 0x20
  | [] => false

def psaveFx (x : Src) (s : State) (i : Nat) (a : Agent) : Fx :=
  if !a.inPreHandler then .fault (faultAt s a 0x0C 0)
  else
    onRd s a (a.src ⟨x, 32, .int⟩) fun m =>
      if !a.quiet || a.settling then .keep s
      else if !a.sched.covered then .done s
      else .done (s.setAgent i { a with sched := { a.sched with psaved := some (m % 4) } })

/-- The cob of the request that covers an agent. -/
def State.homeCob (s : State) (a : Agent) : Nat :=
  if a.id.seq then cobOfCore a.pos.core else cobOfCore (s.teamCore a)

/-- `psave`, and the cooperative save its last one brings about. -/
def execPsave (h : Hdr) (a : Src) (s : State) : Out :=
  match issue .both true h offNone (psaveFx a) s with
  | .next t =>
    match s.run.cur.bind fun i => tget t.agents i with
    | some x => if x.sched.psaved.isSome then .next (t.coopCheck x.id.vd x.id.ctx (s.homeCob x)) else .next t
    | none => .next t
  | o => o

/-! `migrate` (08 R207 to R211, 14 R404). -/

/-- The effect of `migrate`: its target is found, the thread settles, and it waits at its source for the move. -/
def migrateFx (x : Src) (s : State) (i : Nat) (a : Agent) : Fx :=
  if a.pend.mig.isSome then .keep s
  else
    onRd s a (a.src ⟨x, 64, .int⟩) fun va =>
      if inWindow va then .fault (faultAt s a 0x0F va)
      else
        match ownDead (s.ownsOf i) va 1 false, s.translate a.id.vd a.id.ctx va .r with
        | some c, _ => .fault (faultAt s a c va)
        | none, (.wait st, s) => .keep (s.setOwns i (s.ownWait (s.ownsOf i) va 1 false st))
        | none, (.fail c r, s) => .fault (faultAt s a c va r)
        | none, (.ok _ (some _), s) => .fault (faultAt s a 0x0F va)
        | none, (.ok pa none, s) =>
          match s.homeDie pa with
          | none => .fault (faultAt s a 0x0F va)
          | some d =>
            if (s.die d).lost then .fault (faultAt s a 0x0F va)
            else if (granuleOf pa).any (fun g => s.ownerOf g != a.id.vd) then .fault (faultAt s a 0x0C va)
            else if !a.quiet || a.settling then .keep s
            else if a.hasParked || (!a.inHandler && !(a.completions true).isEmpty) then .point s
            else if d = dieOfCore a.pos.core then .done s
            else .keep (s.setAgent i { a with pend := { a.pend with mig := some (d, va) } })

def execMigrate (h : Hdr) (a : Src) (s : State) : Out := issue .thread false h offNone (migrateFx a) s

/-- Registers of resident frames. -/
def Agent.residentRegs (a : Agent) : Nat := (a.arch.frames.map (·.dem)).sum

/-- What trimming an agent's resident frames to 128 registers comes to. -/
inductive Trim where
  | ok (s : State)
  | wait (s : State)
  | noFit
  | fail (cause : Nat) (s : State)

/-- Bottom frames evicted until at most 128 registers are resident (08 R209). -/
def trimTo (i : Nat) : Nat → State → Trim
  | 0, s => .ok s
  | n + 1, s =>
    match tget s.agents i with
    | none => .ok s
    | some a =>
      if a.residentRegs ≤ 128 then .ok s
      else
        match s.evictBottom i with
        | .ok s => trimTo i n s
        | .wait s => .wait s
        | .noFit => .noFit
        | .fail c s => .fail c s

/-- Granules for an agent's resident frames. -/
def Agent.needGran (a : Agent) : Nat := (a.arch.frames.map fun f => ceilDiv f.dem 16).sum

/-- The core of a die where a thread can land: its landing slot is free and its landing pool holds the frames. DESIGN CHOICE:
a core where an older thread of that landing pool waits for granules is passed over, as though its pool did not hold them,
so that the thread that waits is served first (08 R198). -/
def State.landingCore (s : State) (a : Agent) (d : Nat) : Option Nat :=
  (upFrom (96 * d) 96).find? fun c =>
    let p : Pool := .lane c a.pos.pip a.pos.lane true
    s.coreOn c && !(s.agents.any fun (_, b) =>
      b.pos.away && !b.pos.out && b.pos.core == c && b.pos.pip == a.pos.pip && b.pos.lane == a.pos.lane)
      && (s.blockedIn p).isEmpty && decide (a.needGran ≤ (s.freeGran p).length)

/-- A thread at a new position with its frames there; it resumes after its `migrate` (08 R209). -/
def State.moveTo (s : State) (i : Nat) (a : Agent) (pos : Pos) (alone : Bool) : State :=
  let was := poolOf i a
  let s := s.sweepRows.startSlice a.id.vd a.id.ctx (cobOfCore pos.core)
  let s := s.setAgent i { a with
    pos
    pend := { a.pend with mig := none, wake := false, freq := none }
    sched := { a.sched with page := none, gmask := 0 } }
  let a := { a with pos }
  let (fs, s) := regrant (s.setAgent i { (tget s.agents i).getD a with arch := { a.arch with frames := a.arch.frames.map fun f => { f with gran := [] } } })
    (s.freeGran (poolOf i a)) a.arch.frames
  match tget s.agents i with
  | none => s
  | some b =>
    let s := (s.setAgent i { b with arch := { b.arch with frames := fs } }).noteFreedIf (!alone && !fs.isEmpty) was
    if alone then s.reissue i else s.advance i false none

/-- The faults with which a move ends: its instruction is the `migrate`, and ADDR the address it names, 0 where no frame can
be had (07 R161). -/
def State.moveFault (s : State) (i : Nat) (a : Agent) (cause : Nat) : State :=
  let (w, s) := s.nextWord i a
  let addr := if cause = 0x12 then 0 else (a.pend.mig.map (·.2)).getD 0
  s.raise i { cause, pc := a.curPc, resume := some a.curPc, addr := BitVec.ofNat 64 addr, iword := w }

/-- A move to the team's own core: granules of the general pool are asked for (08 R208). -/
def State.moveHome (s : State) (i : Nat) (a : Agent) (t : Team) : State :=
  let tid := a.id.tid
  let pos : Pos := { core := t.core, pip := tid / 16 % 4, lane := tid % 16, slot := t.base + tid / 64 }
  match s.frameReq i a (.lane pos.core pos.pip pos.lane false) a.needGran false [] with
  | some s => s
  | none => s.moveTo i a pos a.sched.page.isSome

/-- A move to a landing slot of another die. -/
def State.moveAway (s : State) (i : Nat) (a : Agent) (d : Nat) : State :=
  match trimTo i 256 s with
  | .wait s => s
  | .noFit => s.moveFault i a 0x0F
  | .fail c s => s.moveFault i ((tget s.agents i).getD a) c
  | .ok s =>
    match tget s.agents i with
    | none => s
    | some a =>
      match s.landingCore a d with
      | none => s
      | some c =>
        s.moveTo i a { core := c, pip := a.pos.pip, lane := a.pos.lane, slot := 16, away := true } a.sched.page.isSome

/-- A thread that waits for a move, moved when its target has room and is on (08 R208, R209, 01 R30); a thread saved
alone on a revocation returns the same way (07 R186). -/
def execMigrateTransfer (agent : Nat) (s : State) : Out :=
  match tget s.agents agent with
  | none => .next s
  | some a =>
    match a.pend.mig with
    | none => .next s
    | some (d, _) =>
      if (a.flt.trapping ∧ !a.pos.out) ∨ (a.pos.out ∧ a.sched.page.isNone) then .next s
      else if !s.pagesHold a.id.vd a.id.ctx a.sched.page.toList then .next (s.endGrid a.id.grid 8 0x0C 0)
      else if (s.die d).lost then .next (s.moveFault agent a 0x0F)
      else if (s.die d).gate ≠ .on then
        .next ((s.wakeDie d).setAgent agent { a with pend := { a.pend with wake := true } })
      else
        match tget s.teams a.id.team with
        | none => .next s
        | some t =>
          .next (if dieOfCore t.core = d then s.moveHome agent a t else s.moveAway agent a d)

/-! Landing threads saved alone (07 R186). -/

/-- Landing threads of a device's context on a cob whose teams lie elsewhere. -/
def State.landersOn (s : State) (vd ctx cob : Nat) : List (Nat × Agent) :=
  s.agents.filter fun (_, a) =>
    a.id.vd == vd && a.id.ctx == ctx && a.pos.away && !a.pos.out && cobOfCore a.pos.core == cob

/-- They are saved on `ceil(n / 32)` pages together; without room each one's grid fails. -/
def State.saveLanders (s : State) (vd ctx cob : Nat) : State :=
  let ls := s.landersOn vd ctx cob
  match s.takePages vd ctx (ceilDiv ls.length 32) with
  | none => ls.foldl (fun s (_, a) => s.endGrid a.id.grid 8 0x0C 0) s
  | some ps =>
    let (ps, s) := s.fillPages vd ctx ps
    (((upFrom 0 ls.length).zip ls).foldl (fun s (k, (i, a)) =>
      let s := s.stopAgent i false
      match tget s.agents i with
      | none => s
      | some b => s.setAgent i { b with
          pend := { b.pend with mig := some (dieOfCore a.pos.core, 0) }
          sched := { b.sched with page := ps[k / 32]? } }) s).settleRebinds vd ctx

end Sys2Proof.Machine
end

