-- ==== Sys2Proof/Machine/Traps.lean ====
section
/-!
DEFINITION. Events of results, traps and frames: the return of a deferred result (08 R192), the entry of a trap that
waited (07 R168), grants and evictions of frames (08 R198, R202), timeouts of requests (01 R26, 02 R56).
-/
namespace Sys2Proof.Machine

/-- An operation whose value is fixed lands. -/
def State.landIfReady (s : State) (i id : Nat) : State :=
  match tget s.agents i with
  | none => s
  | some a =>
    match a.op id with
    | some o => (match o.st with | .ready ws => s.land i o ws | _ => s)
    | none => s

/-- The address an access names. -/
def Acc.va : Acc → Nat
  | .load va _ _ | .store va _ _ | .rmw _ va _ _ _ | .ctadd va _ _ | .ctrd va | .pref va => va
  | .elemLd b _ | .elemSt b _ _ _ => b / 8
  | .tileLd it _ _ _ | .tileSt it _ _ _ _ => it.base
  | .tileWin w _ _ _ => w.base

/-- The address of an outstanding operation. -/
def Op.va (o : Op) : Nat := (o.acc.map Acc.va).getD 0

/-- A peer answers an access of the part's own, or it fails (02 R55, R56). -/
def Own.answered (o : Own) (r : Reply) : Own :=
  match r with
  | .fixed => { o with st := .held, data := some [] }
  | .data bs => { o with st := .held, data := some bs }
  | .failed c => { o with st := .held, dead := some c.toNat }

/-- The first of some accesses that waits for a peer has its answer. -/
def answerFirst (r : Reply) : List Own → List Own
  | [] => []
  | o :: os => if o.st.isRemote then o.answered r :: os else o :: answerFirst r os

/-- An outstanding operation of an agent has its value, or the answer of a peer; one at a full walker goes on when the fault
buffer has room (07 R163, log 54). -/
def State.opReturns (s : State) (i : Nat) (o : Op) (r : Reply) : State :=
  match o.st, r with
  | .ready _, .fixed => (s.landIfReady i o.id).afterReturn i
  | .walker d _, .fixed => if s.bufferRoom d then ((s.tryOp i o.id none).landIfReady i o.id).afterReturn i else s
  | .remote _ _, .fixed => ((s.tryOp i o.id (some [])).landIfReady i o.id).afterReturn i
  | .remote _ _, .data bs => ((s.tryOp i o.id (some bs)).landIfReady i o.id).afterReturn i
  | .remote _ _, .failed c => (s.failOp i o c.toNat o.va).afterReturn i
  | _, _ => s

/-- Some access waits because another one to bytes of its range is out to a peer (08 R225). -/
def State.spanWaits (s : State) : Bool := s.agents.any fun (_, a) => a.pend.ops.any fun o => o.st == .held

/-- Accesses that waited for one that has been answered are attempted again. -/
def State.retrySpans (s : State) : State := if s.spanWaits then s.retryHeld else s

/-- The core of a copy request, or of an agent. -/
def State.coreOf (s : State) (i : Nat) : Nat :=
  match tget s.copies i, tget s.agents i with
  | some c, _ => c.core
  | none, some a => a.pos.core
  | none, none => 0

/-- A deferred result returns, or a peer's answer arrives (08 R192, 02 R55); operation 0 is the access that an instruction
makes of its own. While the island relocks what comes to it waits in its clock-crossing FIFOs (01 R24). -/
def execDeferredResultReturn (agent op : Nat) (r : Reply) (s : State) : Out :=
  if (s.islOfCore (s.coreOf agent)).relock then
    .next (match r with | .fixed => s | .data _ | .failed _ => s.later (.deferredResultReturn agent op r))
  else
  match tget s.copies agent with
  | some _ => .next (s.copyReply agent op r).retrySpans
  | none =>
    match tget s.agents agent with
    | none => .next s
    | some a =>
      if op = 0 then .next (s.setOwns agent (answerFirst r a.pend.own))
      else
      match a.op op with
      | none => .next s
      | some o => .next (if o.st.isRemote then (s.opReturns agent o r).retrySpans else s.opReturns agent o r)

/-- A trap being entered goes on (07 R168). -/
def execTrapEntry (agent : Nat) (s : State) : Out := .next (s.tryTrap agent)

/-! Frames. -/

/-- The granules a request still needs, taken at once when the pool has them free (08 R198). -/
def State.grant (s : State) (i : Nat) : State :=
  match tget s.agents i with
  | none => s
  | some a =>
    match a.pend.freq with
    | none => s
    | some r =>
      let free := s.freeGran r.pool
      let n := r.want - (r.held.length + r.ownGran a)
      if free.length < n then s
      else
      let (g, s) := pickGran s free n
      s.setAgent i { a with pend := { a.pend with freq := some { r with held := r.held ++ g } } }

/-- The oldest request of a pool takes what has become free. -/
def execFrameGrant (agent : Nat) (s : State) : Out :=
  match tget s.agents agent with
  | none => .next s
  | some a =>
    match a.pend.freq with
    | none => .next s
    | some r =>
      match s.oldestBlocked r.pool with
      | some (j, _, _) => if j = agent then .next ((s.grant agent).tryTrap agent) else .next s
      | none => .next s

/-- What evicting frames for a request comes to. -/
inductive Esc where
  | served (s : State)
  | wait (s : State)
  | fail (cause : Nat) (s : State)
  | short (s : State)

/-- A mover's request asks for what its resident frames need. -/
def State.rewant (s : State) (i : Nat) : State :=
  match tget s.agents i with
  | none => s
  | some a =>
    match a.pend.freq with
    | some r => if a.pend.mig.isSome then s.setAgent i { a with pend := { a.pend with freq := some { r with want := a.needGran } } } else s
    | none => s

/-- The request of an agent is served. -/
def State.isServed (s : State) (i : Nat) : Bool :=
  match tget s.agents i with
  | none => true
  | some a => (match a.pend.freq with | some r => r.served a | none => true)

/-- Frames of one victim evicted from the bottom until the request is served or one does not fit (08 R202, R203). -/
def evictVictim (i j : Nat) : Nat → State → Esc
  | 0, s => .short s
  | n + 1, s =>
    if s.isServed i then .served s
    else
      match s.evictBottom j with
      | .ok s => evictVictim i j n ((s.rewant i).grant i)
      | .wait s => .wait s
      | .fail c s => .fail c s
      | .noFit => .short s

/-- The victims taken in order. -/
def evictFor (i : Nat) : List Nat → State → Esc
  | [], s => if s.isServed i then .served s else .short s
  | j :: js, s =>
    match evictVictim i j 257 s with
    | .short s => evictFor i js s
    | r => r

/-- Victims of a pool, longest blocked first. -/
def State.victims (s : State) (p : Pool) : List Nat :=
  (((s.blockedIn p).filter fun x => x.2.2.pool == p).foldl (fun l x => ins (x.2.2.since, x.1) l) []).map (·.2)
where
  ins (e : Nat × Nat) : List (Nat × Nat) → List (Nat × Nat)
    | [] => [e]
    | x :: xs => if e.1 < x.1 then e :: x :: xs else x :: ins e xs

/-- The requester faults with a cause at its blocked instruction: 0x12 where no eviction serves it, 0x16 where a write to a
spill area has failed (02 R52). DESIGN CHOICE (log 35): in the entry of a trap that is a double fault, told by the cause and PC
of the trap it would enter; 05 R134 says so of a sequencer's pool. -/
def State.noFrames (s : State) (i cause : Nat) : State :=
  match tget s.agents i with
  | none => s
  | some a =>
    match a.flt.trapping, a.flt.due with
    | true, some f => s.endGrid a.id.grid 8 f.cause f.pc
    | _, _ => s.moveFault i a cause

/-- The frame spill engine of a lane acts for the oldest frame-blocked thread (08 R202). -/
def execFrameSpillEscape (agent : Nat) (s : State) : Out :=
  match tget s.agents agent with
  | none => .next s
  | some a =>
    match a.pend.freq with
    | none => .next s
    | some r =>
      match s.oldestBlocked r.pool, r.pool with
      | some (j, _, _), .lane _ _ _ _ =>
        if j ≠ agent ∨ r.cycles < 1024 then .next s
        else
          match evictFor agent (s.victims r.pool) s with
          | .served s => .next (s.tryTrap agent)
          | .wait s => .next s
          | .fail c s => .next (s.noFrames agent c)
          | .short s => .next (s.noFrames agent 0x12)
      | _, _ => .next s

/-! Timeouts. -/

/-- An operation that a save has not cancelled (07 R184): only such a one can time out. -/
def Agent.live (a : Agent) (o : Op) : Bool := !a.pos.out || o.det || a.ended

/-- A unit of a request fails, or, while the request is saved, will fail when it resumes (07 R185). -/
def State.unitTimeout (s : State) (id u : Nat) (c : Copy) : State :=
  if c.saved then s.replyKept id c (.failed 0x16) else s.waitFails id u 0x16 c

/-- A request to another die has had no response for 200,000 ticks (01 R26). -/
def execCrossDieTimeout (agent op : Nat) (s : State) : Out :=
  match tget s.copies agent with
  | some c =>
    let late := c.wait.any fun st => s.timedOut c.core st c.askAt
    if c.asking == some op && late && !c.saved then .next (s.unitTimeout agent op c) else .next s
  | none =>
    match tget s.agents agent with
    | none => .next s
    | some a =>
      let late (st : OpSt) (since : Nat) : Bool := s.timedOut a.pos.core st since
      if op = 0 then .next (s.setOwns agent (killOwn (fun o => o.data.isNone && o.dead.isNone && late o.st o.since) a.pend.own))
      else
      match a.op op with
      | none => .next s
      | some o =>
        if a.live o && late o.st o.since then .next ((s.failOp agent o 0x16 o.va).afterReturn agent) else .next s

/-- `n` lost requests counted at a port (02 R54). -/
def State.countLostOn (s : State) (p n : Nat) : State :=
  let x := (s.link.ports.getD p 0).toNat
  { s with link := { s.link with
    ports := s.link.ports.set p (BitVec.ofNat 64 (setBits x 32 16 (min (bits x 32 16 + n) 0xFFFF))) } }

/-- A request that has failed counted at the port that last carried it; one that waits for the fabric regulator none has
carried (02 R56). -/
def State.countLost (s : State) (st : OpSt) : State :=
  match st with
  | .remote _ p => s.countLostOn p 1
  | .ready _ | .parked _ _ | .walker _ _ | .snoop _ | .regul _ _ | .held => s

/-- A request to a peer has had no response for 500,000 ticks (02 R56). -/
def execRemoteRequestTimeout (agent op : Nat) (s : State) : Out :=
  match tget s.copies agent with
  | some c =>
    match c.wait with
    | some st =>
      if c.asking == some op && s.peerLate st c.askAt then
        .next ((s.countLost st).unitTimeout agent op c).retrySpans
      else .next s
    | none => .next s
  | none =>
    match tget s.agents agent with
    | none => .next s
    | some a =>
      if op = 0 then
        match a.pend.own.find? fun o => o.dead.isNone && o.data.isNone && s.peerLate o.st o.since with
        | some o => .next ((s.countLost o.st).setOwns agent (killOwn (fun x => x == o) a.pend.own))
        | none => .next s
      else
      match a.op op with
      | none => .next s
      | some o =>
        if a.live o && s.peerLate o.st o.since then
          .next (((s.countLost o.st).failOp agent o 0x16 o.va).afterReturn agent).retrySpans
        else .next s

end Sys2Proof.Machine
end

