-- ==== Sys2Proof/Machine/Issue.lean ====
section
/-!
DEFINITION. Issue (06 R147 to R151, 15 R430), clocks (08 R222), time slices (06 R155, R156) and the hang watchdog
(06 R158, R159).
-/
namespace Sys2Proof.Machine

/-! What an agent would issue. -/

/-- The word at an agent's program counter, without fetching it. -/
def State.peekPc (s : State) (a : Agent) : Option DWord :=
  let va := a.arch.pc.toNat
  match s.icGet a.pos.core a.id.vd a.id.ctx va with
  | some bs => some (BitVec.ofNat 64 (ofBytes bs))
  | none =>
    let page := match s.tlbGet a.id.vd a.id.ctx va with
      | some e => Walk.ok (e.at_ va)
      | none => s.walk a.id.vd a.id.ctx va .x
    match page with
    | .ok p => if p.rmt.isSome then none else some (BitVec.ofNat 64 (s.getNat (.mem p.pa) 8))
    | .fail _ _ => none

/-- The instruction an agent would fetch next, with its word, without fetching it. -/
def State.peek (s : State) (a : Agent) : Option (Dec Instr × DWord) :=
  match a.arch.mac with
  | none => (s.peekPc a).map fun w => (decode w, w)
  | some m =>
    if m.check then
      (s.peekPc a).bind fun w =>
        match decode w with
        | .ok (.macroOp _ idx p0 p1 p2) =>
          if s.macReaches a idx.toNat m.j then
            some (decodeStore (s.macWord a idx.toNat m.j).toNat p0.code p1.code p2.code)
          else none
        | _ => none
    else some (decodeStore (s.macWord a m.idx m.j).toNat m.p0 m.p1 m.p2)

def State.peekWord (s : State) (a : Agent) : Option DWord := (s.peek a).map (·.2)

/-- The instruction an agent would issue next. -/
def State.nextInstr (s : State) (a : Agent) : Option Instr :=
  match s.peek a with
  | some (.ok i, _) => some i
  | _ => none

/-- The memory-or-tile class of 06 R149. -/
def inMemClass : Instr → Bool
  | .ld .. | .st .. | .ldx .. | .stx .. | .pref .. | .atom .. | .red .. | .ctadd .. | .ctwait .. | .ctrd .. | .barInit ..
  | .barExpect .. | .barArrive .. | .barArrivex .. | .barPhase .. | .fence .. | .scopew .. | .scoper .. | .icinv ..
  | .ipref .. | .ipin .. | .irel .. | .cwb .. | .talloc .. | .trel .. | .thand .. | .twr .. | .trd .. | .tzero .. | .tld ..
  | .tst .. | .tldw .. | .twait .. | .tq .. | .cpyk .. | .cprepl .. | .fmtbind .. | .fmtq .. | .fmtfence .. | .migrate ..
  | .launch .. | .psave .. => true
  | _ => false

/-- The next word of an agent belongs to the memory-or-tile class. -/
def State.nextMem (s : State) (a : Agent) : Bool :=
  match s.nextInstr a with
  | some i => inMemClass i
  | none => false

/-- The guard of the next instruction is true, with that of its `macro` word (11 R282, R299). -/
def State.nextGuard (s : State) (a : Agent) : Bool :=
  match s.peekWord a with
  | some w =>
    match a.guard (hdrOf w.toNat) with
    | .ok b => b
    | _ => false
  | none => false

/-- The island of an agent is out of relock, its die is on and its device is not paused (06 R148, 03 R88). -/
def State.mayIssue (s : State) (a : Agent) : Bool :=
  let d := dieOfCore a.pos.core
  (s.die d).gate == .on && !(s.die d).lost && !(s.islOfCore a.pos.core).relock && (s.vd a.id.vd).shed != 2

/-- A fault of the agent is due at its boundary (07 R167). -/
def Agent.dueNow (a : Agent) : Bool :=
  !a.inHandler && (!(a.completions false).isEmpty || !a.flt.engine.isEmpty || a.flt.wdog || a.flt.pre)

/-- An access of an instruction's own waits for a peer, the host or a regulator. -/
def State.ownHeld (s : State) (o : Own) : Bool :=
  o.dead.isNone && o.data.isNone &&
    match o.st with
    | .remote _ _ | .regul _ _ => true
    | .snoop l => s.link.snoops.any fun n => n.line == l
    | .ready _ | .parked _ _ | .walker _ _ | .held => false

/-- Every detached operation and copied unit of the save a unit has returned from has completed (07 R185). -/
def State.unitClear (s : State) (a : Agent) : Bool :=
  if a.id.seq then !(a.pend.ops.any (·.det))
  else
    !(s.agents.any fun (_, b) => !b.id.seq && b.id.team == a.id.team && b.pend.ops.any (·.det))
      && !(s.copies.any fun (_, c) => c.team == a.id.team && c.det)

/-- The agent waits for something that happens elsewhere (06 R148). -/
def Agent.waiting (s : State) (a : Agent) : Bool :=
  a.pend.own.any (fun o => !o.late && s.ownHeld o) ||
  (match a.pend.ct with | some c => c.hit.isNone | none => false)
    || (match a.pend.rejoin with | some (j, _, _) => !rejoined (s.row 0 a) j a | none => false)
    || a.pend.mig.isSome || a.frameBlocked || a.pend.talloc.isSome
    || (match a.pend.fence with | some t => s.rebindsBefore a.id.vd a.id.ctx t | none => false)

/-- The scope entry an instruction examines (14 R376). -/
def scopeNamed : Instr → Option Nat
  | .ld _ _ _ k q _ _ | .st _ _ _ k q _ _ | .ldx _ _ _ k q _ _ | .stx _ _ _ k q _ _ => examined q k
  | .atom _ _ k _ _ _ _ | .red _ _ k _ _ _ | .ctadd _ k _ _ _ | .ctwait _ k _ _ _ _ | .ctrd _ k _ _ _
  | .barArrive _ k _ _ | .barArrivex _ k _ _ _ | .fence _ _ k | .icinv _ k _ _ | .scopew _ k _ _ => some k.toNat
  | _ => none

/-- The SLOT of the iterator record at an address, without reading it: of its own scratchpad area, or of memory. -/
def State.peekSlot (s : State) (a : Agent) (va : Nat) : Option Nat :=
  let slotAt (l : Loc) : Nat := bits (s.getNat l 4) 4 4
  if inWindow va then some (slotAt (.scr a.pos.core (va % 2 ^ 40 + 0x38)))
  else
    match s.walk a.id.vd a.id.ctx (va + 0x38) .r with
    | .ok p => if p.rmt.isSome then none else some (slotAt (.mem p.pa))
    | .fail _ _ => none

/-- The scope entry and the slots that a copy request names whose record lies at an offset (15 R432, R435). -/
def State.requestNames (s : State) (a : Agent) (off : Nat) : Nat × List Nat :=
  let x := s.getNat (.scr a.pos.core off) 64
  let its := match copyKindOf (bits x 0 8) with
    | some .copy | some .transform | some .gather | some .scatter => [fld x 8 0 57, fld x 0x10 0 57]
    | some .fill => [fld x 0x10 0 57]
    | some .sparse => [fld x 8 0 57]
    | some .tileLoad | some .tileStore | some .window | none => []
  (bits x 16 6, if its.isEmpty then [bits x 22 4] else its.filterMap (s.peekSlot a))

/-- A slot of the agent's context is REBINDING (04 R102); one of its scope entries is PENDING (09 R233). -/
def State.slotMoves (s : State) (a : Agent) (n : Nat) : Bool := (s.slot a.id.vd a.id.ctx n).st == 2
def State.pendingScope (s : State) (a : Agent) (k : Nat) : Bool :=
  decide (6 ≤ k) && (s.scope a.id.vd a.id.ctx k).st == .pending

/-- The operands of the instruction name a slot that is REBINDING or a scope entry that is PENDING: those of the record of a
`cpyk`, the slot of a `talloc` of an operand tile (15 R416, R435). -/
def State.recordHeld (s : State) (a : Agent) : Instr → Bool
  | .cpyk _ x =>
    match a.src (addrOp x) with
    | .ok va =>
      let r := s.requestNames a (va % 2 ^ 40)
      inWindow va && !a.id.seq && !a.pos.away && (s.pendingScope a r.1 || r.2.any (s.slotMoves a))
    | _ => false
  | .talloc _ _ f x =>
    match a.src ⟨x, 32, .int⟩ with
    | .ok ctl => !bitAt ctl 17 && !a.pos.away && s.slotMoves a f.val
    | _ => false
  | _ => false

/-- The format slots an instruction captures (04 R103). -/
def slotsNamed : Instr → List Nat
  | .ldx _ f _ _ _ _ _ | .stx _ f _ _ _ _ _ | .tld _ _ f _ | .tst _ _ f _ | .tldw _ _ f _
  | .cvts _ f _ _ _ _ _ _ | .cvtw _ f _ _ _ _ _ _ => [f.val]
  | .mma _ _ _ _ fa fb fc _ => [fa.val, fb.val, fc.val]
  | .tcvt _ _ _ fa fb _ _ _ => [fa.val, fb.val]
  | _ => []

/-- The tile name an instruction waits for until it is READY to its kind of agent (15 R410, R417, R418). -/
def nameUsed (kind : Nat) : Instr → Option (Nat × Use)
  | .trd _ n _ | .tst _ n _ _ | .twait _ n => some (n.toNat, .read)
  | .twr _ n _ | .tzero _ n | .tld _ n _ _ | .tldw _ n _ _ => some (n.toNat, .write)
  | .thand _ n _ => if kind = 0 then some (n.toNat, .write) else none
  | _ => none

/-- The agent's next instruction names a REBINDING slot, a PENDING scope entry or a handle that is not yet READY,
waits for a configuration plane, or waits as a cross-lane instruction for the members of its mask (06 R148). -/
def State.heldNext (s : State) (i : Nat) (a : Agent) : Bool :=
  match s.nextInstr a with
  | none => false
  | some ins =>
    s.nextGuard a &&
      ((scopeNamed ins).any (s.pendingScope a) || (slotsNamed ins).any (s.slotMoves a) || s.recordHeld a ins
       || (match nameUsed a.kind ins with
           | some (n, u) => !a.pos.away && ((s.nameOf a n).any fun x => useOf a.kind u x.2.st == .wait)
           | none => false)
       || ((s.cob (cobOfCore a.pos.core)).waitOps.any fun w =>
             w.1 == i && w.2.any fun m => !(s.cob (cobOfCore a.pos.core)).holds m)
       || s.crossHeld i a ins)

/-- An atomic or a counter access whose address is still to be translated: a walk waits for a line the host holds, and the
agent issues nothing before (14 R377). -/
def State.untranslated (s : State) (a : Agent) : Bool :=
  a.pend.ops.any fun o =>
    match o.st with
    | .snoop _ => o.stop && (s.tlbGet a.id.vd a.id.ctx o.va).isNone
    | .ready _ | .parked _ _ | .walker _ _ | .regul _ _ | .remote _ _ | .held => false

/-- The agent is issuable (06 R148); a wait of another kind whose end shows only at its instruction counts as
issuable (log 10). -/
def State.issuable (s : State) (i : Nat) (a : Agent) : Bool :=
  a.canIssue && s.unitClear a && s.mayIssue a && !(s.grid a.id.grid).acqWait && !s.untranslated a && !a.sched.yielded && (a.dueNow || (!a.waiting s && !s.heldNext i a))

/-! Rows (06 R147, R150). -/

/-- Running threads of a pip. -/
def State.pipThreads (s : State) (core pip : Nat) : List (Nat × Agent) :=
  s.agents.filter fun (_, a) => !a.id.seq && !a.pos.out && a.pos.core == core && a.pos.pip == pip

def noRow : Row := ⟨false, 0, 0⟩

def State.rowAt (s : State) (core pip slot : Nat) : Row := tgetD s.rows (rowKey core pip slot) noRow
def State.setRow (s : State) (core pip slot : Nat) (r : Row) : State := { s with rows := tset s.rows (rowKey core pip slot) r }

/-- What one row brings to a row change: its slot, whether a thread of it is issuable, its greatest wait age. -/
structure RowSee where
  slot : Nat
  row : Row
  ready : Bool
  age : Nat
  deriving DecidableEq, Repr

/-- The rows of a pip that hold threads, with what `ok`, the issuable ones, and their ages make of them. -/
def State.seeRows (s : State) (core pip : Nat) (ts : List (Nat × Agent)) (ok : List Nat) : List RowSee :=
  (upFrom 0 17).filterMap fun sl =>
    let l := ts.filter fun (_, a) => a.pos.slot == sl
    if l.isEmpty then none
    else some ⟨sl, s.rowAt core pip sl, l.any (fun (i, _) => ok.contains i),
      (l.map fun (i, a) => if ok.contains i then a.sched.age else 0).foldl max 0⟩

/-- The pending row with an issuable thread that has waited longest. -/
def nextRow (rs : List RowSee) : Option RowSee :=
  (rs.filter fun r => !r.row.active && r.ready).foldl (fun m r =>
    match m with
    | some x => if x.age < r.age then some r else m
    | none => some r) none

/-- The active row that has gone longest without issuing. -/
def staleRow (rs : List RowSee) : Option RowSee :=
  (rs.filter fun r => r.row.active).foldl (fun m r =>
    match m with
    | some x => if x.row.unissued < r.row.unissued then some r else m
    | none => some r) none

/-- The row changes of a pip in one cycle (06 R150): while a pending row has an issuable thread, the active rows that
have had none for 16 cycles become pending; the pending row that has waited longest becomes active where fewer than 8
are, and at the age cap in place of the row that has gone longest without issuing. -/
def State.changeRows (s : State) (core pip : Nat) (rs : List RowSee) : State :=
  match nextRow rs with
  | none => s
  | some r =>
    let idle := rs.filter fun x => x.row.active && decide (16 ≤ x.row.idle)
    let active := (rs.filter fun x => x.row.active).length - idle.length
    let s := idle.foldl (fun s x => s.setRow core pip x.slot noRow) s
    if active < 8 then s.setRow core pip r.slot ⟨true, 0, 0⟩
    else if 1024 ≤ r.age then
      match staleRow rs with
      | some x => (s.setRow core pip x.slot noRow).setRow core pip r.slot ⟨true, 0, 0⟩
      | none => s
    else s

/-! Groups (06 R149). -/

/-- The order in which threads are chosen: the greatest wait age, then the lowest slot, then the lowest lane. -/
def threadKey (a : Agent) : List Nat := [2 ^ 64 - a.sched.age, a.pos.slot, a.pos.lane]

/-- The thread with the greatest wait age; ties go to the lowest slot, then the lowest lane. -/
def bestThread (l : List (Nat × Agent)) : Option (Nat × Agent) :=
  l.foldl (fun m x =>
    match m with
    | none => some x
    | some y => if lexLt (threadKey x.2) (threadKey y.2) then some x else m) none

/-- The group of a class: issuable threads at the chosen one's program counter, one per lane. -/
def groupOf (l : List (Nat × Agent)) : List (Nat × Agent) :=
  match bestThread l with
  | none => []
  | some (_, a) =>
    let same := l.filter fun (_, b) => b.curPc == a.curPc
    (upFrom 0 16).filterMap fun lane => bestThread (same.filter fun (_, b) => b.pos.lane == lane)

/-- Lanes of a row whose threads of a group issue with a true guard (08 R221): a thread with a fault due takes its trap
instead (07 R167). -/
def State.groupMask (s : State) (g : List (Nat × Agent)) (slot : Nat) : BitVec 16 :=
  BitVec.ofNat 16
    ((g.map fun (_, b) => if b.pos.slot = slot ∧ s.nextGuard b ∧ !b.dueNow then 2 ^ b.pos.lane else 0).sum)

/-- A group goes to issue. -/
def State.issueGroup (s : State) (core pip : Nat) (g : List (Nat × Agent)) : State :=
  let s := g.foldl (fun t (i, a) =>
    match tget t.agents i with
    | some b =>
      let mask := if a.pos.away then 0 else s.groupMask g a.pos.slot
      let t := t.setAgent i { b with sched := { b.sched with age := 0, gmask := mask, polled := false } }
      t.setRow core pip a.pos.slot { t.rowAt core pip a.pos.slot with unissued := 0 }
    | none => t) s
  { s with run := { s.run with issueQ := s.run.issueQ ++ g.map (·.1) } }

/-- The group that waits for a register bank port of a pip, and how long it has; of its threads, those still
issuable. -/
def State.portGroup (s : State) (core pip : Nat) (mem : Bool) (can : List (Nat × Agent)) :
    Option (List (Nat × Agent) × Nat) :=
  (tget s.portWaits (4 * core + pip)).bind fun w =>
    let g := can.filter fun x => w.group.contains x.1
    if w.mem == mem && !g.isEmpty then some (g, w.waited) else none

/-- The first of two groups takes the port they both need: one that has waited three cycles goes in its fourth, else
the greater wait age decides, then the lower slot and lane (06 R149). -/
def takesPort (g h : List (Nat × Agent)) (gWaited hWaited : Nat) : Bool :=
  if 3 ≤ gWaited then true
  else if 3 ≤ hWaited then false
  else
    match bestThread g, bestThread h with
    | some x, some y => !lexLt (threadKey y.2) (threadKey x.2)
    | _, _ => true

/-- The two groups of a pip cycle issue (06 R149). Whether they need the same register bank port is a free value, since
the spec does not lay out the banks (log 57); the loser waits for it. -/
def State.issueGroups (s : State) (core pip : Nat) (can : List (Nat × Agent)) : State :=
  let heldA := s.portGroup core pip false can
  let heldM := s.portGroup core pip true can
  let idle := can.filter fun x => !((tget s.portWaits (4 * core + pip)).any fun w => w.group.contains x.1)
  let alu := match heldA with | some (g, _) => g | none => groupOf (idle.filter fun (_, a) => !s.nextMem a)
  let mem := match heldM with | some (g, _) => g | none => groupOf (idle.filter fun (_, a) => s.nextMem a)
  let wa := (heldA.map (·.2)).getD 0
  let wm := (heldM.map (·.2)).getD 0
  let s := { s with portWaits := tdel s.portWaits (4 * core + pip) }
  if alu.isEmpty || mem.isEmpty then (s.issueGroup core pip alu).issueGroup core pip mem
  else
    let (f, s) := s.fresh
    if f % 2 = 0 then (s.issueGroup core pip alu).issueGroup core pip mem
    else
      let first := takesPort alu mem wa wm
      let lost : PortWait := if first then ⟨mem.map (·.1), true, wm + 1⟩ else ⟨alu.map (·.1), false, wa + 1⟩
      { (s.issueGroup core pip (if first then alu else mem)) with portWaits := tset s.portWaits (4 * core + pip) lost }

/-- A device under slow shedding issues on every second clock only (03 R88). -/
def State.mayClock (s : State) (a : Agent) (cyc : Nat) : Bool := (s.vd a.id.vd).shed != 1 || cyc % 2 == 0

/-- One pip cycle: ages, rows, the two groups. In a clock in which slow shedding lets nothing issue, a group that waits for a
port goes on waiting. -/
def State.pipCycle (s : State) (cyc core pip : Nat) : State :=
  let ts := s.pipThreads core pip
  let ok := (ts.filter fun (i, a) => s.issuable i a).map (·.1)
  let rs := s.seeRows core pip ts ok
  let can := ts.filter fun (i, a) =>
    ok.contains i && s.mayClock a cyc && (rs.any fun r => r.slot == a.pos.slot && r.row.active)
  let s1 := { s with agents := tmap s.agents fun i a =>
    if (ts.any fun t => t.1 == i) then
      { a with sched := { a.sched with age := if ok.contains i then a.sched.age + 1 else 0, yielded := false } }
    else a }
  let s2 := rs.foldl (fun s r =>
    s.setRow core pip r.slot { r.row with idle := if r.ready then 0 else r.row.idle + 1, unissued := r.row.unissued + 1 }) s1
  let s3 := if ts.all fun t => s.mayClock t.2 cyc then s2.issueGroups core pip can else s2
  s3.changeRows core pip (rs.map fun r => { r with row := s3.rowAt core pip r.slot })

def State.pipCycles (s : State) (cyc : Nat) : List (Nat × Nat) → State
  | [] => s
  | (c, p) :: l => (s.pipCycle cyc c p).pipCycles cyc l

/-! Clocks (08 R222). -/

/-- `n` clocks of an island counted. -/
def Island.tick (x : Island) (n : Nat) : Island :=
  { x with cyc := x.cyc + n, ncyc := (x.ncyc + n * (65536 * 1800 / x.mhz)) % 2 ^ 64, done := x.done + n * x.period }

/-- A core lies in an island. -/
def onIsland (d i core : Nat) : Bool := dieOfCore core == d && islandOfCob (cobOfCore core) == i

/-- Clocks of an island counted to the slices of its cobs (06 R155) and to the frame waits of its pools (08 R202). -/
def State.countClocks (s : State) (d i n : Nat) : State :=
  { s with
    slices := tmap s.slices fun k x =>
      let cob := k % 288
      let vd := k / 288 / 16
      let ctx := k / 288 % 16
      if dieOfCob cob == d && islandOfCob cob == i && s.workOn vd ctx cob then
        { x with clocks := x.clocks + (if (s.vd vd).shed = 1 then n / 2 + (if n % 2 = 1 ∧ (s.isl d i).cyc % 2 = 0 then 1 else 0) else n) }
      else x
    agents := tmap s.agents fun _ a =>
      match a.pend.freq with
      | some r =>
        (match r.pool with
         | .lane c _ _ _ =>
           if onIsland d i c && !r.served a then
             { a with pend := { a.pend with freq := some { r with cycles := r.cycles + n } } }
           else a
         | .seq _ => a)
      | none => a }

/-- A core island has a clock: it is not gated, not relocking, and its die is not lost (08 R222, 01 R24, R28). -/
def State.hasClock (s : State) (d i : Nat) : Bool :=
  ((s.die d).gate == .on || (s.die d).gate == .gating) && !(s.die d).lost && !(s.isl d i).relock

/-- Whole clocks an island still has before the next synchronisation pulse. -/
def State.clocksLeft (s : State) (d i : Nat) : Nat :=
  if s.hasClock d i then (1000 * tickUnit - (s.isl d i).done) / (s.isl d i).period else 0

/-- The time since the last pulse, in parts of a tick. -/
def State.sincePulse (s : State) : Nat := (s.now - s.run.pulse) * tickUnit

/-- A regulator holds an access of an agent (03 R78). -/
def Agent.regulated (a : Agent) : Bool := (a.pend.ops.any fun o => o.st.isRegul) || a.pend.own.any fun o => o.st.isRegul

/-- An agent held by a regulator, or waiting for a die wake. -/
def Agent.heldBack (s : State) (a : Agent) : Bool :=
  a.pend.wake || (s.die (dieOfCore a.pos.core)).gate != .on || a.regulated

/-- The weight of an island for a device, in 1/65,536 (06 R158). -/
def State.weight (s : State) (vd : Nat) (isl : Island) : Nat :=
  if isl.relock then 0
  else
    let slow := if (s.vd vd).shed = 1 then 2 else 1
    min 65536 (65536 * isl.mhz / 1800) / slow

/-- The weight of a grid in the current tick. -/
def State.gridWeight (s : State) (g : Nat) : Nat :=
  let l := s.agents.filter fun (_, a) => a.id.grid == g && !a.pos.out
  if (l.all fun (_, a) => a.heldBack s) || (s.vd (s.grid g).vd).shed == 2 then 0
  else (l.map fun (_, a) => s.weight a.id.vd (s.islOfCore a.pos.core)).foldl max 0

/-- Watchdog counts of every grid over `n` ticks. -/
def State.countDogs (s : State) (n : Nat) : State :=
  let w (g : Nat) : Nat := s.gridWeight g
  { s with grids := tmap s.grids fun i g => { g with wdog := g.wdog + n * w i } }

/-- Margin cobs with work of their owner up to `t` are not idle before (03 R73). -/
def State.noteBusy (s : State) (t : Nat) : State :=
  { s with cobs := tmap s.cobs fun c x =>
      match s.marginOf c with
      | some n => if (upFrom 0 16).any fun k => s.workOn n k c then { x with idleSince := t } else x
      | none => x }

/-- The reference time goes on to `t`, and the watchdogs count its ticks (06 R158). -/
def State.timeTo (s : State) (t : Nat) : State :=
  if s.now < t then { ((s.countDogs (t - s.now)).noteBusy t) with now := t } else s

/-- One clock of an island, after those it has passed idle: every pip with threads makes its choices (06 R149). The
reference time goes with the island that is furthest (log 1). -/
def execIssueCycle (die island : Nat) (s : State) : Out :=
  if s.clocksLeft die island = 0 then .next s
  else
    let x := s.isl die island
    let idle := min ((s.sincePulse - x.done) / x.period) (s.clocksLeft die island - 1)
    let s := (s.countClocks die island idle).setIsl die island (x.tick idle)
    let s := s.timeTo (s.run.pulse + ((s.isl die island).done + (s.isl die island).period) / tickUnit)
    let pips := (s.agents.filterMap fun (_, a) =>
      if onIsland die island a.pos.core && !a.id.seq && !a.pos.out then some (a.pos.core, a.pos.pip) else none).eraseDups
    let cyc := (s.isl die island).cyc
    let s := s.countClocks die island 1
    let s := s.setIsl die island ((s.isl die island).tick 1)
    let ready (i : Nat) (a : Agent) : Bool := s.issuable i a
    let s := { s with agents := tmap s.agents fun i a =>
      if a.id.seq && !a.pos.out && onIsland die island a.pos.core then
        { a with sched := { a.sched with age := if ready i a then a.sched.age + 1 else 0, yielded := false } }
      else a }
    .next (s.sweepRows.pipCycles cyc pips)

/-- The sequencer of a cob issues for the issuable context that has waited longest, once a clock (15 R430). DESIGN CHOICE
(log 65): an issuable context is to issue within 8 clocks, and it does so as late as this leaves it, `k` of them one after
another from the clock `8 - k` of the oldest. -/
def execSequencerIssue (cob : Nat) (s : State) : Out :=
  let c := s.cob cob
  let cyc := (s.isl (dieOfCob cob) (islandOfCob cob)).cyc
  let l := s.agents.filter fun (i, a) =>
    a.id.seq && !a.pos.out && cobOfCore a.pos.core == cob && s.issuable i a && s.mayClock a cyc
  let best := l.foldl (fun (m : Option (Nat × Agent)) x =>
    match m with
    | none => some x
    | some y => if lexLt [2 ^ 64 - x.2.sched.age, x.2.id.tid] [2 ^ 64 - y.2.sched.age, y.2.id.tid] then some x else m) none
  match best with
  | none => .next s
  | some (i, a) =>
    if c.seqAt = some cyc ∨ a.sched.age + l.length < 8 then .next s
    else
      let s := s.setCob cob { c with seqAt := some cyc }
      let s := s.setAgent i { a with sched := { a.sched with age := 0, polled := false } }
      .next { s with run := { s.run with issueQ := s.run.issueQ ++ [i] } }

/-! Slices (06 R155, R156). -/

/-- A context's work on a cob taken away. -/
def State.without (s : State) (vd ctx cob : Nat) : State :=
  let ps := s.podsOn vd ctx cob
  { s with
    teams := tmap s.teams fun _ t => if ps.contains t.pod && t.holds then { t with place := .saved } else t
    agents := tmap s.agents fun _ a =>
      if ps.contains a.id.pod && cobOfCore a.pos.core == cob then
        { a with pos := { a.pos with out := true }, pend := { a.pend with freq := none } }
      else a
    copies := tmap s.copies fun _ c =>
      if c.vd = vd ∧ c.ctx = ctx ∧ cobOfCore c.core = cob then { c with saved := true } else c
    pods := tmap s.pods fun i p => if ps.contains i then { p with out := true } else p
    preReqs := tdel s.preReqs (cobKey vd ctx cob) }

/-- The context an entry of the ready order runs in. -/
def State.entryCtx (s : State) : Entry → Nat
  | .fresh g => (s.grid g).lrec.ctx
  | .back p => ((tget s.pods p).map (·.ctx)).getD 0

/-- The entry would fit on a cob. -/
def State.entryOn (s : State) (cob : Nat) : Entry → Bool
  | .fresh g => (s.newUnit g cob).isSome
  | .back p =>
    match tget s.pods p with
    | some x => x.out && s.holdsCob x.vd cob && s.dieFor (s.grid x.grid).lrec (dieOfCob cob) && (s.podBack p x cob).isSome
    | none => false

/-- The highest PRIO among a context's grids on a cob. -/
def State.prioOn (s : State) (vd ctx cob : Nat) : Nat :=
  ((s.podsOn vd ctx cob).map fun p => ((tget s.pods p).map fun x => (s.grid x.grid).lrec.prio).getD 0).foldl max 0

/-- A slice is contended (06 R156). -/
def State.contended (s : State) (vd ctx cob : Nat) : Bool :=
  let top := s.prioOn vd ctx cob
  let gone := s.without vd ctx cob
  s.schedules vd && (s.readyOrder vd).any fun (k, e) =>
    s.entryCtx e != ctx && decide (top ≤ 7 - k.headD 7) && (s.placeEntry e).isNone && gone.entryOn cob e

/-- A slice ends: a pre-emption request when it is contended, a new slice otherwise. -/
def State.endSlice (s : State) (vd ctx cob : Nat) : State :=
  let key := cobKey vd ctx cob
  if s.contended vd ctx cob && (tget s.preReqs key).isNone then
    { (s.preempt vd ctx cob false) with slices := tdel s.slices key }
  else { s with slices := tset s.slices key ⟨0, s.now, (s.vd vd).slice⟩ }

/-- A slice's clocks reach SLICE × 1,800, with the SLICE of its start (06 R154, R155). -/
def execSliceCycleLimit (vd ctx cob : Nat) (s : State) : Out :=
  match tget s.slices (cobKey vd ctx cob) with
  | none => .next s
  | some x =>
    if x.len ≠ 0 ∧ 1800 * x.len ≤ x.clocks ∧ s.workOn vd ctx cob then .next (s.endSlice vd ctx cob) else .next s

/-- A slice's wall time reaches SLICE × 200 ticks; what is not counted is forfeited. -/
def execSliceWallLimit (vd ctx cob : Nat) (s : State) : Out :=
  match tget s.slices (cobKey vd ctx cob) with
  | none => .next s
  | some x =>
    let v := s.vd vd
    if x.len ≠ 0 ∧ x.start + 200 * x.len ≤ s.now ∧ x.clocks < 1800 * x.len ∧ s.workOn vd ctx cob then
      let lost := (1800 * x.len - x.clocks) / 1800
      let s := s.setVd vd { v with forfeit := min (v.forfeit + lost) (2 ^ 32 - 1), slices := (v.slices + 1) % 2 ^ 32 }
      .next (s.endSlice vd ctx cob)
    else .next s

/-! The watchdog (06 R158, R159). -/

/-- A grid's count reaches WDOG × 1,000: its running threads trap, and those of a save under way when they are next
placed. -/
def execWatchdogExpiry (grid : Nat) (s : State) : Out :=
  match tget s.grids grid with
  | none => .next s
  | some g =>
    let limit := (s.vd g.vd).wdog
    if limit = 0 ∨ g.wdog / 65536 < 1000 * limit then .next s
    else
      let s := (s.setGrid grid { g with wdog := 0 }).setCause g.vd 6
      if g.vector.isNone then .next ((s.setCause g.vd 3).endGrid grid 8 0x15 0)
      else
        let saving (p : Nat) : Bool := (tget s.pods p).any fun x => s.saving p x
        .next { s with agents := tmap s.agents fun _ a =>
          if a.id.grid = grid ∧ (!a.pos.out || saving a.id.pod) then { a with flt := { a.flt with wdog := true } } else a }

end Sys2Proof.Machine
end

