-- ==== Sys2Proof/Machine/Devices.lean ====
section
/-!
DEFINITION. What befalls a whole virtual device: its stream FIFOs written out and reloaded (03 R82, R84), eviction,
lending and revocation of cobs (03 R73, R74), shedding (03 R87, R88), scrubbing, granules zeroed (01 R37, 03 R64), host lines the part needs for
itself (02 R48).
-/
namespace Sys2Proof.Machine

/-! Descheduling (03 R69, R82 to R84). -/

/-- A device enters DESCHEDULED HELD (03 R69, R88): its streams are written out. -/
def State.hold (s : State) (vd : Nat) : State :=
  let s := s.spillStreams vd (upFrom 0 64)
  s.setVd vd { s.vd vd with st := .held }

/-- A device enters ACTIVE again (03 R84, R88): its streams are reloaded. -/
def State.activate (s : State) (vd : Nat) : State :=
  let s := s.askReloads vd (setBitsFrom (s.vd vd).pending 0 64)
  (s.setVd vd { s.vd vd with st := .active }).moveFifos vd (upFrom 0 64)

/-! Cobs. -/

/-- The device whose sets a cob is in. -/
def State.setOf (s : State) (cob : Nat) : Option Nat :=
  (s.vds.find? fun v => bitAt v.2.desc.gset cob || bitAt v.2.desc.mset cob).map (·.1)

/-- Work of a context on a cob taken by a forced save: pod groups, and landing threads saved alone (07 R184, R186). -/
def State.evictCob (s : State) (vd ctx cob : Nat) : State :=
  let s := (s.savePods true (s.podsOn vd ctx cob)).saveLanders vd ctx cob
  let key := cobKey vd ctx cob
  { s with preReqs := tdel s.preReqs key, slices := tdel s.slices key }

/-- The same for every context of a device. -/
def State.evictCtxs (s : State) (vd cob : Nat) : List Nat → State
  | [] => s
  | c :: cs => (s.evictCob vd c cob).evictCtxs vd cob cs

/-- Everything of a device on a cob. -/
def State.clearCob (s : State) (vd cob : Nat) : State := s.evictCtxs vd cob (upFrom 0 16)

def State.clearCobs (s : State) (vd : Nat) : List Nat → State
  | [] => s
  | c :: cs => (s.clearCob vd c).clearCobs vd cs

/-- Cobs on which a device has something. -/
def State.usedCobs (s : State) (vd : Nat) : List Nat :=
  ((s.pods.filterMap fun (_, p) => if p.vd = vd ∧ !p.out then some p.cob else none)
    ++ s.agents.filterMap fun (_, a) => if a.id.vd = vd ∧ !a.pos.out then some (cobOfCore a.pos.core) else none).eraseDups

/-- The storage of a core zeroed by hardware (01 R31, R37, 03 R74). -/
def State.scrubCore (s : State) (core : Nat) : State :=
  { s with scr := memZero s.scr (scrKey core 0) (2 ^ 20) }.setCore core {}

/-- A cob scrubbed: register files and queues have gone with the agents. -/
def State.scrubCob (s : State) (cob : Nat) : State :=
  let s := (((s.scrubCore (4 * cob)).scrubCore (4 * cob + 1)).scrubCore (4 * cob + 2)).scrubCore (4 * cob + 3)
  let s := { s with bufs := s.bufs.filter fun (_, b) => b.cob != cob || (match tget s.pods b.pod with | some p => p.out | none => false) }
  s.setCob cob { s.cob cob with planes := List.replicate 16 {}, waitOps := [], tallocQ := [], seqAt := none }

def State.scrubCobs (s : State) : List Nat → State
  | [] => s
  | c :: cs => (s.scrubCob c).scrubCobs cs

/-! Lending (03 R73, R74). -/

/-- A lent cob is taken from its borrower: stop and save now, scrub and return later. -/
def State.revoke (s : State) (cob v : Nat) : State :=
  let s := s.clearCob v cob
  (s.setCob cob { s.cob cob with lend := .revoking v s.now }).setCause v 4

def State.revokes (s : State) : List (Nat × Nat) → State
  | [] => s
  | (c, v) :: l => (s.revoke c v).revokes l

/-- Lent cobs with their borrowers. -/
def State.lentCobs (s : State) : List (Nat × Nat) :=
  s.cobs.filterMap fun (c, x) => match x.lend with | .lent v => some (c, v) | .own | .revoking _ _ => none

/-- A device evicted: everything of it saved by force, borrowed cobs given back (03 R88). -/
def State.evict (s : State) (vd : Nat) : State :=
  let s := if (s.vd vd).st = .active then s.hold vd else s
  let s := s.clearCobs vd (s.usedCobs vd)
  let s := s.revokes (s.lentCobs.filter fun e => e.2 == vd)
  s.setVd vd { s.vd vd with st := .saved }

/-- The entry waits for a cob of a die and none of the device's own there would hold it. DESIGN CHOICE: 03 R73 asks for 'no
free cob of its own on that die', read as no own cob there, not lent, on which the unit that is ready would fit. -/
def State.lacks (s : State) (vd die : Nat) (e : Entry) : Bool :=
  let g := match e with | .fresh g => g | .back p => ((tget s.pods p).map (·.grid)).getD 0
  s.dieFor (s.grid g).lrec die
    && (upFrom (24 * die) 24).all fun c => !(s.holdsCob vd c && (s.cob c).lend == .own && s.entryOn c e)

/-- The priority with which a device qualifies for an idle cob. DESIGN CHOICE: 03 R73 does not say whose priority decides among
borrowers; it is that of the first entry of the ready order that lacks a cob on the die. -/
def State.qualifies (s : State) (cob vd : Nat) : Option Nat :=
  match s.marginOf cob with
  | none => none
  | some n =>
    if n = vd ∨ !bitAt (s.vd n).desc.lend vd ∨ !s.schedules vd then none
    else
      let l := (s.readyOrder vd).filter fun (_, e) => s.lacks vd (dieOfCob cob) e
      match l with
      | [] => none
      | (k, _) :: _ => some (7 - k.headD 7)

/-- A margin cob is idle (03 R73). -/
def State.idle (s : State) (cob : Nat) : Bool :=
  match s.marginOf cob with
  | none => false
  | some n =>
    (s.cob cob).lend == .own && decide ((s.cob cob).idleSince + 5000 ≤ s.now)
      && !((upFrom 0 16).any fun c => s.workOn n c cob)
      && !(s.schedules n && (s.readyOrder n).any fun (_, e) => s.entryOn cob e)

/-- An idle margin cob is lent to the device with the highest-priority ready grid; ties go to the lowest number. -/
def execMarginCobLend (cob vd : Nat) (s : State) : Out :=
  match s.qualifies cob vd, s.marginOf cob with
  | some p, some n =>
    let best := s.vds.all fun (v, _) =>
      match s.qualifies cob v with
      | some q => decide (q < p) || (q == p && decide (vd ≤ v))
      | none => true
    if s.idle cob && best && !s.pkg.stopped then
      .next ((s.setCob cob { s.cob cob with lend := .lent vd }).setCause n 4)
    else .next s
  | _, _ => .next s

/-- The owner of a lent cob has a ready unit that the scheduler would place on it (03 R73). -/
def State.wanted (s : State) (cob v n : Nat) : Bool :=
  let gone := (upFrom 0 16).foldl (fun s c => s.without v c cob) s
  let gone := gone.setCob cob { gone.cob cob with lend := .own }
  s.schedules n && (s.readyOrder n).any fun (_, e) => (s.placeEntry e).isNone && gone.entryOn cob e

/-- A lent cob whose owner wants it is revoked: dispatch to it ends, and what the borrower has there is saved by force. -/
def execRevocation (cob : Nat) (s : State) : Out :=
  match (s.cob cob).lend, s.marginOf cob with
  | .lent v, some n => if s.wanted cob v n then .next (s.revoke cob v) else .next s
  | _, _ => .next s

/-- The cob is scrubbed and is its owner's again. DESIGN CHOICE: the owner whose cause 4 tells of it (03 R74) is the one in whose
margin set the cob then is; where a RESIZE has taken it out of every margin set, none is told. -/
def execRevocationReturn (cob : Nat) (s : State) : Out :=
  match (s.cob cob).lend with
  | .revoking _ _ =>
    let s := s.scrubCob cob
    let s := s.setCob cob { s.cob cob with lend := .own, idleSince := s.now }
    match s.marginOf cob with
    | some n => .next (s.setCause n 4)
    | none => .next s
  | .own | .lent _ => .next s

/-! Shedding (03 R87, R88). -/

/-- PWR_EFF. -/
def State.pwrEff (s : State) : Nat := min (max 1200 (min 4600 s.pkg.pwrCap)) s.pkg.trayCap

def State.shedStep (s : State) (i : Nat) : ShedStep := tgetD s.pkg.shed i {}

/-- Steps in force. -/
def State.stepsOn (s : State) : List Nat :=
  (upFrom 0 8).filter fun i => (s.shedStep i).en && decide (s.pwrEff ≤ (s.shedStep i).thresh)

/-- The most severe action over the steps in force. -/
def State.actionOf (s : State) (vd : Nat) : Nat :=
  (s.stepsOn.map fun i => bits (s.shedStep i).act (2 * vd) 2).foldl max 0

/-- The action for a device applied. -/
def State.shedDevice (s : State) (vd : Nat) : State :=
  let v := s.vd vd
  let n := s.actionOf vd
  if v.st = .absent ∨ v.st = .destroying ∨ n = v.shed then s
  else
    let s := (s.setVd vd { v with shed := n }).setCause vd 5
    if n = 3 then s.evict vd
    else if n = 2 then (if v.st = .active then s.hold vd else s)
    else if v.cmd ∨ v.st = .active then s
    else s.activate vd

/-! Granules (03 R64). -/

/-- A granule zeroed by hardware; no slice keeps a line of it, and the host no copy (01 R37, 02 R48, 03 R70). -/
def State.zeroGranule (s : State) (g : Nat) : State :=
  let a := granuleBase g
  let s := s.claimLines a (2 ^ 30)
  { s with
    mem := memZero s.mem a (2 ^ 30)
    sideCache := s.sideCache.filter fun c => decide (128 * c.line < a) || decide (a + 2 ^ 30 ≤ 128 * c.line) }

def State.zeroGranules (s : State) : List Nat → State
  | [] => s
  | g :: gs => (s.zeroGranule g).zeroGranules gs

/-- A granule that is being zeroed is free. -/
def execGranuleZeroed (g : Nat) (s : State) : Out :=
  if s.ownerOf g = 0xFD then .next ((s.zeroGranule g).setOwner g 0xFF) else .next s

/-- Granules of a device. -/
def State.granulesOf (s : State) (vd : Nat) : List Nat := tkeys s.x.owner fun o => o == vd

def State.setOwners (s : State) (o : Nat) : List Nat → State
  | [] => s
  | g :: gs => (s.setOwner g o).setOwners o gs

/-! Commands of the mailboxes (03 R66, 04 R97, R107, 05 R118). The words of a command count as they stood at GO; while it waits
for lines that the host holds, the registers may be written for the next one (log 62). -/

/-- The words of a mailbox, and a mailbox with others. -/
def Mbox.words (m : Mbox) : List Nat := [m.w0, m.w1, m.w2, m.w3]
def Mbox.put (m : Mbox) (ws : List Nat) : Mbox :=
  { m with w0 := ws.getD 0 0, w1 := ws.getD 1 0, w2 := ws.getD 2 0, w3 := ws.getD 3 0 }

/-- The mailbox with the words of the command it runs, or would run. -/
def Mbox.cmd (m : Mbox) : Mbox := match m.wait with | some (_, ws) => m.put ws | none => m

/-- A command runs and has not to be taken up again. -/
def Mbox.busy (m : Mbox) : Bool := m.code == 1 && m.wait.isNone

/-- A command begins at a time, or goes on. -/
def Mbox.begin_ (m : Mbox) (now : Nat) : Mbox :=
  match m.wait with | some _ => m.cmd | none => { m with code := 1, start := now }

/-- The registers of a mailbox whose command has gone on, as software has left them. -/
def Mbox.after (m was : Mbox) : Mbox := if was.wait.isSome then m.put was.words else m

/-- The first of some ranges for which a snoop is needed, with the line: it is sent (02 R48). -/
def State.linesWait (s : State) (l : List (Nat × Nat × Bool)) : Option (Nat × State) :=
  l.findSome? fun (pa, n, wr) => (s.snoopNeeded [(.mem pa, n)] wr).map fun line => (line, s.sendSnoop line wr)

/-- Ranges that a command reads or writes pass the slices (01 R22). -/
def State.passLines (s : State) (l : List (Nat × Nat × Bool)) : State :=
  l.foldl (fun s (pa, n, wr) => (s.accessMem none pa n wr).2) s

/-- The line that a command waited for, and that the host never gave up, lies in a range (02 R52). -/
def Mbox.deadIn (m : Mbox) (pa n : Nat) : Bool :=
  m.dead && m.wait.any fun w => decide (w.1 < pa + n) && decide (pa < w.1 + 128)

end Sys2Proof.Machine
end

