-- ==== Sys2Proof/Machine/Shake.lean ====
section
/-!
DEFINITION. SHAKE256 (04 R95, 05 R115): the spec names the function and gives no text of it; this is the one of FIPS 202
(log 8). A state is a number of 1,600 bits: 25 lanes of 64 bits, lane (x, y) from bit 64 * (x + 5 * y) on, so that the
bytes of a block are the low bytes of the state.
-/
namespace Sys2Proof.Machine

/-- Lane (x, y) of a state; the coordinates are taken modulo 5. -/
def lane (st x y : Nat) : Nat := bits st (64 * (x % 5 + 5 * (y % 5))) 64

/-- The state with lane (x, y) given by a function. -/
def ofLanes (f : Nat → Nat → Nat) : Nat :=
  (upFrom 0 25).foldr (fun i st => f (i % 5) (i / 5) % 2 ^ 64 + 2 ^ 64 * st) 0

/-- A lane turned left by `n` places. -/
def turn (x n : Nat) : Nat :=
  let r := n % 64
  x % 2 ^ (64 - r) * 2 ^ r + x / 2 ^ (64 - r)

/-- The column parities of the neighbours of each lane, added to it. -/
def mixColumns (st : Nat) : Nat :=
  let par (x : Nat) : Nat := (upFrom 0 5).foldl (fun p y => p ^^^ lane st x y) 0
  ofLanes fun x y => lane st x y ^^^ par (x + 4) ^^^ turn (par (x + 1)) 1

/-- The lanes moved: the walk from (1, 0) by (x, y) to (y, 2 x + 3 y) carries each lane one place on, turned by the next
triangular number. `src` is the state before the step. -/
def walk (src : Nat) : Nat → Nat → Nat → Nat → Nat → Nat
  | 0, _, _, _, st => st
  | n + 1, k, x, y, st =>
    let y' := (2 * x + 3 * y) % 5
    walk src n (k + 1) y y' (setBits st (64 * (y + 5 * y')) 64 (turn (lane src x y) (k * (k + 1) / 2)))

/-- Each lane with the next of its row complemented and the one after added. -/
def mixRows (st : Nat) : Nat :=
  ofLanes fun x y => lane st x y ^^^ ((2 ^ 64 - 1 - lane st (x + 1) y) &&& lane st (x + 2) y)

/-- The 8-bit shift register of the round constants, one step on: its feedback is x^8 + x^6 + x^5 + x^4 + 1. -/
def lfsr (r : Nat) : Nat := if 128 ≤ r then (2 * r) ^^^ 0x171 else 2 * r

/-- The constant of a round from the register before it, and the register after it: seven bits, bit j at 2^j - 1. -/
def roundConst : Nat → Nat → Nat → Nat × Nat
  | 0, _, r => (0, r)
  | n + 1, j, r =>
    let (c, r') := roundConst n (j + 1) (lfsr r)
    (c + r % 2 * 2 ^ (2 ^ j - 1), r')

/-- Rounds of the permutation, the register of the constants going on. -/
def rounds : Nat → Nat → Nat → Nat
  | 0, _, st => st
  | n + 1, r, st =>
    let (c, r') := roundConst 7 0 r
    let t := mixColumns st
    rounds n r' (mixRows (walk t 24 1 1 0 t) ^^^ c)

/-- The permutation: 24 rounds. -/
def permute (st : Nat) : Nat := rounds 24 1 st

/-- Blocks of 136 bytes put into a state in turn. -/
def absorb : Nat → List Byte → Nat → Nat
  | 0, _, st => st
  | n + 1, m, st => absorb n (m.drop 136) (permute (st ^^^ ofBytes (m.take 136)))

/-- A message with the padding of SHAKE256 to whole blocks of 136 bytes: the bits 1111, a 1 and a last 1. -/
def shakePad (m : List Byte) : List Byte :=
  match 136 - m.length % 136 with
  | 0 | 1 => m ++ [0x9F]
  | n + 2 => m ++ 0x1F :: List.replicate n 0 ++ [0x80]

/-- The first 32 bytes of the SHAKE256 output over a message, as a number with its first byte lowest. -/
def shakeNat (m : List Byte) : Nat := absorb (m.length / 136 + 1) (shakePad m) 0 % 2 ^ 256

/-- The same as bytes. -/
def shake256 (m : List Byte) : List Byte := bytesOf (shakeNat m) 32

end Sys2Proof.Machine
end

