-- ==== Sys2Proof/Machine/Partition.lean ====
section
/-!
DEFINITION. Partition commands (03 R66 to R72, R77, 04 R96): the mailbox, the descriptor and its checks, CREATE, RESIZE,
DESTROY, DESCHEDULE, SCHEDULE, SETREG.
-/
namespace Sys2Proof.Machine

/-! The mailbox (03 R66). -/

def State.setPcmd (s : State) (m : Mbox) : State := { s with x := { s.x with pcmd := m } }

/-- A command ends with a status; PF vector 2 is raised. -/
def State.pcmdEnd (s : State) (code : Nat) : State :=
  let m := s.x.pcmd
  let s := { s with x := { s.x with pcmdRun := none } }
  (s.setPcmd { m with code, wait := none, dead := false, time := min (s.now - m.start) (2 ^ 32 - 1) }).send (.pfMsix 2)

/-- A command goes on: CODE reads 1. -/
def State.pcmdBusy (s : State) (op vd : Nat) : State :=
  { s with x := { s.x with pcmdRun := some (op, vd), pcmd := { s.x.pcmd with code := 1, wait := none } } }

/-! The descriptor (03 R67). -/

/-- Bytes `off` to `off + n - 1` of a record are zero. -/
def zeroAt (x off n : Nat) : Bool := lfld x off 0 (8 * n) == 0

/-- Every reserved bit of a descriptor is zero. -/
def partReserved (x : Nat) : Bool :=
  zeroAt x 0x24 12 && zeroAt x 0x54 12 && lfld x 0x70 5 59 == 0 && zeroAt x 0x78 8
    && ((upFrom 0 12).all fun d => lfld x (0x80 + 4 * d) 0 32 / 2 ^ (if d < 8 then 20 else 8) == 0)
    && zeroAt x 0xBC 4 && lfld x 0xC0 52 12 == 0 && lfld x 0xC8 52 12 == 0 && zeroAt x 0xF0 16
    && ((upFrom 0 16).all fun i => lfld x (0x180 + 4 * i) 14 2 == 0 && lfld x (0x180 + 4 * i) 30 2 == 0)
    && zeroAt x 0x1C0 64

/-- The fields of a descriptor. -/
def descOf (x : Nat) : Desc :=
  { gset := lfld x 0 0 288
    mset := lfld x 0x30 0 288
    lend := lfld x 0x60 0 64
    streams := lfld x 0x68 0 64
    nctx := lfld x 0x70 0 5
    ways := (upFrom 0 12).map fun d => lfld x (0x80 + 4 * d) 0 20
    nearg := lfld x 0xB0 0 16
    nearc := lfld x 0xB2 0 16
    farg := lfld x 0xB4 0 16
    farc := lfld x 0xB6 0 16
    fabg := lfld x 0xB8 0 16
    fabc := lfld x 0xBA 0 16
    sfifo := lfld x 0xC0 0 52
    keysAt := lfld x 0xC8 0 52
    sctx := lfld x 0xD0 0 256
    near := lfld x 0x100 0 1024
    far := (upFrom 0 16).map fun i => (lfld x (0x180 + 4 * i) 0 14, lfld x (0x180 + 4 * i) 16 14)
    reserved := partReserved x }

/-- Granules a descriptor names: near g, far 1,024 + f. -/
def Desc.granules (d : Desc) : List Nat :=
  setBitsFrom d.near 0 1024 ++ (d.far.flatMap fun (f, n) => upFrom (1024 + f) n).eraseDups

/-- Cobs of a descriptor. -/
def Desc.cobs (d : Desc) : List Nat := (upFrom 0 288).filter fun c => bitAt d.gset c || bitAt d.mset c

/-! The admitted-key list (04 R96). -/

/-- An entry of the list: zero where it is not in use, and the reserved bytes zero. -/
def keyEntryOk (x nkeys i : Nat) : Bool :=
  let off := 0x80 + 0x80 * i
  if i < nkeys then
    lfld x (off + 0x44) 20 12 == 0 && zeroAt x (off + 0x48) 0x38 && (bytesOf (lfld x off 0 32) 4 == (bytesOf Config.xmssOid.toNat 4).reverse)
  else zeroAt x off 0x80

def keysOk (x : Nat) : Bool :=
  lfld x 0 4 60 == 0 && zeroAt x 8 0x78 && (upFrom 0 15).all fun i => keyEntryOk x (lfld x 0 0 4) i

/-- Key identities with MINLEAF; the Fjarrun image key comes first with MINLEAF 0. -/
def keysOf (x : Nat) : List (Nat × Nat) :=
  (Config.vendorKey.toNat, 0) :: (upFrom 0 (lfld x 0 0 4)).map fun i =>
    (shakeNat (bytesOf (lfld x (0x80 + 0x80 * i) 0 544) 68), lfld x (0xC4 + 0x80 * i) 0 20)

/-! Checks in increasing order of their codes (03 R66). -/

/-- Code 3 of a descriptor: malformed, or its key list is, or that cannot be read (log 66). A far range with count 0 is unused, whatever its first granule
(03 R67, log 61). -/
def State.descBad (s : State) (d : Desc) : Bool :=
  !d.reserved || d.gset &&& d.mset != 0 || d.nctx == 0 || decide (16 < d.nctx) || d.sfifo % 16384 != 0
    || ((upFrom 0 64).any fun n => decide (d.nctx ≤ bits d.sctx (4 * n) 4))
    || (d.far.any fun (f, n) => n != 0 && decide (9216 < f + n))
    || d.keysAt % 2048 != 0 || !s.nearBacked d.keysAt 2048 || s.physGone d.keysAt 2048 || !keysOk (s.getNat (.mem d.keysAt) 2048)

/-- Other devices that hold something. -/
def State.others (s : State) (vd : Nat) : List Vd := (s.vds.filter fun v => v.1 != vd && v.2.st != .absent).map (·.2)

/-- Code 5. -/
def State.cobTaken (s : State) (vd cob : Nat) : Bool :=
  bitAt s.pkg.harvest cob || bitAt s.pkg.exDies (dieOfCob cob)
    || (s.others vd).any fun v => bitAt v.desc.gset cob || bitAt v.desc.mset cob

/-- Code 6. -/
def State.granuleTaken (s : State) (vd g : Nat) : Bool := s.ownerOf g != 0xFF && s.ownerOf g != vd

/-- Code 7. -/
def State.wayTaken (s : State) (vd : Nat) (d : Desc) : Bool :=
  (s.others vd).any fun v => (upFrom 0 12).any fun i => (v.desc.ways.getD i 0) &&& (d.ways.getD i 0) != 0

/-- Guarantee, ceiling and total of each regulator. -/
def Desc.rates (d : Desc) : List (Nat × Nat × Nat) :=
  [(d.nearg, d.nearc, 51200), (d.farg, d.farc, 3072), (d.fabg, d.fabc, 4032)]

/-- Codes 8 and 9 (03 R77). -/
def State.ratesStatus (s : State) (vd : Nat) (d : Desc) : Option Nat :=
  let sums := [((s.others vd).map (·.desc.nearg)).sum, ((s.others vd).map (·.desc.farg)).sum,
    ((s.others vd).map (·.desc.fabg)).sum]
  if (sums.zip d.rates).any fun (o, g, _, t) => decide (9 * t < 10 * (o + g)) then some 8
  else if d.rates.any fun (g, c, t) => c != 0 && (decide (c < 4) || decide (c < g) || decide (t < c)) then some 9
  else none

/-- The first condition a descriptor breaks for CREATE or RESIZE. -/
def State.descStatus (s : State) (vd : Nat) (d : Desc) : Option Nat :=
  if s.descBad d then some 3
  else if d.cobs.any (s.cobTaken vd) then some 5
  else if d.granules.any (s.granuleTaken vd) then some 6
  else if s.wayTaken vd d then some 7
  else
    match s.ratesStatus vd d with
    | some c => some c
    | none =>
      if !(bitAt d.near (d.sfifo / 2 ^ 30) && decide (d.sfifo < 2 ^ 40)) then some 10
      else if d.gset = 0 then some 11 else none

/-! Contexts. -/

/-- A context as CREATE sets it up (03 R69, 10 R262): slots 0 to 11 bound to the vendor images, scope entries INVALID,
SCOPEW 0; its registers of device space stay. -/
def freshCtx (c : Ctx) : Ctx :=
  { c with
    scopew := false
    scopes := []
    slots := (upFrom 0 12).map fun n => (n, { st := 1, img := n }) }

/-- Images a slot holds bound (04 R99, R102). -/
def SlotB.bound (b : SlotB) : List Nat :=
  if b.st = 0 then [] else b.img :: b.old.toList ++ b.more.map (·.1)

def State.unbindImages (s : State) : List Nat → State
  | [] => s
  | m :: ms => (s.unbindImage m).unbindImages ms

def State.bindImages (s : State) : List Nat → State
  | [] => s
  | m :: ms => (s.bindImage m).bindImages ms

/-- Contexts `a` to `a + n - 1` set up; what such a context of the device still had bound is bound no longer. -/
def State.newCtxs (s : State) (vd a : Nat) : Nat → State
  | 0 => s
  | n + 1 =>
    let old := (s.ctx vd a).slots.flatMap fun (_, b) => b.bound
    (((s.unbindImages old).setCtx vd a (freshCtx (s.ctx vd a))).bindImages (upFrom 0 12)).newCtxs vd (a + 1) n

/-! The commands. -/

/-- Mailbox checks that come first (03 R66): status 3 for the fields, 4 for the state of the device, 3 for the place of the
descriptor, or where it cannot be read (log 66). -/
def State.pcmdStatus (s : State) (op vd : Nat) : Option Nat :=
  let w := s.x.pcmd.w0
  let v := s.vd vd
  let states : List VdSt := match op with
    | 1 => [.absent]
    | 4 => [.active]
    | 5 => [.held, .saved]
    | _ => [.active, .held, .saved]
  if w / 2 ^ 16 ≠ 0 ∨ op = 0 ∨ 6 < op ∨ 64 ≤ vd then some 3
  else if v.st ∉ states ∨ (op = 5 ∧ 2 ≤ v.shed) then some 4
  else if (op = 1 ∨ op = 2 ∨ op = 6) ∧ (s.x.pcmd.w1 % 512 ≠ 0 ∨ !s.nearBacked s.x.pcmd.w1 512 ∨ s.physGone s.x.pcmd.w1 512) then some 3
  else none

/-- The command of the mailbox, as it stands in its registers: its checks; `k` is its work. While the host holds a line that it
reads, it waits (02 R48), and it fails with status 3 where the host does not give that up (R52, log 66). -/
def State.runPcmd (s : State) (op : Nat) (lines : State → List (Nat × Nat × Bool)) (k : Nat → State → State) : State :=
  let vd := bits s.x.pcmd.w0 8 8
  match s.pcmdStatus op vd with
  | some c => s.pcmdEnd c
  | none =>
    if s.x.pcmd.dead then s.pcmdEnd 3
    else
      match s.linesWait (lines s) with
      | some (line, t) => t.setPcmd { t.x.pcmd with wait := some (line, t.x.pcmd.words) }
      | none => k vd (s.passLines (lines s))

/-- A GO write for a command: BUSYREJ while another runs; or one that has waited goes on. -/
def State.goPcmd (s : State) (op : Nat) (lines : State → List (Nat × Nat × Bool)) (k : Nat → State → State) : State :=
  let m := s.x.pcmd
  if m.busy then s.setPcmd { m with busyrej := true }
  else
    let t := (s.setPcmd (m.begin_ s.now)).runPcmd op lines k
    t.setPcmd (t.x.pcmd.after m)

/-- The command in the mailbox is of a kind. -/
def State.pcmdIs (s : State) (op : Nat) : Bool := bits s.x.pcmd.cmd.w0 0 8 == op

/-- Memory a command that takes a descriptor reads. -/
def State.descLines (s : State) : List (Nat × Nat × Bool) :=
  [(s.x.pcmd.w1, 512, false), (lfld (s.getNat (.mem s.x.pcmd.w1) 512) 0xC8 0 52, 2048, false)]

/-- Granules given to a device, zeroed first where it did not own them (01 R37, 03 R69, R70). -/
def State.giveGranules (s : State) (vd : Nat) (gs : List Nat) : State :=
  let s := s.zeroGranules (gs.filter fun g => s.ownerOf g != vd)
  s.setOwners vd gs

/-- Ways that the masks of a descriptor give or take are written back and invalidated (03 R70, R75). -/
def State.changeWays (s : State) (old new : Desc) : State :=
  s.flushWays fun d w => bitAt ((old.ways.getD d 0) ^^^ (new.ways.getD d 0)) w

/-- CREATE allocates what the descriptor names (03 R69); a shedding step in force acts on the new device (03 R88). -/
def State.createVd (s : State) (vd : Nat) (d : Desc) : State :=
  let v := s.vd vd
  let keys := s.getNat (.mem d.keysAt) 2048
  let s := s.setVd vd { v with
    st := .active, cmd := false, desc := d, keys := keysOf keys, keyBytes := bytesOf keys 2048, pending := 0, regs := []
    objs := [], shed := 0, streams := tmap v.streams fun _ x => { last := x.last } }
  (((s.giveGranules vd d.granules).changeWays {} d).newCtxs vd 0 d.nctx).shedDevice vd

def createWork (vd : Nat) (s : State) : State :=
  let d := descOf (s.getNat (.mem s.x.pcmd.w1) 512)
  match s.descStatus vd d with
  | some c => s.pcmdEnd c
  | none => (s.createVd vd d).pcmdEnd 2

def execCreate (s : State) : Out := if s.pcmdIs 1 then .next (s.goPcmd 1 State.descLines createWork) else .next s

/-- SETREG changes the six regulator fields (03 R67). -/
def setregWork (vd : Nat) (s : State) : State :=
  let x := s.getNat (.mem s.x.pcmd.w1) 512
  let d := descOf x
  match s.ratesStatus vd d with
  | some c => s.pcmdEnd c
  | none =>
    let v := s.vd vd
    (s.setVd vd { v with desc := { v.desc with
      nearg := d.nearg, nearc := d.nearc, farg := d.farg, farc := d.farc, fabg := d.fabg, fabc := d.fabc } }).pcmdEnd 2

def execSetreg (s : State) : Out :=
  if s.pcmdIs 6 then .next (s.goPcmd 6 (fun s => [(s.x.pcmd.w1, 512, false)]) setregWork) else .next s

/-- The device's own work leaves the cobs it loses, which are then scrubbed (03 R70). -/
def State.loseCobs (s : State) (vd : Nat) : List Nat → State
  | [] => s
  | c :: cs =>
    (match (s.cob c).lend with
     | .lent v => s.revoke c v
     | .revoking _ _ => s
     | .own => (s.clearCob vd c).scrubCob c).loseCobs vd cs

/-- The entries of a stream that stand in the SFIFO area are taken from there: the area moves (03 R70, R83). -/
def State.takeFifo (s : State) (vd n : Nat) : State :=
  let x := (s.vd vd).stream n
  let there := if (s.vd vd).st = .active then x.reload else x.fifo.length
  s.setStream vd n { x with
    reload := 0
    fifo := (upFrom 0 x.fifo.length).map fun k =>
      if there ≤ k ∨ x.toPut.contains k then x.fifo.getD k 0
      else if x.lost.contains k ∨ s.physGone (s.fifoAt vd n k) 8 then BitVec.allOnes 64
      else BitVec.ofNat 64 (s.getNat (.mem (s.fifoAt vd n k)) 8)
    toPut := []
    lost := []
    own := x.own.filter fun o => decide (o.va < 2 ^ 60) }

def State.takeFifos (s : State) (vd : Nat) : List Nat → State
  | [] => s
  | n :: ns => (s.takeFifo vd n).takeFifos vd ns

/-- RESIZE moves the device to the holdings of the descriptor (03 R70). -/
def State.resizeVd (s : State) (vd : Nat) (d : Desc) : State :=
  let old := (s.vd vd).desc
  let s := s.loseCobs vd (old.cobs.filter fun c =>
    !(bitAt d.gset c || bitAt d.mset c) || ((s.cob c).lend != .own && !bitAt d.mset c))
  let s := s.setOwners 0xFD ((s.granulesOf vd).filter fun g => !d.granules.contains g)
  let s := (s.giveGranules vd d.granules).changeWays old d
  let keys := s.getNat (.mem d.keysAt) 2048
  let asleep := (s.vd vd).st != .active
  let s := if d.sfifo ≠ old.sfifo then s.takeFifos vd (upFrom 0 64) else s
  let s := s.setVd vd { s.vd vd with desc := d, keys := keysOf keys, keyBytes := bytesOf keys 2048 }
  let s := if asleep ∧ d.sfifo ≠ old.sfifo then s.spillStreams vd (upFrom 0 64) else s
  s.newCtxs vd old.nctx (d.nctx - old.nctx)

def resizeWork (vd : Nat) (s : State) : State :=
  let d := descOf (s.getNat (.mem s.x.pcmd.w1) 512)
  match s.descStatus vd d with
  | some c => s.pcmdEnd c
  | none => (s.resizeVd vd d).pcmdBusy 2 vd

/-- Memory a RESIZE reads: the descriptor, and the SFIFO area of a device, which may move. -/
def State.resizeLines (s : State) : List (Nat × Nat × Bool) :=
  s.descLines ++ [((s.vd (bits s.x.pcmd.w0 8 8)).desc.sfifo, 16384, false)]

def execResize (s : State) : Out := if s.pcmdIs 2 then .next (s.goPcmd 2 State.resizeLines resizeWork) else .next s

/-- A granule is being zeroed. -/
def State.zeroing (s : State) : Bool := s.x.owner.any fun o => o.2 == 0xFD

/-- A cob that no device owns, or one of a device, is being taken back. -/
def State.revoking (s : State) (vd : Nat) : Bool :=
  s.cobs.any fun (c, x) =>
    match x.lend with
    | .revoking v _ => v == vd || s.setOf c == some vd || (s.setOf c).isNone
    | .own | .lent _ => false

/-- The revocations and the zeroing of a RESIZE have finished. -/
def execResizeComplete (vd : Nat) (s : State) : Out :=
  if s.x.pcmdRun = some (2, vd) ∧ !s.zeroing ∧ !s.revoking vd then .next ((s.pcmdEnd 2).setCause vd 7) else .next s

/-- DESTROY: everything of the device stops without a record (03 R71). -/
def State.stopDevice (s : State) (vd : Nat) : State :=
  let gids := tkeys s.grids fun g => g.vd == vd
  let ids := tkeys s.agents fun a => a.id.vd == vd
  let s := s.removeAgents ids
  let pids := tkeys s.pods fun p => p.vd == vd
  let mine (k : Nat) : Bool := k / 288 / 16 == vd
  let s := { s with
    grids := s.grids.filter fun e => e.2.vd != vd
    teams := s.teams.filter fun e => !gids.contains e.2.grid
    pods := s.pods.filter fun e => e.2.vd != vd
    copies := s.copies.filter fun e => e.2.vd != vd
    bufs := s.bufs.filter fun e => !pids.contains e.2.pod
    preReqs := s.preReqs.filter fun e => !mine e.1
    slices := s.slices.filter fun e => !mine e.1
    tlb := s.tlb.filter fun e => e.vd != vd }
  s.settleCores

/-- What a destroyed device keeps of a context: the registers of device space but SCOPEW. DESIGN CHOICE (log 45): no rule says
whether DESTROY keeps SCOPEW; it is cleared, as CREATE would. -/
def deadCtx (c : Ctx) : Ctx := { s1root := c.s1root, saveBase := c.saveBase, saveRes := c.saveRes, savePages := c.savePages }

def State.destroyVd (s : State) (vd : Nat) : State :=
  let images := (s.vd vd).ctxs.flatMap fun (_, c) => c.slots.flatMap fun (_, b) => b.bound
  let s := (s.stopDevice vd).unbindImages images
  let v := s.vd vd
  let s := s.changeWays v.desc {}
  let s := s.setVd vd { v with
    st := .destroying, pending := 0, objs := [], ctxs := tmap v.ctxs fun _ c => deadCtx c
    streams := tmap v.streams fun _ x => { x with fifo := [], slot := none, own := [], toPut := [], reload := 0, lost := [] } }
  let own := v.desc.cobs.filter fun c => (s.cob c).lend == .own
  let s := s.revokes (s.lentCobs.filter fun e => e.2 == vd || (bitAt v.desc.mset e.1))
  let s := s.scrubCobs own
  s.setOwners 0xFD (s.granulesOf vd)

def execDestroy (s : State) : Out :=
  if s.pcmdIs 3 then .next (s.goPcmd 3 (fun _ => []) fun vd s => (s.destroyVd vd).pcmdBusy 3 vd) else .next s

/-- A destroyed device is ABSENT once its cobs are back and its granules are zeroed. -/
def execDestroyComplete (vd : Nat) (s : State) : Out :=
  if s.x.pcmdRun = some (3, vd) ∧ !s.zeroing ∧ !s.revoking vd then
    let v := s.vd vd
    .next ((s.setVd vd { v with
      st := .absent, cmd := false, desc := {}, keys := [], keyBytes := [], shed := 0, regs := [] }).pcmdEnd 2)
  else .next s

/-- Something of a device is not saved. -/
def State.unsaved (s : State) (vd : Nat) : Bool :=
  s.pods.any (fun (_, p) => p.vd == vd && !p.out)
    || s.agents.any (fun (_, a) => a.id.vd == vd && !a.pos.out)
    || s.copies.any (fun (_, c) => c.vd == vd && !c.saved)
    || s.preReqs.any fun e => e.1 / 288 / 16 == vd

/-- A device all of whose contexts are saved. -/
def State.allSaved (s : State) (vd : Nat) : State := (s.setVd vd { s.vd vd with st := .saved }).pcmdEnd 2

/-- DESCHEDULE (03 R69): HELD at once; the pre-emption of each context follows, where there is work to save. -/
def deschedule (vd : Nat) (s : State) : State :=
  let s := s.hold vd
  let s := s.setVd vd { s.vd vd with cmd := true }
  if s.unsaved vd then s.pcmdBusy 4 vd else s.allSaved vd

def execDeschedule (s : State) : Out :=
  if s.pcmdIs 4 then
    .next (s.goPcmd 4 (fun _ => []) deschedule)
  else .next s

/-- Every context of a device that is descheduled has been saved. -/
def execDescheduleSaved (vd : Nat) (s : State) : Out :=
  if s.x.pcmdRun = some (4, vd) ∧ !s.unsaved vd then
    .next (s.allSaved vd)
  else .next s

/-- SCHEDULE: the contexts return as pre-empted ones, the streams are reloaded. -/
def schedule (vd : Nat) (s : State) : State := ((s.setVd vd { s.vd vd with cmd := false }).activate vd).pcmdEnd 2

def execSchedule (s : State) : Out :=
  if s.pcmdIs 5 then
    .next (s.goPcmd 5 (fun _ => []) schedule)
  else .next s

/-- The GO register of the partition mailbox written with 1: the command of PCMD_OP, or status 3; BUSYREJ while CODE is 1. -/
def State.writePcmdGo (s : State) : Out :=
  if s.x.pcmd.code = 1 then .next (s.setPcmd { s.x.pcmd with busyrej := true })
  else
  match bits s.x.pcmd.w0 0 8 with
  | 1 => execCreate s
  | 2 => execResize s
  | 3 => execDestroy s
  | 4 => execDeschedule s
  | 5 => execSchedule s
  | 6 => execSetreg s
  | op => .next (s.goPcmd op (fun _ => []) fun _ s => s)

end Sys2Proof.Machine
end

