-- ==== Sys2Proof/Machine/Capability.lean ====
section
/-!
DEFINITION. The capability table (01 R1, R10, R25, R36, R39, 03 R72): the counts present, what is harvested or lost, what
is free.
-/
namespace Sys2Proof.Machine

/-- What the capability table reports. The rules name what stands in it and not where: its bytes are a free value of
these words (log 17). -/
structure Capability where
  /-- dies present, and those of them that are lost, as bit masks (01 R25, R36) -/
  dies : Nat
  lost : Nat
  /-- by die: its enabled cobs and its harvested ones, as bit masks over their physical indices (01 R10) -/
  cobs : List Nat
  harvested : List Nat
  /-- cobs, cores, pips and lanes enabled in all (01 R1) -/
  units : List Nat
  /-- HBM stacks, near-tier GiB, expanders, far-tier GiB, of these outside the reserve -/
  tiers : List Nat
  /-- MiB of memory-side cache and of L2 -/
  caches : Nat × Nat
  /-- virtual devices, scale-up ports -/
  ports : Nat × Nat
  /-- MHz at least, nominal and at most; the module's rating in W -/
  clocks : List Nat
  /-- FREE: cobs by die, near and far granules, cache ways by die (03 R72) -/
  freeCobs : List Nat
  freeGranules : Nat × Nat
  freeWays : List Nat
  /-- the bound of a checkpoint in µs (01 R39) -/
  checkpoint : Nat
  deriving DecidableEq, Repr

/-- Cobs of a die by a test, as a mask over their physical indices. -/
def cobMask (d : Nat) (p : Nat → Bool) : Nat :=
  ((upFrom 0 24).map fun c => if p (24 * d + c) then 2 ^ c else 0).sum

/-- A cob is enabled: neither harvested nor of an excluded die. -/
def State.cobOn (s : State) (c : Nat) : Bool := !bitAt s.pkg.harvest c && !bitAt s.pkg.exDies (dieOfCob c)

/-- The bound of 01 R39: 4 MiB of tile store, 1,152 KiB of registers and 2 MiB of SRAM a cob, the cache and the near tier
over the expanders at 128 GB/s, and 0.03 s; on a full package 0.5 s is stated. -/
def checkpointBound (cobs cacheMiB nearGiB exps : Nat) : Nat :=
  if cobs = 288 ∧ nearGiB = 1024 ∧ exps = 24 then 500000
  else (cobs * 7296 * 2 ^ 10 + cacheMiB * 2 ^ 20 + nearGiB * 2 ^ 30 + 128000 * exps - 1) / (128000 * exps) + 30000

/-- The capability table of the part as it stands. -/
def State.capability (s : State) : Capability :=
  let ds := (upFrom 0 12).filter fun d => !bitAt s.pkg.exDies d
  let on := (upFrom 0 288).filter s.cobOn
  let near := s.nDiesOn.length
  let far := (ds.filter fun d => 8 ≤ d).length
  let e := s.exps.length
  let cache := 640 * near + 256 * far
  let held (c : Nat) : Bool := s.vds.any fun v => bitAt v.2.desc.gset c || bitAt v.2.desc.mset c
  { dies := (ds.map fun d => 2 ^ d).sum
    lost := (ds.map fun d => if (s.die d).lost then 2 ^ d else 0).sum
    cobs := (upFrom 0 12).map fun d => cobMask d s.cobOn
    harvested := (upFrom 0 12).map fun d => cobMask d (bitAt s.pkg.harvest)
    units := [on.length, 4 * on.length, 16 * on.length, 256 * on.length]
    tiers := [2 * near, 128 * near, e, 384 * e, 384 * e - 1088]
    caches := (cache, 128 * ds.length)
    ports := (nVds, nPorts)
    clocks := [600, 1800, 2400, 4600]
    freeCobs := (upFrom 0 12).map fun d => (cobMask d fun c => s.cobOn c && !held c)
    freeGranules := (s.x.owner.countP fun g => g.1 < 1024 && g.2 == 0xFF, s.x.owner.countP fun g => 1024 ≤ g.1 && g.2 == 0xFF)
    freeWays := (upFrom 0 12).map fun d => (s.fillWays none d).length
    checkpoint := checkpointBound on.length cache (128 * near) e }

/-- Its words in the order of the structure. -/
def Capability.words (c : Capability) : List Nat :=
  [c.dies, c.lost] ++ c.cobs ++ c.harvested ++ c.units ++ c.tiers ++ [c.caches.1, c.caches.2, c.ports.1, c.ports.2] ++ c.clocks
    ++ c.freeCobs ++ [c.freeGranules.1, c.freeGranules.2] ++ c.freeWays ++ [c.checkpoint]

/-- The bytes of the capability table. -/
def State.capabilityTable (s : State) : List Byte := Config.capabilityBytes s.capability.words

end Sys2Proof.Machine
end

