-- ==== Sys2Proof/Machine/Xmss.lean ====
section
/-!
DEFINITION. XMSS-SHAKE256_20_256 (04 R95): signatures under single trees of height 20 with 32-byte nodes. The spec names the
parameter set of NIST SP 800-208 and gives no text of it; this is the scheme of that document (log 9). A node is a list of
32 bytes; an address is the tree part of the 32-byte hash address, its words most significant byte first.
-/
namespace Sys2Proof.Machine

/-- A number in `n` bytes, most significant byte first. -/
def beBytes (x n : Nat) : List Byte := (bytesOf x n).reverse

/-- The number of bytes, most significant byte first. -/
def beNat (b : List Byte) : Nat := ofBytes b.reverse

/-- One of the four keyed hashes: 0 F, 1 H, 2 the message hash, 3 the pseudorandom function. -/
def keyed (kind : Nat) (key m : List Byte) : List Byte := shake256 (beBytes kind 32 ++ key ++ m)

/-- The last five words of a hash address: its type (0 one-time key, 1 L-tree, 2 tree) and four more, the last of which
tells a key from a mask. The layer and tree words are zero in a single tree. -/
structure HAddr where
  type : Nat
  w4 : Nat := 0
  w5 : Nat := 0
  w6 : Nat := 0
  deriving DecidableEq, Repr

/-- The key (0) or a mask (1, 2) for an address. -/
def HAddr.derive (a : HAddr) (seed : List Byte) (k : Nat) : List Byte :=
  keyed 3 seed (beBytes 0 12 ++ ([a.type, a.w4, a.w5, a.w6, k].flatMap fun w => beBytes w 4))

def xorBytes (a b : List Byte) : List Byte := List.zipWith (· ^^^ ·) a b

/-- Two nodes hashed to their parent. -/
def joinNodes (seed : List Byte) (a : HAddr) (l r : List Byte) : List Byte :=
  keyed 1 (a.derive seed 0) (xorBytes l (a.derive seed 1) ++ xorBytes r (a.derive seed 2))

/-- `n` steps of hash chain `a.w5` of a one-time key from place `i` on. -/
def chainOn (seed : List Byte) (a : HAddr) : Nat → Nat → List Byte → List Byte
  | 0, _, x => x
  | n + 1, i, x =>
    let b := { a with w6 := i }
    chainOn seed a n (i + 1) (keyed 0 (b.derive seed 0) (xorBytes x (b.derive seed 1)))

/-- The 67 digits to the base 16 of a 32-byte message and of its checksum. -/
def otsDigits (m : List Byte) : List Nat :=
  let d := m.flatMap fun b => [b.toNat / 16, b.toNat % 16]
  let sum := (d.map (15 - ·)).sum
  d ++ [sum / 256 % 16, sum / 16 % 16, sum % 16]

/-- A level of an L-tree: neighbours joined, an odd last node taken up as it is. -/
def ltreeLevel (seed : List Byte) (leaf h : Nat) : Nat → List (List Byte) → List (List Byte)
  | i, l :: r :: t => joinNodes seed { type := 1, w4 := leaf, w5 := h, w6 := i } l r :: ltreeLevel seed leaf h (i + 1) t
  | _, t => t

/-- The leaf of a tree for the 67 ends of the chains of its one-time key: seven levels. -/
def ltree (seed : List Byte) (leaf : Nat) (ends : List (List Byte)) : List Byte :=
  ((upFrom 0 7).foldl (fun ns h => ltreeLevel seed leaf h 0 ns) ends).headD []

/-- The ends of the chains that a one-time signature over `m` leads to. -/
def otsEnds (seed : List Byte) (leaf : Nat) (m : List Byte) (sig : List (List Byte)) : List (List Byte) :=
  ((upFrom 0 67).zip ((otsDigits m).zip sig)).map fun (i, d, x) =>
    chainOn seed { type := 0, w4 := leaf, w5 := i } (15 - d) d x

/-- The root that a path of siblings leads to from the node at place `i` of height `h`. -/
def pathRoot (seed : List Byte) : Nat → Nat → List Byte → List (List Byte) → List Byte
  | _, _, x, [] => x
  | h, i, x, y :: ys =>
    let a : HAddr := { type := 2, w5 := h, w6 := i / 2 }
    pathRoot seed (h + 1) (i / 2) (if i % 2 = 0 then joinNodes seed a x y else joinNodes seed a y x) ys

/-- `n` pieces of 32 bytes. -/
def pieces (b : List Byte) (n : Nat) : List (List Byte) := (upFrom 0 n).map fun i => (b.drop (32 * i)).take 32

/-- The message hash under the 32 random bytes, the root and the leaf index of a signature. -/
def msgHash (r root : List Byte) (leaf : Nat) (m : List Byte) : List Byte := keyed 2 (r ++ root ++ beBytes leaf 32) m

/-- A signature of 2,820 bytes (leaf index, random bytes, 67 chain values, 20 siblings) over a message verifies under a
public key of 68 bytes (OID, root, seed). -/
def xmssVerify (key m sig : List Byte) : Bool :=
  let root := (key.drop 4).take 32
  let seed := (key.drop 36).take 32
  let leaf := beNat (sig.take 4)
  let h := msgHash ((sig.drop 4).take 32) root leaf m
  let ends := otsEnds seed leaf h (pieces (sig.drop 36) 67)
  decide (leaf < 2 ^ 20) && sig.length == 2820 && key.length == 68
    && pathRoot seed 0 leaf (ltree seed leaf ends) (pieces (sig.drop 2180) 20) == root

/-! Signing by an attestation key, whose secrets are opaque (04 R106, log 9). -/

/-- The secret start of a chain of generation `g`. -/
def chainStart (g leaf i : Nat) : List Byte := bytesOf (Config.attSecret g leaf i).toNat 32

/-- The node at place `i` of height `h` of the tree of generation `g`. -/
def treeNode (g : Nat) : Nat → Nat → List Byte
  | 0, i =>
    let seed := bytesOf (Config.attSeed g).toNat 32
    ltree seed i ((upFrom 0 67).map fun k => chainOn seed { type := 0, w4 := i, w5 := k } 15 0 (chainStart g i k))
  | h + 1, i =>
    joinNodes (bytesOf (Config.attSeed g).toNat 32) { type := 2, w5 := h, w6 := i } (treeNode g h (2 * i))
      (treeNode g h (2 * i + 1))

/-- The public key of generation `g`. -/
def attKey (g : Nat) : List Byte :=
  beBytes Config.xmssOid.toNat 4 ++ treeNode g 20 0 ++ bytesOf (Config.attSeed g).toNat 32

/-- The signature of a message by attestation key `g` at a leaf. -/
def xmssSign (g leaf : Nat) (m : List Byte) : List Byte :=
  let seed := bytesOf (Config.attSeed g).toNat 32
  let r := keyed 3 (bytesOf (Config.attPrf g).toNat 32) (beBytes leaf 32)
  let h := msgHash r (treeNode g 20 0) leaf m
  beBytes leaf 4 ++ r
    ++ ((upFrom 0 67).zip (otsDigits h)).flatMap (fun (i, d) =>
        chainOn seed { type := 0, w4 := leaf, w5 := i } d 0 (chainStart g leaf i))
    ++ (upFrom 0 20).flatMap fun k => treeNode g k ((leaf / 2 ^ k) ^^^ 1)

end Sys2Proof.Machine
end

