-- ==== Sys2Proof/Machine/Images.lean ====
section
/-!
DEFINITION. Format images (04): the vendor images (R90, 10 R262), REGISTER and RETIRE with the checks of a container
(R91 to R98), attestation (R106 to R108).
-/
namespace Sys2Proof.Machine

/-! Descriptors (04 R92 to R94). -/

/-- The fields of a format descriptor with a codebook. -/
def fmtOf (x : Nat) : Fmt :=
  let kind := bits x 24 2
  { w := bits x 16 6
    kind
    sign := bitAt x 26
    subn := bitAt x 27
    inf := bits x 28 2
    nanp := bits x 30 2
    eb := bits x 32 5
    mb := bits x 40 5
    bias := sextInt (bits x 48 16) 16
    nz := bitAt x 64
    nse := bits x 80 2
    codebook := if kind = 3 then (upFrom 0 256).map fun c => fld x (0x40 + 4 * c) 0 32 else [] }

/-- Every reserved bit of a descriptor is zero. -/
def fmtReserved (x : Nat) : Bool :=
  bits x 22 2 == 0 && bits x 37 3 == 0 && bits x 45 3 == 0 && bits x 65 7 == 0 && bits x 82 46 == 0

/-- No field of the arithmetic of FLOAT is set. -/
def Fmt.plain (f : Fmt) : Bool := f.eb == 0 && f.inf == 0 && f.nanp == 0 && !f.subn && !f.nz

/-- A descriptor matches a row of R93; `x` is the descriptor, `dlen` its length. -/
def fmtValid (x dlen : Nat) : Bool :=
  let f := fmtOf x
  let blk := bits x 72 8
  bits x 0 16 == 1 && fmtReserved x && decide (2 ≤ f.w) && decide (f.w ≤ 32)
    && (match f.kind with
        | 0 =>
          decide (1 ≤ f.eb) && decide (f.eb ≤ 8) && decide (f.mb ≤ 23) && f.w == b2n f.sign + f.eb + f.mb
            && decide (-255 ≤ f.bias) && decide (f.bias ≤ 255) && decide (f.inf ≤ 1) && decide (f.nanp ≤ 2)
            && (f.inf == 0 || decide (2 ≤ f.eb)) && (!f.nz || (f.sign && decide (f.w ≤ 8)))
            && blk == 0 && f.nse == 0 && dlen == 64
        | 1 => f.plain && f.mb == 0 && f.bias == 0 && blk == 0 && f.nse == 0 && dlen == 64
        | 2 =>
          f.plain && f.sign && blk == 32 && (f.nse == 1 || f.nse == 2) && decide (1 ≤ f.mb)
            && f.w == 1 + (f.nse - 1) + f.mb && f.bias == 127 && dlen == 64
        | _ =>
          f.plain && decide (f.w ≤ 8) && !f.sign && f.mb == 0 && f.bias == 0 && blk == 0 && f.nse == 0 && dlen == 1088
            && (f.codebook.drop (2 ^ f.w)).all fun e => e == 0)

/-- Bit positions from the leading 1 of a number to its lowest 1; `fuel` bits are looked at. -/
def spanBits : Nat → Nat → Nat
  | 0, _ => 0
  | n + 1, m => if m = 0 then 0 else if m % 2 = 0 then spanBits n (m / 2) else Nat.log2 m + 1

/-- The 24-bit significand of an f32 code. -/
def f32Signif (c : Nat) : Nat := if bits c 23 8 = 0 then bits c 0 23 else 2 ^ 23 + bits c 0 23

/-- The decoded significand width (04 R94). -/
def Fmt.width (f : Fmt) : Nat :=
  match f.kind with
  | 0 => f.mb + 1
  | 1 => f.w
  | 2 => f.mb
  | _ => (f.codebook.map fun c => if bits c 23 8 = 255 then 0 else spanBits 24 (f32Signif c)).foldl max 1

/-- The class code (04 R94). -/
def Fmt.clsCode (f : Fmt) : Nat :=
  let d := f.width
  if d ≤ 3 then 1 else if d ≤ 6 then 2 else if d ≤ 12 then 3 else if d ≤ 24 then 4 else 0

/-! The vendor images (04 R90, 10 R262). -/

/-- A FLOAT format of the table of 10 R262. -/
def floatFmt (w eb mb : Nat) (bias : Int) (inf nanp : Nat) (nz : Bool) : Fmt :=
  { w, kind := 0, sign := true, subn := true, inf, nanp, eb, mb, bias, nz, nse := 0, codebook := [] }

/-- A format of another kind of that table. -/
def otherFmt (w kind mb : Nat) (bias : Int) (nse : Nat) : Fmt :=
  { w, kind, sign := true, subn := false, inf := 0, nanp := 0, eb := 0, mb, bias, nz := false, nse, codebook := [] }

/-- The formats f32, bf16, f16, e4m3, e5m2, e3m2, e2m3, e2m1, i8, i4, dx8 and dx4. -/
def vendorFmts : List Fmt :=
  [floatFmt 32 8 23 127 1 1 false, floatFmt 16 8 7 127 1 1 false, floatFmt 16 5 10 15 1 1 false,
   floatFmt 8 4 3 7 0 2 false, floatFmt 8 5 2 15 1 1 false, floatFmt 6 3 2 3 0 0 false, floatFmt 6 2 3 1 0 0 false,
   floatFmt 4 2 1 1 0 0 true, otherFmt 8 1 0 0 0, otherFmt 4 1 0 0 0, otherFmt 8 2 6 127 2, otherFmt 4 2 2 127 2]

/-- Vendor image `n`. -/
def vendorImage (n : Nat) : Image :=
  let fmt := vendorFmts.getD n {}
  { st := 1, cls := fmt.clsCode, fmt, leaf := (Config.vendorLeaf n).toNat, ihash := (Config.vendorHash n).toNat
    keyid := Config.vendorKey.toNat }

/-- The image table with the vendor images in it. -/
def withVendors (t : Tab Image) : Tab Image :=
  (upFrom 0 12).foldl (fun t n => tset t n { vendorImage n with binds := (tgetD t n {}).binds }) t

/-! The image mailbox (04 R97, R98). -/

def State.setImg (s : State) (m : Mbox) : State := { s with x := { s.x with img := m } }

def State.imgEnd (s : State) (code : Nat) : State :=
  let m := s.x.img
  (s.setImg { m with code, wait := none, dead := false, time := min (s.now - m.start) (2 ^ 32 - 1) }).send (.pfMsix 2)

/-- The checks of a command before a container is read. -/
def State.imgStatus (s : State) (op : Nat) : Option Nat :=
  let w := s.x.img.w0
  let n := bits w 16 10
  let at0 := s.x.img.w1
  let i := s.image n
  if op ≠ 1 ∧ op ≠ 2 ∨ bits w 8 8 ≠ 0 ∨ bits w 26 38 ≠ 0 then some 3
  else if n < 12 then some 9
  else if op = 1 ∧ i.st ≠ 0 then some 7
  else if op = 2 ∧ i.st = 0 then some 8
  else if op = 1 ∧ (at0 % 64 ≠ 0 ∨ !s.nearBacked at0 0x80) then some 3
  else none

/-- The parts of a container. -/
structure Cont where
  dlen : Nat
  blen : Nat
  key : List Byte
  head : List Byte
  bitstream : List Byte
  sig : List Byte
  deriving DecidableEq, Repr

/-- Both lengths of a container are legal (04 R91). -/
def lensOk (dlen blen : Nat) : Bool :=
  (dlen == 64 || dlen == 1088) && blen % 64 == 0 && decide (64 ≤ blen) && decide (blen ≤ 131072)

/-- Bytes of a container whose lengths are legal. -/
def contBytes (dlen blen : Nat) : Nat := 0x80 + dlen + blen + 2820

/-- The container at an address. -/
def State.contAt (s : State) (pa : Nat) : Cont :=
  let h := s.getNat (.mem pa) 0x80
  let dlen := fld h 4 0 32
  let blen := fld h 8 0 32
  let n := if lensOk dlen blen then contBytes dlen blen else 0x80
  let b := s.getBytes (.mem pa) n
  { dlen, blen, key := (b.drop 0x10).take 68, head := b.take (0x80 + dlen), bitstream := (b.drop (0x80 + dlen)).take blen
    sig := (b.drop (0x80 + dlen + blen)).take 2820 }

/-- Code 3 of a container. -/
def contBad (c : Cont) : Bool :=
  let h := ofBytes (c.head.take 0x80)
  fld h 0 0 16 != 0x4946 || fld h 2 0 8 != 1 || fld h 3 0 8 != 0 || fld h 0xC 0 32 != 0 || fld h 0x54 0 352 != 0
    || !lensOk c.dlen c.blen || c.key.take 4 != (bytesOf Config.xmssOid.toNat 4).reverse

/-- The first code a container breaks. -/
def contStatus (c : Cont) : Option Nat :=
  let d := ofBytes (c.head.drop 0x80)
  if contBad c then some 3
  else if !fmtValid d c.dlen then some 4
  else if fld d 0x10 0 256 ≠ shakeNat c.bitstream then some 5
  else if !xmssVerify c.key c.head c.sig then some 6
  else none

/-- The leaf index in the first four bytes of a signature, most significant first (04 R95). -/
def sigLeaf (sig : List Byte) : Nat := ofBytes ((sig.take 4).reverse)

/-- The table entry of a container. -/
def imageOf (c : Cont) : Image :=
  let fmt := fmtOf (ofBytes (c.head.drop 0x80))
  { st := 1, cls := fmt.clsCode, fmt, binds := 0, leaf := sigLeaf c.sig % 2 ^ 20, ihash := shakeNat c.head
    keyid := shakeNat c.key }

/-- An uncorrectable error, or a lost die, in the way of reading or writing a physical range. -/
def State.unreadable (s : State) (pa n : Nat) : Bool :=
  s.isFaulty pa n || (s.dies.any fun (d, x) => x.lost && (s.homeDie pa == some d || s.homeDie (pa + n - 1) == some d))

/-- REGISTER reads the container once, checks it, copies header, descriptor and bitstream into the image store and fills
the entry (04 R98). -/
def registerWork (s : State) : State :=
  let pa := s.x.img.w1
  let n := bits s.x.img.w0 16 10
  let c := s.contAt pa
  let len := if lensOk c.dlen c.blen then contBytes c.dlen c.blen else 0x80
  if !s.nearBacked pa len then s.imgEnd 3
  else if s.unreadable pa len ∨ s.x.img.dead then s.imgEnd 10
  else
    match contStatus c with
    | some code => s.imgEnd code
    | none =>
      if s.unreadable (s.imageStore n) imageStoreSize then s.imgEnd 10
      else
        let s := s.passLines [(s.imageStore n, 0x80 + c.dlen + c.blen, true)]
        ((s.putBytes (.mem (s.imageStore n)) (c.head ++ c.bitstream)).setImage n (imageOf c)).imgEnd 2

/-- RETIRE (04 R100). -/
def retireWork (s : State) : State :=
  let n := bits s.x.img.w0 16 10
  let i := s.image n
  (if i.binds = 0 then s.freeImage n else s.setImage n { i with st := 2 }).imgEnd 2

/-- The command of the image mailbox, as it stands in its registers. -/
def State.runImg (s : State) (op : Nat) (lines : State → List (Nat × Nat × Bool)) (k : State → State) : State :=
  match s.imgStatus op with
  | some c => s.imgEnd c
  | none =>
    match s.linesWait (lines s) with
    | some (line, t) => t.setImg { t.x.img with wait := some (line, t.x.img.words) }
    | none => k (s.passLines (lines s))

/-- IMG_GO written with 1: ignored while a command runs; or a command that has waited for lines the host holds goes on. -/
def State.goImg (s : State) (op : Nat) (lines : State → List (Nat × Nat × Bool)) (k : State → State) : State :=
  let m := s.x.img
  if m.busy then s
  else
    let t := (s.setImg (m.begin_ s.now)).runImg op lines k
    t.setImg (t.x.img.after m)

def State.imgIs (s : State) (op : Nat) : Bool := bits s.x.img.cmd.w0 0 8 == op

def execRegister (s : State) : Out :=
  if s.imgIs 1 then .next (s.goImg 1 (fun s => [(s.x.img.w1, 135108, false)]) registerWork) else .next s

def execRetire (s : State) : Out := if s.imgIs 2 then .next (s.goImg 2 (fun _ => []) retireWork) else .next s

/-- IMG_GO with any command: ignored while CODE is 1. -/
def State.writeImgGo (s : State) : Out :=
  if s.x.img.code = 1 then .next s
  else
  match bits s.x.img.w0 0 8 with
  | 1 => execRegister s
  | 2 => execRetire s
  | op => .next (s.goImg op (fun _ => []) fun s => s)

/-! Attestation (04 R106 to R108). -/

def State.setAtt (s : State) (m : Mbox) : State := { s with x := { s.x with att := m } }

def State.attEnd (s : State) (code : Nat) : State :=
  (s.setAtt { s.x.att with code, wait := none, dead := false }).send (.pfMsix 2)

/-- VDSTATE of 03 R79. -/
def VdSt.code : VdSt → Nat
  | .absent => 0
  | .active => 1
  | .held => 2
  | .saved => 3
  | .destroying => 4

/-- A slot record of a report: the image being bound where the slot is REBINDING. -/
def State.slotRecord (s : State) (b : SlotB) : List Byte :=
  if b.st = 0 then List.replicate 40 0
  else bytesOf b.img 2 ++ bytesOf b.st 1 ++ List.replicate 5 0 ++ bytesOf (s.image b.img).ihash 32

/-- The signed part of a report (log 17 for its first eight bytes). -/
def State.reportHead (s : State) (vd : Nat) (nonce : List Byte) : List Byte :=
  let v := s.vd vd
  bytesOf 0x4154 2 ++ bytesOf 1 1 ++ bytesOf vd 1 ++ bytesOf v.desc.nctx 1 ++ bytesOf v.st.code 1 ++ bytesOf 0 2
    ++ bytesOf s.now 8 ++ nonce ++ bytesOf Config.firmwareHash.toNat 32
    ++ shake256 s.capabilityTable
    ++ shake256 v.keyBytes ++ bytesOf s.x.attGen 4 ++ bytesOf s.x.attLeaf 4 ++ List.replicate 104 0
    ++ (upFrom 0 v.desc.nctx).flatMap fun c => (upFrom 0 16).flatMap fun n => s.slotRecord (s.slot vd c n)

/-- Exactly `n` bytes. -/
def fixLen (n : Nat) (l : List Byte) : List Byte := (l ++ List.replicate n 0).take n

/-- A report. -/
def State.report (s : State) (vd : Nat) (nonce : List Byte) : List Byte :=
  let h := s.reportHead vd nonce
  h ++ fixLen 2820 (xmssSign s.x.attGen s.x.attLeaf h)

/-- The status with which a request fails: the lowest of those that apply, an order the spec does not give (log 62). -/
def State.attStatus (s : State) (vd : Nat) : Option Nat :=
  let m := s.x.att
  let v := s.vd vd
  if m.w0 / 64 ≠ 0 ∨ !s.nearBacked m.w1 32 ∨ m.w2 % 16384 ≠ 0 ∨ !s.nearBacked m.w2 16384 then some 3
  else if v.st = .absent ∨ v.st = .destroying then some 4
  else if 2 ^ 20 ≤ s.x.attLeaf then some 5
  else if s.unreadable m.w1 32 ∨ s.unreadable m.w2 16384 ∨ m.dead then some 6
  else none

/-- The request of the attestation mailbox, as it stands in its registers. The leaf is used up with the signature. -/
def State.runAtt (s : State) : State :=
  let m := s.x.att
  let vd := bits m.w0 0 6
  let lines := [(m.w1, 32, false), (m.w2, 16384, true)]
  match s.attStatus vd with
  | some c => s.attEnd c
  | none =>
    match s.linesWait lines with
    | some (line, t) => t.setAtt { t.x.att with wait := some (line, t.x.att.words) }
    | none =>
      let s := s.passLines lines
      let r := s.report vd (s.getBytes (.mem m.w1) 32)
      let s := { s with x := { s.x with attLeaf := s.x.attLeaf + 1 } }
      (s.write (.mem m.w2) r).attEnd 2

/-- ATT_GO written with 1; ignored while a request runs. Or a request that has waited for the host goes on. -/
def execAttestationRequest (s : State) : Out :=
  let m := s.x.att
  if m.busy then .next s
  else
    let t := (s.setAtt (m.begin_ s.now)).runAtt
    .next (t.setAtt (t.x.att.after m))

/-- With fewer than 4,096 unused leaves the next generation is built, certified with the next identity leaf and used from
then on (log 26). -/
def execAttestationKeyGeneration (s : State) : Out :=
  if 2 ^ 20 < s.x.attLeaf + 4096 ∧ s.x.idLeaf < 2 ^ 20 then
    .next { s with x := { s.x with attGen := s.x.attGen + 1, attLeaf := 0, idLeaf := s.x.idLeaf + 1 } }
  else .next s

end Sys2Proof.Machine
end

