-- ==== Sys2Proof/Machine/CodeObjects.lean ====
section
/-!
DEFINITION. Code objects (05 R111 to R120): the container and its checks, relocations, exports and imports, the feature
hash, LOAD and UNLOAD.
-/
namespace Sys2Proof.Machine

/-- Bits 0 to 12 of the feature set, as 32 bytes (05 R114). -/
def featureSet : List Byte := bytesOf (2 ^ 13 - 1) 32

/-- The feature hash of the part: the first eight bytes of SHAKE256 over its feature set (05 R115, R119). -/
def featureHash : Nat := shakeNat featureSet % 2 ^ 64

/-! The container (05 R111, R112). -/

/-- Section offset and length. -/
def secOff (x i : Nat) : Nat := fld x (0x10 + 8 * i) 0 32
def secLen (x i : Nat) : Nat := fld x (0x14 + 8 * i) 0 32

/-- Bytes of a container: up to the end of its last section (log 27). -/
def codeBytes (x : Nat) : Nat :=
  ((upFrom 0 7).map fun i => if secLen x i = 0 then 0 else secOff x i + secLen x i).foldl max 128

/-- Two sections overlap. -/
def secOverlap (x i j : Nat) : Bool :=
  i != j && secLen x i != 0 && secLen x j != 0 && decide (secOff x i < secOff x j + secLen x j)
    && decide (secOff x j < secOff x i + secLen x i)

/-- A header that breaks R111 or R112. -/
def headerBad (x : Nat) : Bool :=
  let hentry := fld x 0x48 0 32
  let hdem := fld x 0x4C 0 8
  fld x 0 0 16 != 0x4F43 || fld x 2 0 8 != 1 || fld x 3 0 8 != 0 || fld x 4 18 14 != 0 || fld x 0x4C 8 24 != 0
    || fld x 0x70 0 128 != 0 || (bitAt (fld x 4 0 32) 16 && fld x 4 0 8 == 0)
    || secLen x 0 == 0 || ((upFrom 0 7).any fun i => secLen x i != 0 && secOff x i % 64 != 0)
    || secLen x 0 % 8 != 0 || secLen x 1 % 8 != 0 || decide (16384 < secLen x 3) || secLen x 4 % 16 != 0
    || secLen x 5 % 32 != 0 || secLen x 6 % 16 != 0
    || ((upFrom 0 7).any fun i => (upFrom 0 7).any fun j => secOverlap x i j)
    || (if hentry = 2 ^ 32 - 1 then hdem != 0
        else hentry % 8 != 0 || decide (secLen x 0 ≤ hentry) || hdem == 0 || hdem % 8 != 0 || decide (128 < hdem))

/-! Relocations, exports, imports (05 R113). -/

/-- Record `k` of `n` bytes of a section, as a number. -/
def recAtNat (x sec n k : Nat) : Nat := fld x (secOff x sec + n * k) 0 (8 * n)

def recCount (x sec n : Nat) : Nat := secLen x sec / n

/-- A relocation record is malformed. -/
def relocBad (x r : Nat) : Bool :=
  let tsec := fld r 1 0 8
  let patch := fld r 4 0 32
  let add := fld r 8 0 64
  fld r 2 0 16 != 0 || patch % 8 != 0 || decide (secLen x 2 < patch + 8)
    || (match fld r 0 0 8 with
        | 1 => decide (3 < tsec) || secLen x tsec == 0 || decide (secLen x tsec < add)
        | 2 => tsec != 0 || decide (recCount x 6 16 ≤ add)
        | _ => true)

/-- An export record is malformed. -/
def exportBad (x e : Nat) : Bool :=
  let sec := fld e 0x10 0 8
  let edem := fld e 0x18 0 8
  fld e 0x10 8 24 != 0 || fld e 0x18 8 56 != 0 || decide (3 < sec) || secLen x sec == 0
    || decide (secLen x sec < fld e 0x14 0 32) || (edem != 0 && (edem % 8 != 0 || decide (128 < edem)))

/-- Code 3 of a container. -/
def codeBad (x : Nat) : Bool :=
  headerBad x || ((upFrom 0 (recCount x 4 16)).any fun k => relocBad x (recAtNat x 4 16 k))
    || (upFrom 0 (recCount x 5 32)).any fun k => exportBad x (recAtNat x 5 32 k)

/-- The loader admits the object (05 R116). -/
def admitted (x : Nat) : Bool :=
  fld x 8 0 64 == featureHash || (bitAt (fld x 4 0 32) 16 && bitAt (fld x 4 0 32) 17 && fld x 4 0 8 == 1 && fld x 5 0 8 == 0)

/-- Objects of a device in load order. -/
def inLoadOrder (t : Tab Obj) : List Obj :=
  (t.map (·.2)).foldl (fun l o => ins o l) []
where
  ins (o : Obj) : List Obj → List Obj
    | [] => [o]
    | x :: xs => if o.order < x.order then o :: x :: xs else x :: ins o xs

/-- The address of an import: the first export of its name among the loaded objects, in load order. -/
def resolveName (t : Tab Obj) (name : List Byte) : Option Nat :=
  (inLoadOrder t).findSome? fun o => (o.exports.find? fun e => e.1 == name).map (·.2)

/-- Name of import `k`. -/
def importName (x k : Nat) : List Byte := bytesOf (recAtNat x 6 16 k) 16

/-- Exports of a container loaded at an address. -/
def exportsOf (x va : Nat) : List (List Byte × Nat) :=
  (upFrom 0 (recCount x 5 32)).map fun k =>
    let e := recAtNat x 5 32 k
    (bytesOf (fld e 0 0 128) 16, va + secOff x (fld e 0x10 0 8) + fld e 0x14 0 32)

/-- The value a relocation writes. -/
def relocValue (x va : Nat) (t : Tab Obj) (r : Nat) : Nat :=
  let add := fld r 8 0 64
  if fld r 0 0 8 = 1 then va + secOff x (fld r 1 0 8) + add else (resolveName t (importName x add)).getD 0

/-- Bytes of a container with its relocations applied in record order. -/
def relocate (x va : Nat) (t : Tab Obj) : List Nat → List Byte → List Byte
  | [], b => b
  | k :: ks, b =>
    let r := recAtNat x 4 16 k
    let at0 := secOff x 2 + fld r 4 0 32
    relocate x va t ks (b.take at0 ++ bytesOf (relocValue x va t r) 8 ++ b.drop (at0 + 8))

/-! The code mailbox (05 R118, R120). -/

def State.setCode (s : State) (m : Mbox) : State := { s with x := { s.x with code := m } }

def State.codeEnd (s : State) (code : Nat) : State :=
  (s.setCode { s.x.code with code, wait := none, dead := false }).send (.pfMsix 2)

/-- A range of physical addresses lies in backed granules of a device. -/
def State.ownsRange (s : State) (vd pa n : Nat) : Bool :=
  s.backed (pa + n - 1) && (upFrom 0 (n / 2 ^ 30 + 2)).all fun k =>
    let a := min (pa + 2 ^ 30 * k) (pa + n - 1)
    s.backed a && (match granuleOf a with | some g => s.ownerOf g == vd | none => false)

/-- Checks of both commands: 9, 3, 7 (05 R120). -/
def State.codeStatus (s : State) (op : Nat) : Option Nat :=
  let m := s.x.code
  let vd := bits m.w0 8 6
  let used := (tget (s.vd vd).objs (bits m.w0 16 8)).isSome
  if (s.vd vd).st = .absent ∨ (s.vd vd).st = .destroying then some 9
  else if op ≠ 1 ∧ op ≠ 2 ∨ bits m.w0 14 2 ≠ 0 ∨ bits m.w0 24 40 ≠ 0 then some 3
  else if op = 1 ∧ (m.w1 % 64 ≠ 0 ∨ m.w2 % 65536 ≠ 0 ∨ m.w3 % 65536 ≠ 0) then some 3
  else if (op = 1 ∧ used) ∨ (op = 2 ∧ !used) then some 7
  else none

/-- Instruction caches and macro control stores of the package forget an object (05 R120). -/
def State.forgetCode (s : State) (vd num va n : Nat) : State :=
  { s with cores := tmap s.cores fun _ c =>
      { c with
        icache := c.icache.filter fun l => !(l.vd == vd && decide (va < l.va + 8) && decide (l.va < va + n))
        macObj := if c.macObj = some (vd, num) then none else c.macObj } }

/-- The object as it stands in the table. -/
def objOf (x base va n order : Nat) : Obj :=
  { base, va
    secOff := (upFrom 0 7).map fun i => secOff x i
    secLen := (upFrom 0 7).map fun i => secLen x i
    hentry := fld x 0x48 0 32
    hdemand := fld x 0x4C 0 8
    slotreq := (upFrom 0 16).map fun j => fld x (0x50 + 2 * j) 0 16
    bytes := n, exports := exportsOf x va, order }

/-- LOAD, once its command is in order: the container is read, then checked, then written where the object is to lie. -/
def loadWork (s : State) : State :=
  let m := s.x.code
  let vd := bits m.w0 8 6
  let num := bits m.w0 16 8
  if !s.ownsRange vd m.w1 128 then s.codeEnd 5
  else
    let n := codeBytes (s.getNat (.mem m.w1) 128)
    if !s.ownsRange vd m.w1 n ∨ !s.ownsRange vd m.w2 n then s.codeEnd 5
    else if s.unreadable m.w1 n ∨ m.deadIn m.w1 n then s.codeEnd 10
    else
      let b := s.getBytes (.mem m.w1) n
      let x := ofBytes b
      let objs := (s.vd vd).objs
      if codeBad x then s.codeEnd 3
      else if !admitted x then s.codeEnd 4
      else if (upFrom 0 (recCount x 6 16)).any fun k => (resolveName objs (importName x k)).isNone then s.codeEnd 6
      else if s.unreadable m.w2 n ∨ m.deadIn m.w2 n then s.codeEnd 10
      else
        let s := s.write (.mem m.w2) (relocate x m.w3 objs (upFrom 0 (recCount x 4 16)) b)
        let s := s.forgetCode vd num m.w3 n
        let order := ((objs.map fun o => o.2.order).foldl max 0) + 1
        (s.setVd vd { s.vd vd with objs := tset objs num (objOf x m.w2 m.w3 n order) }).codeEnd 2

/-- A grid, or an admitted launch, names an object. -/
def State.objNamed (s : State) (vd num : Nat) : Bool :=
  let va := (tgetD (s.vd vd).objs num {}).va
  s.grids.any fun (_, g) => g.vd == vd && g.obj == num && g.lrec.code == va

/-- UNLOAD. -/
def unloadWork (s : State) : State :=
  let vd := bits s.x.code.w0 8 6
  let num := bits s.x.code.w0 16 8
  if s.objNamed vd num then s.codeEnd 8
  else (s.setVd vd { s.vd vd with objs := tdel (s.vd vd).objs num }).codeEnd 2

/-- The command of the code mailbox, as it stands in its registers. -/
def State.runCode (s : State) (op : Nat) (lines : State → List (Nat × Nat × Bool)) (k : State → State) : State :=
  match s.codeStatus op with
  | some c => s.codeEnd c
  | none =>
    match s.linesWait (lines s) with
    | some (line, t) => t.setCode { t.x.code with wait := some (line, t.x.code.words) }
    | none => k (s.passLines (lines s))

/-- CODE_GO written with 1: ignored while a command runs; or a command that has waited for lines the host holds goes on. DESIGN
CHOICE (log 62): its words count as they stood at GO. -/
def State.goCode (s : State) (op : Nat) (lines : State → List (Nat × Nat × Bool)) (k : State → State) : State :=
  let m := s.x.code
  if m.busy then s
  else
    let t := (s.setCode (m.begin_ s.now)).runCode op lines k
    t.setCode (t.x.code.after m)

def State.codeIs (s : State) (op : Nat) : Bool := bits s.x.code.cmd.w0 0 8 == op

/-- Memory that LOAD reads and writes. -/
def State.codeLines (s : State) : List (Nat × Nat × Bool) :=
  let n := codeBytes (s.getNat (.mem s.x.code.w1) 128)
  [(s.x.code.w1, n, false), (s.x.code.w2, n, true)]

def execLoad (s : State) : Out := if s.codeIs 1 then .next (s.goCode 1 State.codeLines loadWork) else .next s

def execUnload (s : State) : Out := if s.codeIs 2 then .next (s.goCode 2 (fun _ => []) unloadWork) else .next s

/-- CODE_GO with any command: ignored while CODE_STATUS is 1. -/
def State.writeCodeGo (s : State) : Out :=
  if s.x.code.code = 1 then .next s
  else
  match bits s.x.code.w0 0 8 with
  | 1 => execLoad s
  | 2 => execUnload s
  | op => .next (s.goCode op (fun _ => []) fun s => s)

end Sys2Proof.Machine
end

