-- ==== Sys2Proof/Machine/Power.lean ====
section
/-!
DEFINITION. Clocks, power and die gating (01 R23 to R31, 03 R76, R87 to R89): synchronisation, lost dies, frequency steps,
caps and shedding, gating of dies, regulator windows.
-/
namespace Sys2Proof.Machine

/-! Dies that are lost (01 R25). -/

/-- What waited at a home is attempted again: what lies on a lost die fails with cause 0x16. -/
def State.loseDie (s : State) (d : Nat) : State :=
  if (s.die d).lost then s
  else
    let s := (s.setDie d { s.die d with lost := true }).send (.pfMsix 4)
    s.retry fun o => match o with
      | .snoop _ | .regul _ _ | .held => true
      | .ready _ | .parked _ _ | .walker _ _ | .remote _ _ => false

/-- A Husk's timer stops, or its losses of synchronisation make its die lost. -/
def execDieLost (die : Nat) (s : State) : Out :=
  if die < 12 ∧ !bitAt s.pkg.exDies die then .next (s.loseDie die) else .next s

/-- Dies that miss a pulse; those that have missed ten in a row are lost. -/
def State.missPulse (s : State) (missed : Nat) : List Nat → State
  | [] => s
  | d :: ds =>
    let x := s.die d
    let s :=
      if bitAt missed d then
        let s := s.setDie d { x with missed := x.missed + 1 }
        if 10 ≤ x.missed + 1 then s.loseDie d else s
      else if x.missed = 0 then s else s.setDie d { x with missed := 0 }
    s.missPulse missed ds

/-- An island that starts to be clocked starts at a time, in the present 10 µs. -/
def State.startClock (s : State) (d i at0 : Nat) : State :=
  s.setIsl d i { s.isl d i with done := max (s.isl d i).done ((at0 - s.run.pulse) * tickUnit) }

/-- The clocks an island still has in the 10 µs that end, counted; the next 10 µs begin. -/
def State.fillClocks (s : State) : List (Nat × Nat) → State
  | [] => s
  | (d, i) :: l =>
    let x := s.isl d i
    let n := s.clocksLeft d i
    let s := s.countClocks d i n
    let y := (s.isl d i).tick n
    (if n = 0 ∧ x.done = 0 then s else s.setIsl d i { y with done := 0 }).fillClocks l

/-- The relock of an island ends, if it does by a time: the island has clocks from its end on (01 R24). -/
def State.endRelock (s : State) (t d i : Nat) : State :=
  let x := s.isl d i
  if x.relock ∧ x.till ≤ t then (s.setIsl d i { x with relock := false }).startClock d i x.till else s

def State.endRelocks (s : State) (t : Nat) : List (Nat × Nat) → State
  | [] => s
  | (d, i) :: l => (s.endRelock t d i).endRelocks t l

/-- A synchronisation pulse: 10 µs of reference time have passed (01 R25, log 1); `missed` names the dies whose Husk did
not receive it. -/
def execSyncPulse (missed : Nat) (s : State) : Out :=
  let t := s.run.pulse + 1000
  let all := (upFrom 0 12).flatMap fun d => [(d, 0), (d, 1)]
  let s := ((s.endRelocks (t - 1) all).fillClocks all).timeTo t
  let s := { s with run := { s.run with window := true, pulse := t } }
  .next (s.missPulse missed (upFrom 0 12))

/-! Regulators (03 R76). -/

/-- A device has a request held by a regulator (03 R79): of an agent, a copy request, a launch or a stream, or of a peer that
acts for it. -/
def State.isHeld (s : State) (vd : Nat) : Bool :=
  s.agents.any (fun (_, a) => a.id.vd == vd && a.regulated)
    || s.copies.any (fun (_, c) => c.vd == vd && c.wait.any OpSt.isRegul)
    || s.grids.any (fun (_, g) => g.vd == vd && g.own.any fun o => o.st.isRegul)
    || ((s.vd vd).streams.any fun (_, x) => x.own.any fun o => o.st.isRegul)
    || s.link.heldIn.any fun h => h.vd == vd && h.st.isRegul

/-- An access of the part's own that waited for a regulator is tried again. -/
def Own.freed (o : Own) : Own := if o.st.isRegul then { o with st := .held } else o

/-- Accesses of peers that waited come in again, as many as satisfy a test (02 R48, 03 R76). -/
def State.takeHeldIn (s : State) (p : OpSt → Bool) : State :=
  (s.link.heldIn.filter fun h => p h.st).foldl (fun t h => t.later h.acc)
    { s with link := { s.link with heldIn := s.link.heldIn.filter fun h => !p h.st } }

/-- What waited for regulators may be tried again. -/
def State.freeHeld (s : State) : State :=
  { s with
    agents := tmap s.agents fun _ a => { a with pend := { a.pend with own := a.pend.own.map Own.freed } }
    copies := tmap s.copies fun _ c => if c.wait.any OpSt.isRegul then { c with wait := some .held } else c
    grids := tmap s.grids fun _ g => { g with own := g.own.map Own.freed }
    vds := tmap s.vds fun _ v => { v with streams := tmap v.streams fun _ x => { x with own := x.own.map Own.freed } } }

/-- A new window begins: every site has its budget, and what waited is attempted again. -/
def execRegulatorWindow (s : State) : Out :=
  if !s.run.window then .next s
  else
    let held (n : Nat) (v : Vd) : Bool := v.windowHeld || s.isHeld n
    let s := { s with
      run := { s.run with window := false }
      vds := tmap s.vds fun n v =>
        { v with regs := [], heldw := if held n v then (v.heldw + 1) % 2 ^ 32 else v.heldw, windowHeld := false } }
    .next ((s.freeHeld.takeHeldIn OpSt.isRegul).retry fun o => match o with
      | .regul _ _ | .held => true
      | .ready _ | .parked _ _ | .walker _ _ | .snoop _ | .remote _ _ => false)

/-! Frequencies (01 R24). -/

/-- A frequency an island can have. -/
def legalMhz (f : Nat) : Bool := decide (600 ≤ f) && decide (f ≤ 2400) && f % 100 == 0

/-- An island changes its frequency: the clocks it has had so far are counted, and it relocks for at most 2 µs, a free value
(01 R24, 08 R222). -/
def State.setMhz (s : State) (d i mhz full : Nat) : State :=
  let x := s.isl d i
  let n := min ((s.sincePulse - x.done) / x.period) (s.clocksLeft d i)
  let s := s.countClocks d i n
  let (f, s) := s.fresh
  s.setIsl d i { (s.isl d i).tick n with mhz, relock := true, till := s.now + f % 201, full }

/-- The management controller sets a frequency; the island relocks. -/
def execFrequencyStep (die island mhz : Nat) (s : State) : Out :=
  let x := s.isl die island
  if die < 12 ∧ island < 2 ∧ legalMhz mhz ∧ !x.relock ∧ mhz ≠ x.mhz then .next (s.setMhz die island mhz 0) else .next s

/-- The relock ends; where nothing else happens before, the reference time goes on to its end. -/
def execPllRelockEnd (die island : Nat) (s : State) : Out :=
  let x := s.isl die island
  if die < 12 ∧ island < 2 ∧ x.relock ∧ x.till < s.run.pulse + 1000 then
    let s := s.timeTo x.till
    .next ((s.setIsl die island { x with relock := false }).startClock die island x.till)
  else .next s

/-- Islands of the dies present. -/
def State.islands (s : State) : List (Nat × Nat) :=
  ((upFrom 0 12).filter fun d => !bitAt s.pkg.exDies d).flatMap fun d => [(d, 0), (d, 1)]

/-- Every island 100 MHz lower, down to 600 MHz. -/
def State.lowerAll (s : State) : List (Nat × Nat) → State
  | [] => s
  | (d, i) :: l =>
    let x := s.isl d i
    (if 600 < x.mhz then s.setMhz d i (x.mhz - 100) (if x.full = 0 then x.mhz else x.full) else s).lowerAll l

/-- Frequencies the cap lowered put back. -/
def State.restoreAll (s : State) : List (Nat × Nat) → State
  | [] => s
  | (d, i) :: l =>
    let x := s.isl d i
    (if x.full ≠ 0 then s.setMhz d i x.full 0 else s).restoreAll l

/-- Power over a window of 1 ms exceeds the cap with all steps applied (03 R89). -/
def execPowerWindowOverCap (s : State) : Out :=
  if s.islands.any fun (d, i) => decide (600 < (s.isl d i).mhz) then .next (s.lowerAll s.islands)
  else if s.pkg.pwrUnmet then .next s
  else .next ({ s with pkg := { s.pkg with pwrUnmet := true } }.send (.pfMsix 3))

/-! Caps and shedding (03 R87, R88). -/

def State.shedDevices (s : State) : List Nat → State
  | [] => s
  | v :: vs => (s.shedDevice v).shedDevices vs

/-- A change of caps or steps takes effect: when the cap rises frequencies are restored first; PF vector 3 tells of steps
entered or left (03 R85, R89). -/
def State.applyCaps (s old : State) : State :=
  let s := if old.pwrEff < s.pwrEff then s.restoreAll s.islands else s
  let s := s.shedDevices (upFrom 0 64)
  if s.stepsOn = old.stepsOn then s else s.send (.pfMsix 3)

/-- PWR_CAP is written. -/
def execPwrCapWrite (w : Nat) (s : State) : Out :=
  .next ({ s with pkg := { s.pkg with pwrCap := w % 2 ^ 16 } }.applyCaps s)

/-- The tray signals a cap. -/
def execTrayPowerCap (w : Nat) (s : State) : Out :=
  .next ({ s with pkg := { s.pkg with trayCap := w } }.applyCaps s)

/-! Gating of dies (01 R28 to R31). -/

/-- Nothing is resident on a die. -/
def State.dieIdle (s : State) (d : Nat) : Bool :=
  !(s.teams.any fun (_, t) => t.holds && dieOfCore t.core == d)
    && !(s.agents.any fun (_, a) => !a.pos.out && dieOfCore a.pos.core == d)
    && !(s.copies.any fun (_, c) => !c.saved && dieOfCore c.core == d)

/-- The power policy gates an idle die. -/
def execDieGatingStart (die : Nat) (s : State) : Out :=
  if die < 12 ∧ (s.die die).gate = .on ∧ s.dieIdle die ∧ s.pkg.ready then
    .next (s.setDie die { s.die die with gate := .gating })
  else .next s

/-- Everything the core islands of a die hold is lost (01 R31). -/
def State.blankDie (s : State) (d : Nat) : State := s.scrubCobs (upFrom (24 * d) 24)

/-- The write-backs are done. -/
def execGatingComplete (die : Nat) (s : State) : Out :=
  if (s.die die).gate = .gating then
    let s := { s with sideCache := s.sideCache.filter fun c => c.die != die }
    .next ((s.setDie die { s.die die with gate := .gated, l2pins := [] }).blankDie die)
  else .next s

/-- A request for the die arrives while it is being gated. -/
def execGatingAbandon (die : Nat) (s : State) : Out :=
  if (s.die die).gate = .gating then .next (s.setDie die { s.die die with gate := .on }) else .next s

/-- A request for a gated die arrives. -/
def execDieWakeRequest (die : Nat) (s : State) : Out :=
  if (s.die die).gate = .gated then .next (s.setDie die { s.die die with gate := .waking }) else .next s

/-- The islands of a waking die are powered: the requests that waited go on (01 R30). What was put on the die while it
woke has been zeroed at its placement. -/
def execWakeComplete (die : Nat) (s : State) : Out :=
  if (s.die die).gate = .waking then
    let s := ((s.setDie die { s.die die with gate := .on }).startClock die 0 s.now).startClock die 1 s.now
    .next (State.retryHeld { s with agents := tmap s.agents fun _ a =>
      match a.pend.mig with
      | some (d, _) => if d = die then { a with pend := { a.pend with wake := false } } else a
      | none => a })
  else .next s

end Sys2Proof.Machine
end

