-- ==== Sys2Proof/Machine/MoveEngine.lean ====
section
/-!
DEFINITION. The migration engines of the F-dies (01 R18 to R21): records of the ring, the two phases of a move, its
completion.
-/
namespace Sys2Proof.Machine

/-- A command record (01 R19). -/
structure MovRec where
  op : Nat
  pgsz : Nat
  vd : Nat
  src : Nat
  dst : Nat
  leaf : Nat
  ctr : Nat
  reserved : Bool
  deriving DecidableEq, Repr

def movRecOf (x : Nat) : MovRec :=
  { op := fld x 0 0 8
    pgsz := fld x 1 0 8
    vd := fld x 2 0 16
    src := fld x 8 0 52
    dst := fld x 16 0 52
    leaf := fld x 24 0 52
    ctr := fld x 32 0 52
    reserved := fld x 32 52 12 == 0 && fld x 40 8 56 == 0 && fld x 48 0 128 == 0 }

/-- The near-tier stack of an address. -/
def State.stackOf (s : State) (pa : Nat) : Option (Nat × Nat) :=
  if pa < 0x010000000000 then s.homeMap (pa / 2 ^ 21) else none

/-- A physical page of a tier, outside the reserve, that the device owns (01 R19, 03 R65, log 28). -/
def State.pageOk (s : State) (vd pa : Nat) : Bool :=
  s.backed pa && !s.inReserve pa && (match granuleOf pa with | some g => s.ownerOf g == vd | none => false)

/-- The status with which a record fails when it is taken. -/
def State.movStatus (s : State) (r : MovRec) : Option Nat :=
  if r.op ≠ 1 ∨ !r.reserved ∨ 64 ≤ r.vd ∨ r.leaf % 8 ≠ 0 ∨ r.ctr % 8 ≠ 0 ∨ !s.backed r.ctr ∨ s.inReserve r.ctr then some 2
  else if 3 ≤ r.pgsz then some 3
  else if r.src % pageBytes r.pgsz ≠ 0 ∨ r.dst % pageBytes r.pgsz ≠ 0 then some 2
  else if (s.vd r.vd).st = .absent ∨ (s.vd r.vd).st = .destroying then some 7
  else if !s.pageOk r.vd r.src ∨ !s.pageOk r.vd r.dst ∨ ((s.stackOf r.src).isSome ∧ s.stackOf r.src = s.stackOf r.dst) then some 4
  else none

/-- A running command shares a page with a record. -/
def sharesPage (r : MovRec) (m : Mig) : Bool :=
  let hit (a b : Nat) : Bool := decide (a < b + pageBytes m.pgsz) && decide (b < a + pageBytes r.pgsz)
  hit r.src m.src || hit r.src m.dst || hit r.dst m.src || hit r.dst m.dst

/-- Bytes of a range copied to another. -/
def memCopy (m : List Host.Cell) (src dst n : Nat) : List Host.Cell :=
  (m.filter fun c => decide (src ≤ c.1) && decide (c.1 < src + n)).foldl (fun m c => memIns m (c.1 - src + dst) c.2)
    (memZero m dst n)

/-- Bytes of a page of a device copied by the engine: they pass the slices and count in the device's regulators
(01 R22, 03 R76). -/
def State.copyPage (s : State) (vd src dst n : Nat) : State :=
  let s := (s.passMem vd true src n false).passMem vd true dst n true
  { s with mem := memCopy s.mem src dst n }

/-- The first free command slot of an engine. -/
def Die.freeSlot (d : Die) : Option Nat := (upFrom 0 16).find? fun i => (tget d.migs i).isNone

def State.setMig (s : State) (d i : Nat) (m : Mig) : State := s.setDie d { s.die d with migs := tset (s.die d).migs i m }

/-- A line that was waited for, and never given up, lies in a range. -/
def deadLine (wait : Option Nat) (dead : Bool) (pa n : Nat) : Bool :=
  dead && wait.any fun l => decide (l < pa + n) && decide (pa < l + 128)

/-- The next command of a ring waits for a line that the host holds (02 R48). -/
def State.ringWaits (s : State) (die line : Nat) : State :=
  s.setDie die { s.die die with ringWait := some line, ringDead := false }

/-- The command at the head of a ring is taken into a slot of the engine. -/
def State.takeMove (s : State) (die slot : Nat) (m : Mig) : State :=
  let d := s.die die
  s.setDie die { d with
    ringHead := (d.ringHead + 1) % 256, ringWait := none, ringDead := false, migs := tset d.migs slot m }

/-- The next command of a ring is taken and checked; a move that is in order enters phase 1, which copies SRC to DST. A
record that cannot be read has status 2, a move whose pages the host does not give up 6 (log 28). -/
def execMove (die : Nat) (s : State) : Out :=
  let d := s.die die
  match d.freeSlot with
  | none => .next s
  | some i =>
    if die < 8 ∨ 12 ≤ die ∨ d.ringHead % 256 = d.ringTail % 256 ∨ s.pkg.stopped then .next s
    else
      let at0 := d.ringBase + 64 * (d.ringHead % 256)
      let gone := s.physGone at0 64 || deadLine d.ringWait d.ringDead at0 64
      match if gone then none else s.linesWait [(at0, 64, false)] with
      | some (line, s) => .next (s.ringWaits die line)
      | none =>
        let r := movRecOf (if gone then 0 else s.getNat (.mem at0) 64)
        let n := pageBytes r.pgsz
        if d.migs.any fun (_, m) => sharesPage r m then .next s
        else
          let mig (phase status : Nat) : Mig :=
            { ring := die, recAt := at0, pgsz := r.pgsz, vd := r.vd, src := r.src, dst := r.dst, leaf := r.leaf, ctr := r.ctr
              phase, log := [], status }
          let t := if gone then s else s.passLines [(at0, 64, false)]
          match s.movStatus r with
          | some st => .next (t.takeMove die i (mig 3 st))
          | none =>
            if d.ringDead then .next (t.takeMove die i (mig 3 6))
            else
              match s.linesWait [(r.src, n, false), (r.dst, n, true)] with
              | some (line, s) => .next (s.ringWaits die line)
              | none => .next (((t.copyPage r.vd r.src r.dst n).written (.mem r.dst) n).takeMove die i (mig 1 0))

/-- Entry `k` of the leaves of a command maps its part of SRC: present, a leaf, local, of the right level. One that the
device does not own, or that cannot be read, maps nothing (03 R65, log 28). -/
def State.leafMaps (s : State) (m : Mig) (k : Nat) : Bool :=
  let e := s.getNat (.mem (m.leaf + 8 * k)) 8
  (s.physFail m.vd (m.leaf + 8 * k) 8).isNone && bitAt e 0 && bitAt e 3 && !bitAt e 5 && bits e 12 40 * 4096 == m.src + 4096 * k && (m.pgsz != 1 || bitAt e 4)

/-- Leaves a command rewrites: one, or the 16 of a 64 KiB group (08 R218). -/
def leavesOf (m : Mig) : Nat := if m.pgsz = 1 then 16 else 1

/-- A range cannot be read or written: a line of SRC holds an uncorrectable error, or a die is lost. -/
def State.moveBroken (s : State) (m : Mig) : Bool :=
  s.unreadable m.src (pageBytes m.pgsz) || (s.dies.any fun (d, x) => x.lost && s.homeDie m.dst == some d)

/-- A move whose SRC cannot be read ends with status 6: what DST then holds is a free value (01 R19). -/
def State.breakMove (s : State) (die slot : Nat) (m : Mig) : State :=
  let (f, s) := s.fresh
  { s with mem := memFill s.mem m.dst (pageBytes m.pgsz) f }.setMig die slot { m with phase := 3, status := 6 }

/-- A place that lies in a page that has moved. -/
def relocLoc (src dst n : Nat) : Loc → Loc
  | .mem a => if src ≤ a ∧ a < src + n then .mem (a - src + dst) else .mem a
  | .scr c o => .scr c o

/-- A move in progress waits for a line that the host holds. -/
def State.migWaits (s : State) (die slot line : Nat) (m : Mig) : State :=
  s.setMig die slot { m with wait := some line, dead := false }

/-- The command ends with a status, its translation unchanged. -/
def Mig.over (m : Mig) (st : Nat) : Mig := { m with phase := 3, status := st }

/-- The end of phase 1: what stands in the way ends the command; else new accesses to the page are held and its held
translations are dropped. A page that the device has come not to own is status 4 (03 R65, log 28). -/
def execMigrationPhase2 (die slot : Nat) (s : State) : Out :=
  match tget (s.die die).migs slot with
  | none => .next s
  | some m =>
    let n := pageBytes m.pgsz
    let leaves := 8 * leavesOf m
    if m.phase ≠ 1 then .next s
    else if (s.vd m.vd).st = .absent ∨ (s.vd m.vd).st = .destroying then .next (s.setMig die slot (m.over 7))
    else if s.moveBroken m then .next (s.breakMove die slot m)
    else if !s.pageOk m.vd m.src ∨ !s.pageOk m.vd m.dst then .next (s.setMig die slot (m.over 4))
    else if deadLine m.wait m.dead m.leaf leaves then .next (s.setMig die slot (m.over 5))
    else
      match s.linesWait [(m.leaf, leaves, false)] with
      | some (line, s) => .next (s.migWaits die slot line m)
      | none =>
        let s := s.passMem m.vd true m.leaf leaves false
        if !((upFrom 0 (leavesOf m)).all fun k => s.leafMaps m k) then .next (s.setMig die slot (m.over 5))
        else
          let s := { s with tlb := s.tlb.filter fun e =>
            !(e.rmt.isNone && decide (m.src < e.pa + 2 ^ e.lg) && decide (e.pa < m.src + n)) }
          .next (s.setMig die slot { m with phase := 2 })

/-- Logged blocks copied again. -/
def State.recopy (s : State) (m : Mig) : State :=
  (m.log.filter fun b => decide (4096 * b < pageBytes m.pgsz)).foldl
    (fun s b => s.copyPage m.vd (m.src + 4096 * b) (m.dst + 4096 * b) 4096) s

/-- Leaves rewritten to DST. -/
def State.moveLeaves (s : State) (m : Mig) : Nat → State
  | 0 => s
  | k + 1 =>
    let s := s.moveLeaves m k
    let pa := m.leaf + 8 * k
    (s.passMem m.vd true pa 8 true).write (.mem pa) (bytesOf (setBits (s.getNat (.mem pa) 8) 12 40 ((m.dst + 4096 * k) / 4096)) 8)

/-- The rest of phase 2: logged blocks copied again, LEAF names DST; waits armed in the page go with it (01 R21). -/
def State.finishMove (s : State) (m : Mig) : State :=
  let n := pageBytes m.pgsz
  let s := (s.recopy m).moveLeaves m (leavesOf m)
  { s with
    agents := tmap s.agents fun _ a =>
      match a.pend.ct with
      | some c => { a with pend := { a.pend with ct := some { c with loc := relocLoc m.src m.dst n c.loc } } }
      | none => a
    grids := tmap s.grids fun _ g => { g with arms := g.arms.map fun e => (e.1, relocLoc m.src m.dst n e.2) } }

/-- The status with which a move in phase 2 fails at its end: its pages cannot be read or written, the device has come not to
own them, or LEAF (01 R19, 03 R65, log 28). -/
def State.moveFails (s : State) (m : Mig) : Option Nat :=
  let n := pageBytes m.pgsz
  let dead (pa k : Nat) : Bool := deadLine m.wait m.dead pa k
  if m.phase ≠ 2 then none
  else if s.moveBroken m ∨ dead m.src n ∨ dead m.dst n then some 6
  else if !s.pageOk m.vd m.src ∨ !s.pageOk m.vd m.dst then some 4
  else if ((upFrom 0 (leavesOf m)).any fun k => (s.physFail m.vd (m.leaf + 8 * k) 8).isSome) ∨ dead m.leaf (8 * leavesOf m) then some 5
  else none

/-- What a completion reads and writes, which the host must not hold (02 R48); whether it writes its STATUS and its
counter: not where the place is out of reach, or the host has not given it up (01 R25, 02 R52). -/
def State.putsStatus (s : State) (m : Mig) : Bool := !s.physGone (m.recAt + 40) 1 && !deadLine m.wait m.dead (m.recAt + 40) 1
def State.putsCtr (s : State) (m : Mig) : Bool := m.status != 2 && !s.physGone m.ctr 8 && !deadLine m.wait m.dead m.ctr 8
def State.moveLines (s : State) (m : Mig) : List (Nat × Nat × Bool) :=
  (if m.phase = 2 then
      [(m.src, pageBytes m.pgsz, false), (m.dst, pageBytes m.pgsz, true), (m.leaf, 8 * leavesOf m, true)] else [])
    ++ (if s.putsStatus m then [(m.recAt + 40, 1, true)] else []) ++ (if s.putsCtr m then [(m.ctr, 8, true)] else [])

/-- A command completes: STATUS, then the counter unless the record was malformed, then the vector of the die; the
accesses that were held go on. -/
def State.completeMove (s : State) (die slot : Nat) (m : Mig) : State :=
  let st := if m.phase = 2 then 1 else m.status
  let s := if m.phase = 2 then s.finishMove m else s
  let s := s.setDie die { s.die die with migs := tdel (s.die die).migs slot }
  let put (b : Bool) (s : State) (pa : Nat) (bs : List Byte) : State :=
    if b then (s.passLines [(pa, bs.length, true)]).write (.mem pa) bs else s
  let s := put (s.putsStatus m) s (m.recAt + 40) (bytesOf st 1)
  let s := put (s.putsCtr m) s m.ctr (bytesOf (satAdd (s.getNat (.mem m.ctr) 8) 1) 8)
  (s.send (.pfMsix (die - 3))).retryHeld

/-- The end of a command: a move in phase 2 that cannot be finished ends with its status; what is to complete does, once the
host holds nothing of it. -/
def State.endMove (s : State) (die slot : Nat) (m : Mig) : State :=
  match s.moveFails m with
  | some 6 => s.breakMove die slot m
  | some st => s.setMig die slot (m.over st)
  | none =>
    match s.linesWait (s.moveLines m) with
    | some (line, s) => s.migWaits die slot line m
    | none => s.completeMove die slot m

def execMigrationComplete (die slot : Nat) (s : State) : Out :=
  match tget (s.die die).migs slot with
  | none => .next s
  | some m => if m.phase ≠ 2 ∧ m.phase ≠ 3 then .next s else .next (s.endMove die slot m)

end Sys2Proof.Machine
end

