-- ==== Sys2Proof/Machine/Link.lean ====
section
/-!
DEFINITION. The host link, host coherence and the scale-up ports (02): accesses of the host to device memory, the answers to
back-invalidations, sideband flits, ports, accesses of peers.
-/
namespace Sys2Proof.Machine

/-! The tracker (02 R48). -/

/-- Entries of the tracker. -/
def trackerSize : Nat := 8388608

/-- Lines of a range. -/
def hostLines (pa n : Nat) : List Nat := (upFrom (pa / 128) ((pa + n - 1) / 128 + 1 - pa / 128)).map fun l => 128 * l

/-- The host comes to hold a line, and whether it may modify it. -/
def grantLine (m : Bool) (t : List (Nat × Bool)) (line : Nat) : List (Nat × Bool) :=
  (line, m) :: t.filter fun e => e.1 != line

/-- What stands in the way of a host request: an operation of the part that waits for the line (R49), or a full tracker,
whose least recently granted entry is evicted first. -/
def State.hostBlocked (s : State) (pa n : Nat) (hold : Hold) : Option State :=
  if s.link.incoherent then none
  else if (s.link.snoops.any fun x => (hostLines pa n).contains x.line) then some s
  else if hold = .none then none
  else
    let new := (hostLines pa n).filter fun l => !(s.link.tracker.any fun e => e.1 == l)
    if s.link.tracker.length + new.length ≤ trackerSize then none
    else (s.link.tracker.getLast?).map fun e => s.sendSnoop e.1 true

/-- The tracker after a host request. -/
def State.hostHolds (s : State) (pa n : Nat) (hold : Hold) : State :=
  if s.link.incoherent then s
  else
    let t := match hold with
      | .none => s.link.tracker
      | .clean => (hostLines pa n).foldl (grantLine false) s.link.tracker
      | .modified => (hostLines pa n).foldl (grantLine true) s.link.tracker
    { s with link := { s.link with tracker := t } }

/-! Accesses through the HDM range (02 R46). -/

/-- The link is up. -/
def State.linkUp (s : State) : Bool := s.link.st == 2 || s.link.st == 3

/-- The host reaches the part. -/
def State.hostIn (s : State) : Bool := s.linkUp && s.pkg.ready && !s.pkg.stopped

/-- An address in the HDM range that a host access reaches: backed, outside the reserve, its die not lost (log 15). -/
def State.hostSees (s : State) (pa n : Nat) : Bool :=
  decide (pa + n ≤ 0x0D0000000000) && s.backed pa && s.backed (pa + n - 1) && !s.inReserve pa && !s.inReserve (pa + n - 1)
    && !(s.dies.any fun (d, x) => x.lost && s.homeDie pa == some d)

/-- A rejected host access. -/
def State.rejectHost (s : State) (pa : Nat) : State :=
  { s with link := { s.link with erraddr := pa % 2 ^ 52 } }.send (.pfMsix 0)

/-- An access of the host goes through the memory-side cache of its home: its fills take unassigned ways (03 R75). -/
def State.hostAccess (s : State) (pa n : Nat) (wr : Bool) : State := (s.accessMem none pa n wr).2

/-- A host read of device memory. -/
def State.hdmRead (s : State) (off n : Nat) (hold : Hold) : State :=
  if !s.hostSees off n then (s.rejectHost off).send (.hostData off (List.replicate n 0xFF))
  else
    match s.hostBlocked off n hold with
    | some s => s.later (.hostRead .hdm off n hold)
    | none =>
      let s := (s.hostHolds off n hold).hostAccess off n false
      if s.isFaulty off n then
        let (f, s) := s.fresh
        s.send (.hostData off (bytesOf f n))
      else s.send (.hostData off (s.getBytes (.mem off) n))

/-- Every line of a range is being overwritten by the part, which waits for the host to give it up. -/
def State.claimed (s : State) (pa n : Nat) : Bool :=
  (hostLines pa n).all fun l => s.link.snoops.any fun x => x.line == l && x.whole

/-- A host write of device memory: a write of the host agent at the home slice (02 R50). One that comes while the part
overwrites its lines comes before that (01 R37, log 15). -/
def State.hdmWrite (s : State) (off : Nat) (data : List Byte) : State :=
  if !s.hostSees off data.length then s.rejectHost off
  else if s.claimed off data.length then s.send (.hostDone off)
  else
    match s.hostBlocked off data.length .none with
    | some s => s.later (.hostWrite .hdm off data)
    | none => ((s.hostAccess off data.length true).write (.mem off) data).send (.hostDone off)

/-- A host locked operation: the host obtains the line and the update is performed (02 R49). -/
def execHostLockedOperation (off : Nat) (f : AtomOp) (v cmp : Nat) (s : State) : Out :=
  let n := f.width / 8
  if !s.hostIn then .next s
  else if !s.hostSees off n then .next ((s.rejectHost off).send (.hostOld off (2 ^ f.width - 1)))
  else
    match s.hostBlocked off n .modified with
    | some s => .next (s.later (.hostLockedOperation off f v cmp))
    | none =>
      let s := s.hostAccess off n true
      let old := s.getNat (.mem off) n
      let s := match atomNew f old v cmp with
        | some x => s.write (.mem off) (bytesOf x n)
        | none => s
      .next ((s.hostHolds off n .modified).send (.hostOld off old))

/-! Back-invalidation (02 R48, R52). -/

/-- An operation that waits for a line. -/
def OpSt.forLine (line : Nat) : OpSt → Bool
  | .snoop l => l == line
  | .ready _ | .parked _ _ | .walker _ _ | .regul _ _ | .remote _ _ | .held => false

/-- An operation that waits for some line. -/
def OpSt.isSnoop : OpSt → Bool
  | .snoop _ => true
  | .ready _ | .parked _ _ | .walker _ _ | .regul _ _ | .remote _ _ | .held => false

/-- The host answers a snoop: what it had modified is returned, unless the part overwrites all of the line, and what waited
performs. Its copy is gone after a snoop that invalidates, and clean in the tracker after one that a read sent (log 15). -/
def execBisnpResponse (line : Nat) (data : Option (List Byte)) (s : State) : Out :=
  match s.link.snoops.find? fun x => x.line == line with
  | none => .next s
  | some n =>
    let dirty : Bool := s.link.tracker.any fun (e : Nat × Bool) => e.1 == line && e.2
    let s : State := match data with
      | some bs => if dirty && !n.whole then s.write (.mem line) (bs.take 128) else s
      | none => s
    let tracker : List (Nat × Bool) :=
      if n.inval then s.link.tracker.filter fun e => e.1 != line
      else s.link.tracker.map fun e => if e.1 = line then (line, false) else e
    let snoops : List Snoop := s.link.snoops.filter fun x => x.line != line
    let s : State := { s with link := { s.link with snoops, tracker } }
    .next ((s.takeHeldIn (OpSt.forLine line)).retry (OpSt.forLine line))

/-- A snoop without an answer for 100,000 ticks is sent once more. -/
def execBisnpResend (line : Nat) (s : State) : Out :=
  if (s.link.snoops.any fun x => x.line == line && !x.resent && decide (x.sent + 100000 ≤ s.now)) then
    let snoops : List Snoop := s.link.snoops.map fun x => if x.line = line then { x with resent := true } else x
    .next ({ s with link := { s.link with snoops } }.send (.bisnp line))
  else .next s

/-- Operations of an agent that wait for a line fail with cause 0x16. -/
def State.failLine (s : State) (line i : Nat) : State :=
  match tget s.agents i with
  | none => s
  | some a =>
    let os := a.pend.ops.filter fun o => o.st.forLine line
    if os.isEmpty then s else (os.foldl (fun s o => s.failOp i o 0x16 o.va) s).afterReturn i

def State.failLines (s : State) (line : Nat) : List Nat → State
  | [] => s
  | i :: is => (s.failLine line i).failLines line is

/-- Units of copy requests that wait for the line fail: the ones whose next access it is (02 R52). -/
def State.failSnooped (s : State) (line : Nat) : List Nat → State
  | [] => s
  | id :: ids =>
    match tget s.copies id with
    | some c =>
      (match c.asking with
       | some u => if c.wait = some (OpSt.snoop line) then s.unitTimeout id u c else s
       | none => s).failSnooped line ids
    | none => s.failSnooped line ids

/-- Who made an access that has come in. -/
def peerOf : Instr → Nat
  | .remoteAccessArrival dev _ _ => dev
  | .sparseReducePairArrival src _ _ _ _ _ => src.dev
  | _ => 0

/-- Accesses of peers that wait for the line fail: their replies tell so. -/
def State.failHeldIn (s : State) (line : Nat) : State :=
  (s.link.heldIn.filter fun h => h.st.forLine line).foldl (fun t h => t.send (.peerReply (peerOf h.acc) false 0x16 []))
    { s with link := { s.link with heldIn := s.link.heldIn.filter fun h => !h.st.forLine line } }

/-- A command that waits for the line goes on without it. -/
def Mbox.loses (line : Nat) (m : Mbox) : Mbox := if m.wait.any fun w => w.1 == line then { m with dead := true } else m

def Die.loses (line : Nat) (d : Die) : Die :=
  { d with
    ringDead := d.ringDead || d.ringWait == some line
    migs := tmap d.migs fun _ m => if m.wait = some line then { m with dead := true } else m }

/-- Commands of the mailboxes and of the migration engines that wait for the line (02 R52). -/
def State.failCommands (s : State) (line : Nat) : State :=
  { s with
    x := { s.x with
      pcmd := s.x.pcmd.loses line, img := s.x.img.loses line, att := s.x.att.loses line, code := s.x.code.loses line }
    dies := tmap s.dies fun _ d => d.loses line }

/-- A snoop without an answer for 200,000 ticks: the item fails, BIFAIL is set, the link is FAILED, the tracker is
discarded and coherence with the host is off. -/
def execBisnpTimeout (line : Nat) (s : State) : Out :=
  if (s.link.snoops.any fun x => x.line == line && decide (x.sent + 200000 ≤ s.now)) then
    let s := { s with link := { s.link with st := 4, bifail := true, tracker := [], snoops := [], incoherent := true } }
    let s := ((s.failLines line (s.agents.map (·.1))).failSnooped line (s.copies.map (·.1))).killOwns fun o => o.st.forLine line
    let s := ((s.failHeldIn line).failCommands line).send (.pfMsix 1)
    .next ((s.takeHeldIn OpSt.isSnoop).retry OpSt.isSnoop)
  else .next s

/-! Sideband (02 R42, R43, R47). -/

/-- A flit fails its eighth replay: the link is DOWN. -/
def execOlkLinkDown (s : State) : Out :=
  if s.linkUp then .next ({ s with link := { s.link with st := 0 } }.send (.pfMsix 1)) else .next s

/-- A management command is answered; what the response carries is a free value (log 15). -/
def execManagementCommandFlit (_ : Nat) (s : State) : Out :=
  if s.linkUp then
    let (f, s) := s.fresh
    .next (s.send (.sideband 1 f))
  else .next s

/-- A link health flit from the adapter, or one the part sends: lane margins, and the flits replayed since the last such
flit (log 15). -/
def execLinkHealthFlit (f : HealthFlit) (s : State) : Out :=
  let link := { s.link with replays := min (s.link.replays + f.replays) (2 ^ 24 - 1), margins := f.margins }
  let s := { s with link }
  .next (if f.out && s.linkUp then s.send (.sideband 3 (s.link.replays + 2 ^ 24 * f.margins)) else s)

/-- A flit of a reserved class is discarded and counted. -/
def execReservedSidebandFlit (cls : Nat) (s : State) : Out :=
  if 4 ≤ cls ∧ cls < 16 then .next { s with link := { s.link with badsb := min (s.link.badsb + 1) 0xFFFF } } else .next s

/-! Scale-up ports (02 R53 to R56). -/

/-- A port's state and number put into its register. -/
def State.setPort (s : State) (p st dev : Nat) : State :=
  let x := (s.link.ports.getD p 0).toNat
  { s with link := { s.link with ports := s.link.ports.set p (BitVec.ofNat 64 (setBits (setBits x 0 2 st) 2 8 dev)) } }

/-- Flits replayed counted at a port (02 R54). -/
def State.addReplays (s : State) (p n : Nat) : State :=
  let x := (s.link.ports.getD p 0).toNat
  { s with link := { s.link with
    ports := s.link.ports.set p (BitVec.ofNat 64 (setBits x 10 22 (min (bits x 10 22 + n) (2 ^ 22 - 1)))) } }

/-- A request waits for a peer. -/
def Copy.asked (c : Copy) : Bool := c.asking.isSome && c.wait.any OpSt.isRemote

/-- The requests now out to peers, with the peers asked (02 R55). -/
def State.farOut (s : State) : List OpSt :=
  (s.agents.flatMap fun (_, a) => a.pend.ops.map (·.st) ++ a.pend.own.map (·.st)) ++ (s.copies.filterMap fun e => e.2.wait)
    ++ (s.grids.flatMap fun (_, g) => g.own.map (·.st)) ++ s.vds.flatMap fun (_, v) => v.streams.flatMap fun (_, x) => x.own.map (·.st)

/-- A request is carried by a port. -/
def OpSt.onPort (p : Nat) : OpSt → Bool
  | .remote _ q => q == p
  | .ready _ | .parked _ _ | .walker _ _ | .snoop _ | .regul _ _ | .held => false

/-- A request that one port held is carried by another. -/
def OpSt.rerouted (p q : Nat) : OpSt → OpSt
  | .remote d r => .remote d (if r = p then q else r)
  | st => st

/-- The requests a port held are replayed on another, and counted there (02 R54, R56). -/
def State.reroute (s : State) (p q : Nat) : State :=
  let n := s.farOut.countP (OpSt.onPort p)
  let own (l : List Own) : List Own := l.map fun o => { o with st := o.st.rerouted p q }
  let s := { s with
    agents := tmap s.agents fun _ (a : Agent) =>
      { a with pend := { a.pend with
        ops := a.pend.ops.map fun (o : Op) => { o with st := o.st.rerouted p q }, own := own a.pend.own } }
    copies := tmap s.copies fun _ (c : Copy) => { c with wait := c.wait.map (OpSt.rerouted p q) }
    grids := tmap s.grids fun _ (g : Grid) => { g with own := own g.own }
    vds := tmap s.vds fun _ (v : Vd) => { v with streams := tmap v.streams fun _ (x : Stream) => { x with own := own x.own } } }
  s.addReplays q n

/-- Requests of an agent to peers that satisfy a test fail with cause 0x16. -/
def State.failFar (s : State) (p : OpSt → List Nat → Bool) (i : Nat) : State :=
  match tget s.agents i with
  | none => s
  | some a =>
    let os := a.pend.ops.filter fun o => p o.st (partDevs o.left.far)
    if os.isEmpty then s else (os.foldl (fun s o => (s.countLost o.st).failOp i o 0x16 o.va) s).afterReturn i

def State.failFars (s : State) (p : OpSt → List Nat → Bool) : List Nat → State
  | [] => s
  | i :: is => (s.failFar p i).failFars p is

/-- Units of copy requests that wait for peers fail. -/
def State.failAsked (s : State) (p : OpSt → List Nat → Bool) : List Nat → State
  | [] => s
  | id :: ids =>
    match tget s.copies id with
    | some c =>
      (match c.asking, c.wait with
       | some u, some st => if p st (partDevs c.askLeft.far) then (s.countLost st).unitTimeout id u c else s
       | _, _ => s).failAsked p ids
    | none => s.failAsked p ids

/-- Requests to peers that can no longer be reached fail at once, each counted at the port that carried it last (02 R56). -/
def State.failPeers (s : State) (p : OpSt → List Nat → Bool) : State :=
  let dead (o : Own) : Bool := o.dead.isNone && o.data.isNone && p o.st (partDevs o.far)
  let owns := (s.agents.flatMap fun (_, a) => a.pend.own) ++ (s.grids.flatMap fun (_, g) => g.own)
    ++ s.vds.flatMap fun (_, v) => v.streams.flatMap fun (_, x) => x.own
  let s := ((owns.filter dead).foldl (fun s o => s.countLost o.st) s).killOwns dead
  ((s.failFars p (s.agents.map (·.1))).failAsked p (s.copies.map (·.1))).retrySpans

/-- A port leaves striping, or stays out of it, in a state: the requests it held are replayed on the others, which take them
in turn by its number (log 29); with none left every request to a peer fails (02 R56). -/
def State.portOut (s : State) (port st : Nat) : State :=
  let dev := bits (s.link.ports.getD port 0).toNat 2 8
  let up := !s.trained.isEmpty
  let s := s.setPort port st dev
  match s.trained with
  | [] => if up then s.failPeers fun st _ => st.toPeer else s
  | q :: qs => s.reroute port ((q :: qs).getD (port % (qs.length + 1)) q)

/-- Trained ports whose number is not that of port 0 are untrained again (02 R53). -/
def State.alignPorts (s : State) (dev : Nat) : List Nat → State
  | [] => s
  | p :: ps =>
    let x := (s.link.ports.getD p 0).toNat
    (if bits x 0 2 = 2 ∧ bits x 2 8 ≠ dev then (s.portOut p 0).send (.pfMsix 1) else s).alignPorts dev ps

/-- The peer of a request, or another it asks with it, is not in the domain. -/
def State.peerGone (s : State) (st : OpSt) (far : List Nat) : Bool :=
  match st with
  | .remote d _ => (d :: far).any fun d => !s.link.peers.contains d
  | .ready _ | .parked _ _ | .walker _ _ | .snoop _ | .regul _ _ | .held => false

/-- A port is trained with the number the switch assigns; another number than port 0's leaves it untrained, also where
port 0 is trained later. The switch tells which devices are present; flits the port has replayed since it was last heard of
are counted (log 29). -/
def execPortTrained (port dev : Nat) (s : State) : Out :=
  if 36 ≤ port ∨ 256 ≤ dev then .next s
  else if port ≠ 0 ∧ s.link.number.any (· != dev) then
    .next (if s.trained.contains port then (s.portOut port 0).send (.pfMsix 1) else s)
  else
    let (f, s) := s.fresh
    let (r, s) := s.fresh
    let s := { s with link := { s.link with
      peers := (upFrom 0 256).filter fun d => bitAt f d
      number := if port = 0 then some dev else s.link.number } }
    let s := ((s.setPort port 2 dev).addReplays port r).send (.pfMsix 1)
    let s := if port = 0 then s.alignPorts dev (upFrom 1 35) else s
    .next (s.failPeers fun st far => s.peerGone st far)

/-- A port changes state: DOWN, TRAINING or FAILED. Flits it has replayed since it was last heard of are counted (log 29). -/
def execPortStateChange (port st : Nat) (s : State) : Out :=
  if 36 ≤ port ∨ (st ≠ 0 ∧ st ≠ 1 ∧ st ≠ 3) then .next s
  else
    let (r, s) := s.fresh
    .next (((s.addReplays port r).portOut port st).send (.pfMsix 1))

/-! Accesses of peers (02 R55, R57, 03 R65). -/

/-- The address and bytes of a peer's access, and whether it writes. -/
def peerRange : PeerAcc → Nat × Nat × Bool
  | .load pa n => (pa, n, false)
  | .store pa d _ => (pa, d.length, true)
  | .bits pa n _ _ _ _ => (pa, n, true)
  | .rmw f pa _ _ _ => (pa, f.width / 8, true)
  | .ctadd pa _ _ => (pa, 8, true)

/-- A peer's access performed by the receiving port: the bytes that go back. -/
def State.performPeer (s : State) : PeerAcc → List Byte × State
  | .load pa n => (s.getBytes (.mem pa) n, s)
  | .store pa d _ => ([], s.write (.mem pa) d)
  | .bits pa n lo w code _ => ([], s.write (.mem pa) (putBits (s.getBytes (.mem pa) n) lo w code))
  | .rmw f pa v cmp _ =>
    let n := f.width / 8
    let old := s.getNat (.mem pa) n
    (bytesOf old n,
      match atomNew f old v cmp with
      | some x => s.write (.mem pa) (bytesOf x n)
      | none => s)
  | .ctadd pa v _ => ([], s.write (.mem pa) (bytesOf (satAdd (s.getNat (.mem pa) 8) v) 8))

/-- An access of a peer waits at its home: for a line the host holds, or in a regulator of the device it is made for
(02 R48, 03 R65, R76). -/
def State.holdIn (s : State) (st : OpSt) (vd : Nat) (acc : Instr) : State :=
  { s with link := { s.link with heldIn := s.link.heldIn ++ [⟨st, vd, acc⟩] } }

/-- A peer that has sent something is present (log 29). -/
def State.heardFrom (s : State) (dev : Nat) : State :=
  if dev ∈ s.link.peers then s else { s with link := { s.link with peers := dev :: s.link.peers } }

/-- An access of a peer arrives: it is checked for the device of its number here and performed by the receiving port, a
release after the earlier ones of its agent, which have been acknowledged by then (02 R55). -/
def execRemoteAccessArrival (dev vd : Nat) (acc : PeerAcc) (s : State) : Out :=
  let (pa, n, wr) := peerRange acc
  if !s.pkg.ready ∨ n = 0 then .next s
  else
    let s := s.heardFrom dev
    match s.physFail vd pa n with
    | some c => .next (s.send (.peerReply dev false c []))
    | none =>
      match s.atHome vd wr [(.mem pa, n)] with
      | (some st, s) => .next (s.holdIn st vd (.remoteAccessArrival dev vd acc))
      | (none, s) =>
        let (bs, s) := s.performPeer acc
        .next (s.send (.peerReply dev true 0 bs))

/-- A sparse-reduce pair arrives for the element at an address: one atomic update of it. An index out of range is
discarded. The reply tells that the pair has been applied or discarded, or the cause with which it failed (02 R60, log 60). -/
def execSparseReducePairArrival (src : PairFrom) (pa n : Nat) (op : SparseOp) (idx : Nat) (val : Word) (s : State) : Out :=
  if !s.pkg.ready then .next s
  else
    let s := s.heardFrom src.dev
    if n ≤ idx then .next (s.send (.peerReply src.dev true 0 []))
    else
      match s.physFail src.vd pa 4 with
      | some c => .next (s.send (.peerReply src.dev false c []))
      | none =>
        match s.atHome src.vd true [(.mem pa, 4)] with
        | (some st, s) => .next (s.holdIn st src.vd (.sparseReducePairArrival src pa n op idx val))
        | (none, s) =>
          .next ((s.write (.mem pa) (bytesOf (sparseApply op (s.getNat (.mem pa) 4) val.toNat) 4)).send
            (.peerReply src.dev true 0 []))

end Sys2Proof.Machine
end

