-- ==== Sys2Proof/Machine/Registers.lean ====
section
/-!
DEFINITION. Device registers: the X-die register block and its access codes (00 R4, R5, 01 R34, 02 R47, R54, 03 R64, R66,
R87, 04 R97, R99, R107, 05 R118, R119, 06 R154, 07 R180, 08 R219, 09 R232), the kick pages (03 R79, R80), shoot-downs
(08 R219), the debug read (08 R201), and the windows of the host (02 R45).
-/
namespace Sys2Proof.Machine

/-! Reading the X-die block. -/

/-- An owner-table byte by its place in the table. -/
def State.ownerByte (s : State) (k : Nat) : Nat := s.ownerOf k

/-- Eight bytes of image table entry `n` from offset `o`. -/
def State.imageWord (s : State) (n o : Nat) : Nat :=
  let i := s.image n
  let head := i.st + i.cls * 4 + i.fmt.kind * 2 ^ 6 + i.fmt.w * 2 ^ 8 + i.binds * 2 ^ 16 + i.leaf * 2 ^ 32
  let head := if i.st = 0 then 0 else head
  bits (head + (i.ihash % 2 ^ 256) * 2 ^ 64 + (i.keyid % 2 ^ 256) * 2 ^ 320) (8 * o) 64

/-- Status word of a mailbox with a time. -/
def Mbox.status (m : Mbox) : Nat := m.code + b2n m.busyrej * 2 ^ 8 + m.time * 2 ^ 32

/-- Save pages of a context in use: USED (07 R180). -/
def State.used (s : State) (vd ctx : Nat) : Nat := (s.pagesUsed vd ctx).length

/-- The register at an offset below 0x8000. -/
def State.lowReg (s : State) (off : Nat) : Nat :=
  if 0x1000 ≤ off ∧ off < 0x1080 then (s.pkg.steps.getD ((off - 0x1000) / 8) 0).toNat
  else if off = 0x2000 then s.link.st + s.link.replays * 2 ^ 8 + s.link.badsb * 2 ^ 32 + b2n s.link.bifail * 2 ^ 48
  else if off = 0x2008 then s.link.erraddr
  else if 0x2100 ≤ off ∧ off < 0x2100 + 8 * 36 then (s.link.ports.getD ((off - 0x2100) / 8) 0).toNat
  else if off = 0x3000 then s.x.pcmd.w0 % 2 ^ 16
  else if off = 0x3008 then s.x.pcmd.w1
  else if off = 0x3018 then s.x.pcmd.status
  else if 0x4000 ≤ off ∧ off < 0x6800 then
    ((upFrom 0 8).map fun k => s.ownerByte (off - 0x4000 + k) * 2 ^ (8 * k)).sum
  else if off = 0x7000 then s.pkg.pwrCap + s.pwrEff * 2 ^ 16 + b2n s.pkg.pwrUnmet * 2 ^ 32
  else if 0x7100 ≤ off ∧ off < 0x7200 then
    let x := s.shedStep ((off - 0x7100) / 32)
    match off % 32 with
    | 0 => x.thresh + b2n x.en * 2 ^ 16
    | 8 => bits x.act 0 64
    | 16 => bits x.act 64 64
    | _ => 0
  else 0

/-- The register at an offset from 0x8000 to 0xFFFF. -/
def State.midReg (s : State) (off : Nat) : Nat :=
  let x := s.x
  if off = 0x8000 then setBits (setBits 0 0 8 x.img.w0) 16 10 (bits x.img.w0 16 10)
  else if off = 0x8008 then x.img.w1
  else if off = 0x8018 then x.img.status
  else if off = 0x8100 then x.att.w0 % 64
  else if off = 0x8108 then x.att.w1
  else if off = 0x8110 then x.att.w2
  else if off = 0x8120 then x.att.code
  else if off = 0x8200 then setBits (x.code.w0 % 2 ^ 14) 16 8 (bits x.code.w0 16 8)
  else if off = 0x8208 then x.code.w1
  else if off = 0x8210 then x.code.w2
  else if off = 0x8218 then x.code.w3
  else if off = 0x8228 then x.code.code
  else if off = 0x8240 then featureHash
  else if off = 0x8248 then 1
  else if 0x9000 ≤ off ∧ off < 0x9400 then
    let v := s.vd ((off - 0x9000) / 16)
    if off % 16 = 0 then v.slice + v.wdog * 2 ^ 32 else v.forfeit + v.slices * 2 ^ 32
  else if 0xC000 ≤ off ∧ off < 0xC400 then
    let v := s.vd ((off - 0xC000) / 16)
    if off % 16 = 0 then v.s2root * 2 ^ 12 + b2n v.s2en else 0
  else if off = 0xC400 then x.invVd + x.invCtx * 2 ^ 8 + b2n x.invAll * 2 ^ 12
  else if off = 0xC408 then x.invVa * 2 ^ 12
  else if off = 0xC410 then x.invPages
  else if off = 0xC418 then b2n (!x.invRun.isEmpty) * 2
  else 0

/-- Registers of the contexts, from 0x30000 on; the reserved bits of BASE read as zero, whatever was written
(00 R5, 07 R180). -/
def State.ctxReg (s : State) (off : Nat) : Nat :=
  let o := (off - 0x30000) % 0x4000
  let n := o / 0x100
  let k := o / 0x10 % 16
  let c := s.ctx n k
  match (off - 0x30000) / 0x4000, off % 16 with
  | 0, 0 => c.saveBase
  | 0, 8 => c.savePages + s.used n k * 2 ^ 32
  | 1, 0 => c.s1root * 2 ^ 12
  | 2, 0 => b2n c.scopew
  | _, _ => 0

/-- The eight bytes at an offset of the X-die block; what no rule names reads zero (log 14). -/
def State.regRead (s : State) (off : Nat) : Nat :=
  if off % 8 ≠ 0 then 0
  else if off < 0x8000 then s.lowReg off
  else if off < 0x10000 then s.midReg off
  else if off < 0x30000 then s.imageWord ((off - 0x10000) / 0x80) (off % 0x80)
  else if off < 0x3C000 then s.ctxReg off
  else 0

/-! Writing the X-die block. -/

/-- The bits of `v` under a mask put over `old`. -/
def overlay (old v mask : Nat) : Nat := (old &&& (2 ^ 64 - 1 - mask % 2 ^ 64)) ||| (v &&& mask)

/-- Writes of partition, link and power registers. -/
def State.lowWrite (s : State) (off v mask : Nat) : Out :=
  let w := v &&& mask
  if off = 0x2000 then
    .next { s with link := { s.link with
      badsb := if bitAt w 32 then 0 else s.link.badsb, bifail := s.link.bifail && !bitAt w 48 } }
  else if 0x2100 ≤ off ∧ off < 0x2100 + 8 * 36 then
    let p := (off - 0x2100) / 8
    if bitAt w 32 then
      .next { s with link := { s.link with
        ports := s.link.ports.set p (BitVec.ofNat 64 (setBits (s.link.ports.getD p 0).toNat 32 16 0)) } }
    else .next s
  else if off = 0x3000 then .next (s.setPcmd { s.x.pcmd with w0 := overlay s.x.pcmd.w0 v mask })
  else if off = 0x3008 then .next (s.setPcmd { s.x.pcmd with w1 := overlay s.x.pcmd.w1 v mask % 2 ^ 52 })
  else if off = 0x3010 then
    if !bitAt w 0 then .next s
    else if s.x.pcmd.code = 1 then .next (s.setPcmd { s.x.pcmd with busyrej := true })
    else s.writePcmdGo
  else if off = 0x3018 then
    .next (s.setPcmd { s.x.pcmd with busyrej := s.x.pcmd.busyrej && !bitAt w 8 })
  else if off = 0x7000 then
    let t := { s with pkg := { s.pkg with
      pwrCap := overlay s.pkg.pwrCap v mask % 2 ^ 16, pwrUnmet := s.pkg.pwrUnmet && !bitAt w 32 } }
    .next (t.applyCaps s)
  else if 0x7100 ≤ off ∧ off < 0x7200 then
    let i := (off - 0x7100) / 32
    let x := s.shedStep i
    let y : ShedStep :=
      match off % 32 with
      | 0 =>
        let z := overlay (x.thresh + b2n x.en * 2 ^ 16) v mask
        { x with thresh := z % 2 ^ 16, en := bitAt z 16 }
      | 8 => { x with act := setBits x.act 0 64 (overlay (bits x.act 0 64) v mask) }
      | 16 => { x with act := setBits x.act 64 64 (overlay (bits x.act 64 64) v mask) }
      | _ => x
    .next ({ s with pkg := { s.pkg with shed := tset s.pkg.shed i y } }.applyCaps s)
  else .next s

/-- A shoot-down starts (08 R219). -/
def State.startInv (s : State) : State :=
  let x := s.x
  let ctx := if x.invAll ∧ x.invCtx = 15 then none else some x.invCtx
  let pages := if x.invAll then none else some (x.invVa, x.invPages)
  { s with x := { x with invRun := x.invRun ++ [(x.invVd, ctx, pages)] } }

/-- Writes of image, attestation, code, scheduler and translation registers. -/
def State.midWrite (s : State) (off v mask : Nat) : Out :=
  let w := v &&& mask
  let x := s.x
  if off = 0x8000 then .next (s.setImg { x.img with w0 := overlay x.img.w0 v mask })
  else if off = 0x8008 then .next (s.setImg { x.img with w1 := overlay x.img.w1 v mask % 2 ^ 52 })
  else if off = 0x8010 then if bitAt w 0 && x.img.code != 1 then s.writeImgGo else .next s
  else if off = 0x8100 then .next (s.setAtt { x.att with w0 := overlay x.att.w0 v mask })
  else if off = 0x8108 then .next (s.setAtt { x.att with w1 := overlay x.att.w1 v mask % 2 ^ 52 })
  else if off = 0x8110 then .next (s.setAtt { x.att with w2 := overlay x.att.w2 v mask % 2 ^ 52 })
  else if off = 0x8118 then if bitAt w 0 && x.att.code != 1 then execAttestationRequest s else .next s
  else if off = 0x8200 then .next (s.setCode { x.code with w0 := overlay x.code.w0 v mask })
  else if off = 0x8208 then .next (s.setCode { x.code with w1 := overlay x.code.w1 v mask % 2 ^ 52 })
  else if off = 0x8210 then .next (s.setCode { x.code with w2 := overlay x.code.w2 v mask % 2 ^ 52 })
  else if off = 0x8218 then .next (s.setCode { x.code with w3 := overlay x.code.w3 v mask % 2 ^ 57 })
  else if off = 0x8220 then if bitAt w 0 && x.code.code != 1 then s.writeCodeGo else .next s
  else if 0x9000 ≤ off ∧ off < 0x9400 ∧ off % 16 = 0 then
    let n := (off - 0x9000) / 16
    let d := s.vd n
    let z := overlay (d.slice + d.wdog * 2 ^ 32) v mask
    .next (s.setVd n { d with slice := z % 2 ^ 16, wdog := bits z 32 32 })
  else if 0xC000 ≤ off ∧ off < 0xC400 ∧ off % 16 = 0 then
    let n := (off - 0xC000) / 16
    let d := s.vd n
    let z := overlay (d.s2root * 2 ^ 12 + b2n d.s2en) v mask
    .next (s.setVd n { d with s2root := bits z 12 40, s2en := bitAt z 0 })
  else if off = 0xC400 then
    let z := overlay (x.invVd + x.invCtx * 2 ^ 8 + b2n x.invAll * 2 ^ 12) v mask
    .next { s with x := { x with invVd := bits z 0 6, invCtx := bits z 8 4, invAll := bitAt z 12 } }
  else if off = 0xC408 then .next { s with x := { x with invVa := bits (overlay (x.invVa * 2 ^ 12) v mask) 12 45 } }
  else if off = 0xC410 then .next { s with x := { x with invPages := overlay x.invPages v mask % 2 ^ 32 } }
  else if off = 0xC418 then if bitAt w 0 then .next s.startInv else .next s
  else .next s

/-- Writes of the registers of contexts. -/
def State.ctxWrite (s : State) (off v mask : Nat) : Out :=
  let o := (off - 0x30000) % 0x4000
  let n := o / 0x100
  let k := o / 0x10 % 16
  let c := s.ctx n k
  let put (c : Ctx) : Out := .next (s.setCtx n k c)
  match (off - 0x30000) / 0x4000, off % 16 with
  | 0, 0 =>
    let z := overlay (c.saveBase + c.saveRes * 2 ^ 52) v mask
    if s.used n k = 0 then put { c with saveBase := z % 2 ^ 52, saveRes := z / 2 ^ 52 % 2 ^ 12 } else .next s
  | 0, 8 => if s.used n k = 0 then put { c with savePages := overlay c.savePages v mask % 2 ^ 24 } else .next s
  | 1, 0 => put { c with s1root := bits (overlay (c.s1root * 2 ^ 12) v mask) 12 40 }
  | 2, 0 =>
    let z := overlay (b2n c.scopew) v mask
    if z / 2 ≠ 0 then .next s else put { c with scopew := bitAt z 0 }
  | _, _ => .next s

/-- A write of the eight bytes at an offset under a mask of the bytes that are written (log 14). -/
def State.regWrite (s : State) (off v mask : Nat) : Out :=
  if off % 8 ≠ 0 then .next s
  else if off < 0x8000 then s.lowWrite off v mask
  else if off < 0x10000 then s.midWrite off v mask
  else if 0x30000 ≤ off ∧ off < 0x3C000 then s.ctxWrite off v mask
  else .next s

/-- A migration-ring register of an F-die. -/
def State.ringWrite (s : State) (d : Nat) (f : Die → Die) : State :=
  if 8 ≤ d ∧ d < 12 then s.setDie d (f (s.die d)) else s

/-- A device register written. -/
def execRegisterWrite (t : RegTarget) (v : Nat) (s : State) : Out :=
  match t with
  | .xdie off => s.regWrite off v (2 ^ 64 - 1)
  | .ringBase d => .next (s.ringWrite d fun x => { x with ringBase := v % 2 ^ 52 / 64 * 64 })
  | .ringHead d => .next (s.ringWrite d fun x => { x with ringHead := v % 256 })
  | .ringTail d => .next (s.ringWrite d fun x => { x with ringTail := v % 256 })

/-! Shoot-downs (08 R219). -/

/-- INV_GO written with 1. -/
def execInvGo (s : State) : Out := .next s.startInv

/-- A shoot-down names one of `count` pages from a page on. -/
def invNames (r : Nat × Option Nat × Option (Nat × Nat)) (vd ctx page count : Nat) : Bool :=
  r.1 == vd && (match r.2.1 with | some c => c == ctx | none => true)
    && (match r.2.2 with | some (p, n) => decide (p < page + count) && decide (page < p + n) | none => true)

/-- The bytes by which an access is out to a peer: its first one and how many. -/
def State.askedRange (s : State) (acc : Acc) (l : Left) : Nat × Nat :=
  match acc with
  | .load va n _ => (va, n)
  | .store va d _ => (va, d.length)
  | .rmw f va _ _ _ => (va, f.width / 8)
  | .ctadd va _ _ | .ctrd va => (va, 8)
  | .pref va => (va, 128)
  | .elemLd b w | .elemSt b w _ _ => (b / 8, elemBytes b w)
  | .tileLd it _ img _ | .tileSt it _ img _ _ =>
    let f := (s.image img).fmt
    let b := (it.bitAddr f (indexOf (it.ext f) (startAt l (it.start f)))).toNat
    (b / 8, elemBytes b f.unitBits)
  | .tileWin w buf img _ =>
    let f := (s.image img).fmt
    let k := match tget s.bufs buf with | some b => tileK b.cw f | none => 1
    let b := ((w.bitAddr f.w (l.pos / k) (l.pos % k)).getD 0).toNat
    (b / 8, elemBytes b f.w)

/-- A shoot-down under way names a page of a range. -/
def State.invHits (s : State) (vd ctx va n : Nat) : Bool :=
  s.x.invRun.any fun r => invNames r vd ctx (va / 4096) ((va + n - 1) / 4096 + 1 - va / 4096)

/-- An access that was translated and has not performed is out to a peer: of an agent, a copy request, a launch or a
stream. -/
def State.invWaits (s : State) : Bool :=
  let own (vd ctx : Nat) (o : Own) : Bool := o.st.isRemote && s.invHits vd ctx o.va o.n
  s.agents.any (fun (_, a) =>
      (a.pend.ops.any fun o => o.st.isRemote && o.acc.any fun acc =>
          let (va, n) := s.askedRange acc o.left
          s.invHits a.id.vd a.id.ctx va n)
        || a.pend.own.any (own a.id.vd a.id.ctx))
    || s.copies.any (fun (_, c) => c.asked && s.invHits c.vd c.ctx c.askVa (max 8 (c.askLeft.far.map fun p => p.2.2).sum))
    || s.grids.any (fun (_, g) => g.own.any (own g.vd g.fctx))
    || s.vds.any fun (v, x) => x.streams.any fun (k, y) => y.own.any (own v (bits x.desc.sctx (4 * k) 4))

/-- Every walker and cache has dropped the named translations, and INV_BUSY falls. -/
def execShootdownComplete (s : State) : Out :=
  if s.x.invRun.isEmpty ∨ s.invWaits then .next s
  else
    let run := s.x.invRun
    .next { s with
      x := { s.x with invRun := [] }
      tlb := s.tlb.filter fun e => !(run.any fun r => invNames r e.vd e.ctx e.page (2 ^ (e.lg - 12))) }

/-! Kick pages (03 R79, R80). -/

/-- A stream's status word. -/
def Stream.word (x : Stream) : Nat :=
  x.fifo.length + x.last * 2 ^ 8 + x.accepted * 2 ^ 16 + x.rejected * 2 ^ 32 + x.badrec * 2 ^ 48

/-- The eight bytes at an offset of a kick page. A lent cob under revocation is still lent, and no longer in its borrower's
use (03 R79, log 61). -/
def State.kickRead (s : State) (vd off : Nat) : Nat :=
  let v := s.vd vd
  if 0x200 ≤ off ∧ off < 0x400 then (v.stream ((off - 0x200) / 8)).word
  else if off = 0x400 then v.pending
  else if off = 0x408 then v.badwr
  else if off = 0x410 then v.intcause
  else if off = 0x418 then v.inten
  else if off = 0x800 then v.st.code + v.shed * 2 ^ 4
  else if off = 0x808 then
    let lent := (upFrom 0 288).countP fun c => bitAt v.desc.mset c && (s.cob c).lend != .own
    let borrow := s.lentCobs.countP fun e => e.2 == vd
    popCount v.desc.gset 288 + popCount v.desc.mset 288 * 2 ^ 16 + lent * 2 ^ 32 + borrow * 2 ^ 48
  else if off = 0x810 then
    let gs := s.granulesOf vd
    (gs.countP fun g => decide (g < 1024)) + (gs.countP fun g => decide (1024 ≤ g)) * 2 ^ 16
  else if off = 0x818 then v.heldw
  else 0

/-- A kick rejected (03 R80). -/
def State.rejectKick (s : State) (vd n why : Nat) : State :=
  let x := (s.vd vd).stream n
  (s.setStream vd n { x with last := why, rejected := min (x.rejected + 1) 0xFFFF }).setCause vd 0

/-- A kick decided on arrival. -/
def State.kick (s : State) (vd n value : Nat) : State :=
  let v := s.vd vd
  let x := v.stream n
  if !bitAt v.desc.streams n then s.rejectKick vd n 5
  else if bits value 57 7 ≠ 0 ∨ value % 64 ≠ 0 then s.rejectKick vd n 4
  else if 32 ≤ x.fifo.length then s.rejectKick vd n 3
  else
    let asleep := v.st != .active
    let va := BitVec.ofNat 64 value
    let s := s.setStream vd n { x with
      fifo := x.fifo ++ [va], last := if asleep then 2 else 1, accepted := (x.accepted + 1) % 2 ^ 16
      toPut := if asleep then x.toPut ++ [x.fifo.length] else x.toPut }
    if asleep then (s.setVd vd { s.vd vd with pending := setBit (s.vd vd).pending n }).putFifo vd n 32 else s

/-- A write of `size` bytes to a kick page: one that is not of 8 aligned bytes is discarded and counted, a wider one too
(03 R80, log 61). -/
def State.kickWrite (s : State) (vd off size value : Nat) : State :=
  let v := s.vd vd
  if v.st = .absent ∨ v.st = .destroying then s
  else if size ≠ 8 ∨ off % 8 ≠ 0 then s.setVd vd { v with badwr := min (v.badwr + 1) 0xFFFF }
  else if off < 0x200 then s.kick vd (off / 8) value
  else if off = 0x408 then s.setVd vd { v with badwr := if bitAt value 0 then 0 else v.badwr }
  else if off = 0x410 then s.setVd vd { v with intcause := v.intcause &&& (255 - value % 256) }
  else if off = 0x418 then s.setVd vd { v with inten := value % 256 }
  else s

/-- A write to a kick page arrives at the X-die; while the part is stopped it is rejected (01 R38). -/
def execKick (vd off size value : Nat) (s : State) : Out :=
  if s.hostIn && decide (vd < 64) && decide (off < 4096) then .next (s.kickWrite vd off size value) else .next s

/-! The windows of the host (02 R45). -/

/-- `n` bytes from a window of registers whose words a function reads. -/
def regBytes (f : Nat → Nat) (off n : Nat) : List Byte :=
  (upFrom off n).map fun o => BitVec.ofNat 8 (f (o / 8 * 8) / 2 ^ (8 * (o % 8)))

/-- The MSI-X message control word of a function: 8 vectors, and MSI-X Enable in bit 15 (log 59). -/
def State.msixWord (s : State) (vd : Nat) : Nat := 7 + b2n (!(s.vd vd).msixOff) * 2 ^ 15

/-- A host read through a window. -/
def execHostRead (win : HostWin) (off n : Nat) (hold : Hold) (s : State) : Out :=
  if !s.hostIn then .next s
  else
    match win with
    | .hdm => .next (s.hdmRead off n hold)
    | .pfBar0 => .next (s.send (.hostData off (regBytes (fun o => s.regRead o) off n)))
    | .pfBar2 => .next (s.send (.hostData off (regBytes (fun o => s.kickRead (o / 4096) (o % 4096)) off n)))
    | .vfBar0 vd => .next (s.send (.hostData off (regBytes (fun o => s.kickRead vd (o % 4096)) off n)))
    | .vfMsix vd => .next (s.send (.hostData off (regBytes (fun o => if o = 0 then s.msixWord vd else 0) off n)))

/-- A host write through a window. A write to the register block acts on the bytes of one aligned word (log 14). -/
def execHostWrite (win : HostWin) (off : Nat) (data : List Byte) (s : State) : Out :=
  if !s.hostIn then .next s
  else
    match win with
    | .hdm => .next (s.hdmWrite off data)
    | .pfBar0 =>
      let k := off % 8
      let n := min data.length (8 - k)
      s.regWrite (off / 8 * 8) (ofBytes (data.take n) * 2 ^ (8 * k)) ((2 ^ (8 * n) - 1) * 2 ^ (8 * k))
    | .pfBar2 => .next (if off < 0x40000 then s.kickWrite (off / 4096) (off % 4096) data.length (ofBytes data) else s)
    | .vfBar0 vd => .next (if vd < 64 ∧ off < 4096 then s.kickWrite vd off data.length (ofBytes data) else s)
    | .vfMsix vd =>
      .next (if vd < 64 ∧ off ≤ 1 ∧ 1 < off + data.length then
        s.setVd vd { s.vd vd with msixOff := !bitAt (ofBytes data * 2 ^ (8 * off)) 15 } else s)

/-! The debug read (08 R201). -/

/-- The frame of an agent that holds register `reg` of its lane: its position from the top and the index in it. -/
def heldReg (fs : List Frame) (reg : Nat) : Option (Nat × Nat × Word) :=
  ((upFrom 0 fs.length).zip fs).findSome? fun (pos, f) =>
    match f.gran.findIdx? fun g => g == reg / 16 with
    | some k =>
      let i := 16 * k + reg % 16
      if i < f.dem then some (pos, i, f.regs.getD i 0) else none
    | none => none

/-- The management controller reads register `reg` of a lane. -/
def execDebugRegisterRead (core pip lane reg : Nat) (s : State) : Out :=
  let found := s.agents.findSome? fun (_, a) =>
    if !a.id.seq && !a.pos.out && a.pos.core == core && a.pos.pip == pip && a.pos.lane == lane then
      (heldReg a.arch.frames reg).map fun r => (a.pos.slot, r)
    else none
  match found with
  | some (slot, pos, i, v) => .next (s.send (.debugReg true v slot pos i))
  | none => .next (s.send (.debugReg false 0 0 0 0))

end Sys2Proof.Machine
end

