-- ==== Sys2Proof/Machine/Boot.lean ====
section
/-!
DEFINITION. Boot with its step records (01 R32 to R37), the checkpoint to the safe tier and its restore (01 R38 to R41,
04 R109).
-/
namespace Sys2Proof.Machine

/-! Step records (01 R34). -/

/-- A step record; `st` 0 NOT_RUN, 1 RUNNING, 2 DONE, 3 FAILED, 4 DEGRADED, 5 FATAL. -/
structure StepRec where
  step : Nat := 0
  st : Nat := 0
  alt : Bool := false
  tries : Nat := 0
  result : Nat := 0
  time : Nat := 0
  deriving DecidableEq, Repr

def stepRecOf (w : DWord) : StepRec :=
  let x := w.toNat
  { step := bits x 0 8, st := bits x 8 4, alt := bitAt x 12, tries := bits x 13 3, result := bits x 16 16, time := bits x 32 32 }

def StepRec.word (r : StepRec) : DWord :=
  BitVec.ofNat 64 (r.step + r.st * 2 ^ 8 + b2n r.alt * 2 ^ 12 + r.tries * 2 ^ 13 + r.result % 2 ^ 16 * 2 ^ 16 + r.time * 2 ^ 32)

/-- The record of step `k` is record `k - 1` (log 30). -/
def State.stepRec (s : State) (k : Nat) : StepRec := stepRecOf (s.pkg.steps.getD (k - 1) 0)

def State.putRec (s : State) (k : Nat) (r : StepRec) : State :=
  { s with pkg := { s.pkg with steps := s.pkg.steps.set (k - 1) r.word } }

def State.putTried (s : State) (k u : Nat) : State :=
  { s with pkg := { s.pkg with tried := s.pkg.tried.set (k - 1) u } }

/-! What a boot does with each step (01 R35). -/

/-- How a step is run. -/
inductive StepMode where
  | skip | primary | alternate | failed | halt
  deriving DecidableEq, Repr

def StepRec.mode (r : StepRec) : StepMode :=
  match r.st with
  | 1 => if !r.alt || decide (r.tries < 7) then .alternate else .failed
  | 2 | 4 => .skip
  | 3 => if r.alt then .failed else .alternate
  | 5 => .halt
  | _ => .primary

/-- Step `k` depends on the result of step `j` (01 R35, log 30). -/
def dependsOn (k j : Nat) : Bool :=
  decide (j < k) && (k == 7 || k == 8 || k == 10 || ((j == 1 || j == 3) && (k == 3 || k == 4 || k == 5 || k == 6)))

/-- Units a step can fail: dies with the X-die, N-dies, expanders, cobs; one for the others. -/
def unitMask (k : Nat) : Nat :=
  match k with
  | 1 | 3 => 2 ^ 13 - 1
  | 4 => 2 ^ 8 - 1
  | 5 => 2 ^ 24 - 1
  | 6 => 2 ^ 288 - 1
  | _ => 1

/-- Whether a step has an alternate method (01 R32). -/
def hasAlternate (k : Nat) : Bool := !(k == 7 || k == 10)

/-- The two cobs of each die with the lowest indices among some: at least 22 of a die's 24 are enabled, so a self-test
fails no more (01 R10, log 30). -/
def harvestable (x : Nat) : Nat :=
  ((upFrom 0 12).map fun d =>
    (((setBitsFrom (bits x (24 * d) 24) 0 24).take 2).map fun c => 2 ^ (24 * d + c)).sum).sum

/-- The units of step `k` in which its primary and its alternate method fail, by a plan. -/
def planUnits (p : BootPlan) (k : Nat) : Nat × Nat :=
  let unit (x : Nat) : Nat :=
    if unitMask k = 1 then min x 1 else if k = 6 then harvestable (x &&& unitMask k) else x &&& unitMask k
  (unit (p.prim.getD (k - 1) 0), unit (p.alt.getD (k - 1) 0))

/-- What fails in step `k`, and whether its alternate method ran; `u` are the units that its alternate method is run for, or
that count as failed, by what an earlier boot has left. -/
def planFails (p : BootPlan) (k : Nat) (m : StepMode) (u : Nat) : Nat × Bool :=
  let (a, b) := planUnits p k
  match m with
  | .alternate => (b &&& u, true)
  | .failed => (if unitMask k = 1 then 1 else if k = 6 then harvestable u else u, true)
  | _ => if a = 0 then (0, false) else if hasAlternate k then (a &&& b, true) else (a, false)

/-- The units that step `k` has brought up by its alternate method. -/
def planSlow (p : BootPlan) (k : Nat) (m : StepMode) (u : Nat) : Nat :=
  let (a, b) := planUnits p k
  match m with
  | .alternate => u - (b &&& u)
  | .failed => 0
  | _ => a - (a &&& b)

/-- The record a step leaves when another reset comes in the middle of it: RUNNING or FAILED by the method the plan names,
where that has been started or has failed (01 R34, R35). -/
def planCut (p : BootPlan) (k : Nat) (m : StepMode) (ranAlt : Bool) (u : Nat) (r : StepRec) : StepRec :=
  let (a, b) := planUnits p k
  let alt := m == StepMode.alternate || (ranAlt && p.cutAlt)
  let bad := if m = .alternate then b &&& u else if alt then a &&& b else a
  { r with
    alt
    st := if p.cutFailed && bad != 0 then 3 else 1
    result := if unitMask k = 1 then 0 else if p.cutFailed then bad else if alt && m != StepMode.alternate then a else r.result }

/-- The units that the record of a step cut short leaves to the next boot (01 R35): those its alternate method is to be run
for, all where its primary one did not come to an end; those that have failed both. -/
def planLeft (p : BootPlan) (k : Nat) (m : StepMode) (u : Nat) (r : StepRec) : Nat :=
  let (a, b) := planUnits p k
  let of := if m = .alternate then u else a
  if r.st = 3 then (if r.alt then b &&& of else a) else if r.alt then of else unitMask k

/-- A failure of step `k` in units `f` halts the boot (01 R32, R33). -/
def halts (k f : Nat) : Bool :=
  match k with
  | 1 | 3 => bitAt f 12
  | 4 | 5 | 6 => false
  | _ => f != 0

/-- Dies excluded by the records of steps 1, 3 and 4. -/
def State.excluded (s : State) : Nat :=
  ((s.stepRec 1).result ||| (s.stepRec 3).result ||| ((s.stepRec 4).result &&& 0xFF)) % 2 ^ 12

/-- The package configuration a checkpoint is taken under (01 R38, R41). -/
def State.config (s : State) : Nat × Nat × Nat := (s.pkg.exDies, s.pkg.exExp, s.pkg.harvest)

/-! The reserve (01 R38, 04 R109). -/

/-- Byte offsets in the reserve of the context, the cache and the near region, with their sizes: the header comes before
them, in the first GiB, the image store after them. The spec names the regions and not their places (log 31). -/
def ckptRegions : List (Nat × Nat) := [(2 ^ 30, 16 * 2 ^ 30), (17 * 2 ^ 30, 16 * 2 ^ 30), (33 * 2 ^ 30, 2 ^ 40)]

/-- Where the near region starts. -/
def nearRegion : Nat := 33 * 2 ^ 30

/-- Bytes put into the range of `n` from byte `off` of the reserve, whose old contents go. What a lost die homes is out of
reach, so it stays as it is (01 R25). -/
def State.putReserve (s : State) (off n : Nat) (l : List Host.Cell) : State :=
  let there (pa : Nat) : Bool := match s.homeDie pa with | some d => !(s.die d).lost | none => false
  let old (c : Host.Cell) : Bool :=
    s.inReserve c.1 && there c.1 && decide (off ≤ s.reserveOff c.1) && decide (s.reserveOff c.1 < off + n)
  let rest := s.mem.filter fun c => !old c
  { s with mem := (l.filter fun c => there (s.reserveAt c.1)).foldl (fun m c => memIns m (s.reserveAt c.1) c.2) rest }

/-- A range of the reserve written in a form that is the part's own: its bytes are a free value (log 31). -/
def State.fillReserve (s : State) (off n : Nat) : State :=
  let (f, s) := s.fresh
  s.putReserve off n (fillCells off n f)

/-- The header written: to be invalid, or valid (01 R38 steps 2 and 8). -/
def State.writeHeader (s : State) : State := s.fillReserve 0 (2 ^ 30)

/-- The context region and the cache region written (01 R38 steps 3 and 6). -/
def State.fillRegion (s : State) (k : Nat) : State := let r := ckptRegions.getD k (0, 0); s.fillReserve r.1 r.2

/-- The whole near tier written to the near region; what a lost die homes cannot be read (01 R25, R38 step 7). -/
def State.writeNear (s : State) : State :=
  let near := s.mem.filter fun c => decide (c.1 < 0x010000000000)
    && (match s.homeDie c.1 with | some d => !(s.die d).lost | none => false)
  s.putReserve nearRegion (2 ^ 40) (near.map fun c => (nearRegion + c.1, c.2))

/-- The near tier reloaded from the near region (01 R41). -/
def State.readNear (s : State) : State :=
  let far := s.mem.filter fun c => decide (0x010000000000 ≤ c.1)
  { s with mem := far.foldl (fun m c =>
      let o := s.reserveOff c.1
      if s.inReserve c.1 ∧ nearRegion ≤ o ∧ o < nearRegion + 2 ^ 40 then memIns m (o - nearRegion) c.2 else m) far }

/-- Hardware zeroing of memory outside the reserve and of the caches (01 R32 step 8, R37). -/
def State.zeroTiers (s : State) : State := { s with mem := s.mem.filter fun c => s.inReserve c.1, sideCache := [] }

/-- What the image store holds of an image still has its hashes (04 R109). -/
def State.imageIntact (s : State) (n : Nat) (i : Image) : Bool :=
  let c := s.contAt (s.imageStore n)
  lensOk c.dlen c.blen && i.ihash == shakeNat c.head && fld (ofBytes (c.head.drop 0x80)) 0x10 0 256 == shakeNat c.bitstream

/-- A slot after images have gone: UNBOUND where its image has; a bind that waits for one is forgotten (04 R109). -/
def SlotB.dropImages (gone : List Nat) (b : SlotB) : SlotB :=
  if b.st = 0 ∨ gone.contains b.img then {} else { b with more := b.more.filter fun k => !gone.contains k.1 }

/-- The bindings that end when images have gone, of images that are still there. -/
def SlotB.lost (gone : List Nat) (b : SlotB) : List Nat :=
  if gone.contains b.img then b.bound.filter fun m => !gone.contains m else []

def State.freeImages (s : State) : List Nat → State
  | [] => s
  | m :: ms => (s.freeImage m).freeImages ms

/-- Images that no longer match their hashes are FREE, and the slots bound to them UNBOUND (04 R109). -/
def State.checkImages (s : State) : State :=
  let gone := (s.x.images.filter fun (n, i) => decide (12 ≤ n) && decide (n < 1024) && i.st == 1 && !s.imageIntact n i).map (·.1)
  let lost := s.vds.flatMap fun (_, v) => v.ctxs.flatMap fun (_, c) => c.slots.flatMap fun (_, b) => b.lost gone
  let s := { s with vds := tmap s.vds fun _ v => { v with ctxs := tmap v.ctxs fun _ c =>
    { c with slots := tmap c.slots fun _ b => b.dropImages gone } } }
  (s.freeImages gone).unbindImages lost

/-- The state a checkpoint recorded, put back: contexts return as pre-empted ones; a device that was being destroyed is
gone, and a granule that was being zeroed is zeroed (01 R41, 03 R64, 04 R109, log 31). The valid marker is cleared. -/
def State.restoreFrom (s : State) (c : Ckpt) : State :=
  let s := s.readNear.writeHeader
  let s := s.zeroGranules (tkeys c.owner fun o => o == 0xFD)
  { s with
    now := max s.now c.time
    run := { s.run with pulse := max s.now c.time }
    sideCache := c.cache
    x := { s.x with images := c.images, owner := c.owner.map fun (g, o) => (g, if o = 0xFD then 0xFF else o) }
    vds := c.vds.filter fun e => e.2.st != VdSt.destroying
    grids := c.grids
    teams := c.teams
    pods := c.pods
    agents := c.agents
    bufs := c.bufs
    copies := c.copies
    cobs := (upFrom 0 288).map fun k => (k, { idleSince := max s.now c.time })
    pkg := { s.pkg with ckpt := { c with valid := false } } }.checkImages

/-- Step 8: restore where the header is valid and matches, else zeroing; the result code. After a mismatch the record is
DONE with METHOD 0: the spec gives its RESULT alone (log 31). -/
def State.restoreStep (s : State) (alt : Bool) : Nat × State :=
  let c := s.pkg.ckpt
  if !c.valid || alt then (0, s.zeroTiers)
  else if c.config = s.config then (0, s.restoreFrom c)
  else (0x0C11, s.zeroTiers)

/-- The Othel Link has trained (01 R32 step 9): its state, and the change told (03 R85). -/
def State.linkTrained (s : State) (alt : Bool) : State :=
  let st := if alt then 3 else 2
  if s.link.st = st then s else { s.send (.pfMsix 1) with link := { s.link with st } }

/-- The work of a step whose failures are `f` and do not halt the boot, with `slow` units brought up by the alternate method:
its result and the state. -/
def State.stepWork (s : State) (k f slow : Nat) (alt : Bool) : Nat × State :=
  match k with
  | 3 => (f, { s with pkg := { s.pkg with slowLinks := slow } })
  | 5 => (f, { s with pkg := { s.pkg with exExp := f } })
  | 6 =>
    let (c, t) := s.fresh
    if f = 0 then (0, { s with pkg := { s.pkg with harvest := 0 } })
    else (c, { t with pkg := { t.pkg with harvest := f } })
  | 7 => (f, { s with pkg := { s.pkg with home := s.nDiesOn, routes := s.routeTables } })
  | 8 => s.restoreStep alt
  | 9 => (0, s.linkTrained alt)
  | _ => (f, s)

/-- Step 7 needs an N-die and an F-die with an expander (01 R33). -/
def State.unitsOk (s : State) : Bool := !s.nDiesOn.isEmpty && !s.exps.isEmpty

/-- How a boot, or a step of it, ends. -/
inductive BootEnd where
  | done | halted | cut
  deriving DecidableEq, Repr

/-- A step run: RUNNING, then the record of what came of it (01 R32 to R35). -/
def State.runStep (s : State) (p : BootPlan) (k : Nat) (m : StepMode) : BootEnd × State :=
  let r := s.stepRec k
  let u := s.pkg.tried.getD (k - 1) 0
  let (f, alt) := planFails p k m u
  let s := if k = 7 then { s with pkg := { s.pkg with exDies := s.excluded } } else s
  let f := if k = 7 ∧ !s.unitsOk then 1 else f
  let r : StepRec := { step := k, st := 1, alt, tries := if m = .failed then r.tries else min 7 (r.tries + 1), result := r.result, time := s.now / 1024 % 2 ^ 32 }
  let s := s.putRec k r
  if p.cut = k ∧ m ≠ .failed then
    let c := planCut p k m alt u r
    (.cut, (s.putRec k c).putTried k (planLeft p k m u c))
  else if halts k f then
    let (c, s) := s.fresh
    (.halted, s.putRec k { r with st := 5, result := if unitMask k = 1 then c else f })
  else
    let (res, s) := s.stepWork k f (planSlow p k m u) alt
    (.done, s.putRec k { r with st := if f = 0 then 2 else 4, result := res })

/-- Steps in order; `again` holds those run in this boot. -/
def State.runSteps (s : State) (p : BootPlan) (again : List Nat) : List Nat → BootEnd × State
  | [] => (.done, s)
  | k :: ks =>
    let m := (s.stepRec k).mode
    let m := if m = .skip ∧ again.any (dependsOn k) then .primary else m
    match m with
    | .halt => (.halted, s)
    | .skip => s.runSteps p again ks
    | m =>
      match s.runStep p k m with
      | (.done, s) => s.runSteps p (k :: again) ks
      | r => r

/-- What a reset leaves: the counters of the signing keys and the safe tier; the step records, the exclusions they stand
for and what firmware has written by them over a package reset (01 R34, R35, 04 R106, log 31). -/
def State.afterReset (s : State) (cold kept : Bool) : State :=
  let hold := kept || !cold
  let keep : Pkg := { ckpt := if hold then s.pkg.ckpt else {} }
  { now := if cold then 0 else s.now
    mem := if hold then s.mem.filter fun c => decide (0x010000000000 ≤ c.1) else []
    pkg := if cold then keep
      else { keep with
        steps := s.pkg.steps, tried := s.pkg.tried, exDies := s.pkg.exDies, exExp := s.pkg.exExp, harvest := s.pkg.harvest, home := s.pkg.home
        slowLinks := s.pkg.slowLinks, routes := s.pkg.routes }
    x := { attGen := s.x.attGen, attLeaf := s.x.attLeaf, idLeaf := s.x.idLeaf }
    run := { inputs := s.run.inputs, free := s.run.free, nextId := s.run.nextId, out := s.run.out,
             pulse := if cold then 0 else s.run.pulse } }

/-- The granule owner table of a package that has booted: what is backed and outside the reserve is free (03 R64). -/
def State.freeGranules (s : State) : Tab Nat :=
  ((upFrom 0 10240).filter fun g => s.backed (granuleBase g) && !s.inReserve (granuleBase g)).map fun g => (g, 0xFF)

/-- The package is ready: the capability table published, vendor images, owner table, dies on (01 R32 step 10, R28,
04 R90). Where no checkpoint has put an owner table back, memory is zero and the granules are free. -/
def State.makeUp (s : State) : State :=
  let s := s.linkTrained (s.stepRec 9).alt
  let s := if s.x.owner.isEmpty then s.zeroTiers else s
  { s with
    pkg := { s.pkg with ready := true }
    dies := ((upFrom 0 12).filter fun d => !bitAt s.pkg.exDies d).map fun d => (d, { gate := .on })
    x := { s.x with
      images := withVendors s.x.images
      owner := if s.x.owner.isEmpty then s.freeGranules else s.x.owner } }

/-- A cold power-up or a package reset, and the boot that follows. -/
def execBoot (p : BootPlan) (s : State) : Out :=
  match (s.afterReset p.cold p.kept).runSteps p [] (upFrom 1 10) with
  | (.halted, s) => .next { s with pkg := { s.pkg with fatal := true } }
  | (.cut, s) => .next s
  | (.done, s) => .next s.makeUp

/-! The checkpoint (01 R38 to R40). -/

/-- Everything of every device saved by force, onto the reserve. -/
def State.saveAll (s : State) : List Nat → State
  | [] => s
  | v :: vs => (s.clearCobs v (s.usedCobs v)).saveAll vs

/-- Moves in phase 1 are given up with their translations unchanged; the others complete, once the host holds nothing of
them. -/
def State.endMoves (s : State) : List (Nat × Nat × Mig) → State
  | [] => s
  | (d, i, m) :: l =>
    (if m.phase = 1 then s.setDie d { s.die d with migs := tdel (s.die d).migs i } else s.endMove d i m).endMoves l

/-- Running moves. -/
def State.moves (s : State) : List (Nat × Nat × Mig) := s.dies.flatMap fun (d, x) => x.migs.map fun (i, m) => (d, i, m)

/-- The core islands of every die are gated; the slices stand until they are written. -/
def State.gateDies (s : State) : List Nat → State
  | [] => s
  | d :: ds => ((s.setDie d { s.die d with gate := .gated, l2pins := [] }).blankDie d).gateDies ds

/-- Every context with slots that are being rebound settles them (04 R105). -/
def State.settleAll (s : State) : State :=
  (s.vds.flatMap fun (v, x) => x.ctxs.map fun (c, _) => (v, c)).foldl (fun s (v, c) => s.settleRebinds v c) s

/-- Work in flight that the saves have detached has not ended yet: accesses, elements of copy requests, rebinds. -/
def State.inFlight (s : State) : Bool :=
  s.agents.any (fun (_, a) => a.pend.ops.any fun o => o.det && !o.st.isParked) || s.copies.any (fun (_, c) => c.det)
    || s.vds.any fun (_, v) => v.ctxs.any fun (_, c) => c.slots.any fun (_, b) => b.st == 2

/-- What the context region holds, and the image table (01 R38 step 3, 04 R109). -/
def State.writeContexts (s : State) : State :=
  { s with pkg := { s.pkg with ckpt := { s.pkg.ckpt with
      images := s.x.images, vds := s.vds, grids := s.grids, teams := s.teams, pods := s.pods, agents := s.agents
      bufs := s.bufs, copies := s.copies } } }

/-- The next of the steps of a running checkpoint (01 R38): the forced saves; when their work in flight has ended, the
contexts written; the moves ended, then the islands gated; the slices and the near tier written; the header. A counter that
a context waits for is where the moves have left it (01 R21). -/
def State.ckptStep (s : State) : State :=
  let at_ (n : Nat) (s : State) : State := { s with pkg := { s.pkg with ckptStage := n } }
  match s.pkg.ckptStage with
  | 1 => at_ 2 (s.saveAll (s.vds.map (·.1)))
  | 2 =>
    let s := s.settleAll
    if s.inFlight then s else at_ 3 (s.fillRegion 0)
  | 3 =>
    let s := s.endMoves s.moves
    if s.moves.isEmpty then at_ 4 (s.writeContexts.gateDies (s.dies.map (·.1))) else s
  | 4 =>
    let s := (s.fillRegion 1).writeNear
    at_ 5 { s with pkg := { s.pkg with ckpt := { s.pkg.ckpt with cache := s.sideCache } } }
  | 5 =>
    let s := s.writeHeader
    at_ 6 { s with pkg := { s.pkg with ckpt := { s.pkg.ckpt with
      valid := true, config := s.config, regions := ckptRegions, time := s.now, owner := s.x.owner } } }
  | _ => s

/-- An island is relocking, or a die is being gated (01 R40). -/
def State.changing (s : State) : Bool :=
  s.dies.any fun (_, d) => d.gate == .gating || d.islA.relock || d.islB.relock

/-- A trigger: the checkpoint starts, with the X-die closed and the header invalid (01 R38 steps 1 and 2), or waits for a
relock or a gating to end. -/
def State.trigger (s : State) : State :=
  if !s.pkg.ready || s.pkg.stopped then s
  else if s.changing then { s with pkg := { s.pkg with ckptDue := true } }
  else
    let s := s.writeHeader
    { s with
      pkg := { s.pkg with stopped := true, ckptDue := false, ckpt := { s.pkg.ckpt with valid := false }, ckptStage := 1 }
      run := { s.run with issueQ := [], cur := none } }

/-- The module's power-fail input is asserted. -/
def execPowerFailInput (s : State) : Out := .next s.trigger

/-- A management checkpoint command, or the start of one that has waited; a checkpoint that runs goes on by its next
step. -/
def execManagementCheckpointCommand (s : State) : Out := .next (if s.pkg.ckptStage = 0 then s.trigger else s.ckptStep)

end Sys2Proof.Machine
end

