-- ==== Sys2Proof/Machine/Control.lean ====
section
/-!
DEFINITION. Control transfer, calls and frames, loops, ends, traps and microprograms (12 R326 to R341, 11 R297 to R301).
-/
namespace Sys2Proof.Machine

/-- T(OFF) of 12 R326. -/
def target (pc : DWord) (off : Word) : DWord :=
  BitVec.ofNat 64 (truncInt ((pc.toNat : Int) + 8 + 8 * sextInt off.toNat 32) 64)

/-- `bra` (12 R328). -/
def execBra (h : Hdr) (off : Word) (s : State) : Out :=
  issue .both false h offNone (fun s _ a => .jump (target a.arch.pc off) s) s

/-- `brx` (12 R328). -/
def execBrx (h : Hdr) (a : Src) (off : Word) (s : State) : Out :=
  issue .both false h offNone
    (fun s _ x =>
      onRd s x (x.src ⟨a, 64, .int⟩) fun b =>
        let t := truncInt ((b : Int) + 8 * sextInt off.toNat 32) 64
        if t % 8 ≠ 0 then .fault (faultAt s x 0x0A t) else .jump (BitVec.ofNat 64 t) s) s

/-! Calls and frames. -/

/-- The common effect of `call` and `callx` once target and landing are known (12 R330, R331). -/
def callFx (dem : Nat) (hf : Bool) (t land : Nat) (s : State) (i : Nat) (a : Agent) : Fx :=
  if 255 ≤ a.depth then .fault (faultAt s a 0x12 0)
  else
    let p := poolOf i a
    let want := ceilDiv dem 16
    if a.id.seq && decide ((s.freeGran p).length < want) then .fault (faultAt s a 0x12 0)
    else
      match s.frameReq i a p want false [t, land] with
      | some s => .keep s
      | none =>
        let (g, s) := s.takeGran i p want
        let (u, s) := s.newId
        match tget s.agents i with
        | none => .keep s
        | some a =>
          let f := newFrame u dem (BitVec.ofNat 64 ((a.arch.pc.toNat + 8) % 2 ^ 57)) hf false (BitVec.ofNat 32 land) g
          .jump (BitVec.ofNat 64 t) (s.setAgent i { a with arch := { a.arch with frames := f :: a.arch.frames } })

/-- Target and landing read once: a waiting `call` keeps what it has read. -/
def latched (a : Agent) (k : List Nat → Fx) (first : Unit → Fx) : Fx :=
  match a.pend.freq with
  | some r => k r.args
  | none => first ()

/-- Demand named by the field of `call` (12 R329). -/
def demandOf (dem : Fin 16) : Nat := 8 * (dem.val + 1)

def execCall (h : Hdr) (dem : Fin 16) (land : Option Src) (off : Word) (s : State) : Out :=
  issue .both false h offNone
    (fun s i a =>
      latched a (fun l => callFx (demandOf dem) land.isSome (l.getD 0 0) (l.getD 1 0) s i a) fun _ =>
        let t := (target a.arch.pc off).toNat
        match land with
        | none => callFx (demandOf dem) false t 0 s i a
        | some c => onRd s a (a.src ⟨c, 32, .int⟩) fun l => callFx (demandOf dem) true t l s i a) s

def execCallx (h : Hdr) (dem : Fin 16) (x : Src) (land : Option Word) (s : State) : Out :=
  issue .both false h offNone
    (fun s i a =>
      latched a (fun l => callFx (demandOf dem) land.isSome (l.getD 0 0) (l.getD 1 0) s i a) fun _ =>
        onRd s a (a.src ⟨x, 64, .int⟩) fun t =>
          if t % 8 ≠ 0 then .fault (faultAt s a 0x0A t)
          else callFx (demandOf dem) land.isSome t ((land.getD 0).toNat) s i a) s

/-- RET and TRF of the top frame. -/
def topTrf (a : Agent) : Bool :=
  match a.arch.frames, a.arch.evicted with
  | f :: _, _ => f.trf
  | [], e :: _ => e.trf
  | [], [] => false

/-- `ret` (12 R332). -/
def retFx (s : State) (i : Nat) (a : Agent) : Fx :=
  if a.depth = 0 ∨ topTrf a then .fault (faultAt s a 0x12 0)
  else
    let r := match a.pend.freq with | some q => q.args.getD 0 0 | none => a.top.ret.toNat
    match s.popFrames i a 1 [r] with
    | .wait s => .keep s
    | .fault c ad rp => .fault (faultAt s a c ad rp)
    | .ok _ s => .jump (BitVec.ofNat 64 r) s

def execRet (h : Hdr) (s : State) : Out := issue .both false h offNone retFx s

/-- Trap frames among the top `k` frames of the chain. -/
def trapsAmong (a : Agent) (k : Nat) : Nat :=
  (((a.arch.frames.map (·.trf)) ++ a.arch.evicted.map (·.trf)).take k).countP fun t => t

/-- The traps whose frames an `unwind` pops are over: parked accesses are discarded (07 R174). -/
def Agent.dropTraps (a : Agent) (n : Nat) : Agent :=
  if n = 0 then a
  else ({ a with flt := { a.flt with entries := a.flt.entries.drop n } }).setOps
    (a.pend.ops.filter fun o => !o.st.isParked)

/-- `unwind` (12 R333, 07 R174). -/
def unwindFx (s : State) (i : Nat) (a : Agent) : Fx :=
  match framesAbove a fun hf trf => hf && !trf with
  | none => .fault (faultAt s a 0x12 0)
  | some k =>
    match s.popFrames i a k [] with
    | .wait s => .keep s
    | .fault c ad rp => .fault (faultAt s a c ad rp)
    | .ok b s =>
      let t := truncInt ((b.top.ret.toNat : Int) + 8 * sextInt b.top.land.toNat 32) 64
      .jump (BitVec.ofNat 64 t) (s.setAgent i (b.dropTraps (trapsAmong a k)))

def execUnwind (h : Hdr) (s : State) : Out := issue .both false h offNone unwindFx s

/-! Loops. -/

/-- `loop` (12 R334). -/
def loopFx (n : Src) (off : BitVec 31) (s : State) (i : Nat) (a : Agent) : Fx :=
  onRd s a (a.src ⟨n, 32, .int⟩) fun c =>
    if c = 0 then .jump (a.arch.pc + 16 + 8 * off.zeroExtend 64) s
    else if 4 ≤ a.arch.loops.length then .fault (faultAt s a 0x11 0)
    else
      .done (s.setAgent i { a with arch := { a.arch with
        loops := ⟨a.arch.pc + 8, off.toNat + 1, BitVec.ofNat 32 c⟩ :: a.arch.loops } })

def execLoop (h : Hdr) (n : Src) (off : BitVec 31) (s : State) : Out := issue .both false h offNone (loopFx n off) s

/-- `lbrk` (12 R336): the body-end test is not applied. -/
def lbrkFx (k : Nat) (s : State) (i : Nat) (a : Agent) : Fx :=
  match (a.arch.loops.drop (k - 1)) with
  | [] => .fault (faultAt s a 0x11 0)
  | l :: ls =>
    .moved (s.setAgent i { a with arch := { a.arch with loops := ls, pc := l.start + BitVec.ofNat 64 (8 * l.len) } })

def execLbrk (h : Hdr) (k : Fin 4) (s : State) : Out := issue .both false h offNone (lbrkFx (k.val + 1)) s

/-! Ending, yielding, trapping. -/

/-- `exit` (12 R337): it waits as a settle-marked instruction waits, then delivers a completion fault that is due, or
ends the agent; an access whose slot has left the queue need not have performed (08 R193). -/
def exitFx (s : State) (i : Nat) (a : Agent) : Fx :=
  if a.settling then .keep s
  else if !a.inHandler && !(a.completions true).isEmpty then .point s
  else .moved ((s.finishEntries i a.pend.mq.length).endAgent i true)

def execExit (h : Hdr) (s : State) : Out := issue .both false h offNone exitFx s

/-- `yield` (12 R338). -/
def execYield (h : Hdr) (s : State) : Out :=
  issue .both false h offNone
    (fun s i a => .done (s.setAgent i { a with sched := { a.sched with age := 0, yielded := true } })) s

/-- A software trap or breakpoint: its resume point is PC + 8 (12 R339). -/
def trapFx (cause : Nat) (s : State) (_ : Nat) (a : Agent) : Fx :=
  .fault { faultAt s a cause 0 with resume := some (a.arch.pc + 8) }

def execTrap (h : Hdr) (_code : BitVec 8) (s : State) : Out := issue .both false h offNone (trapFx 0x13) s

def execBkpt (h : Hdr) (_code : BitVec 8) (s : State) : Out := issue .both false h offNone (trapFx 0x14) s

/-- `rtt` (12 R340). -/
def execRtt (h : Hdr) (s : State) : Out := issue .both true h offNone rttFx s

/-- `macro` (11 R299): an index of 64 or more or an empty microprogram faults when the guard is true and does
nothing otherwise; else the microprogram is entered, whichever way the guard falls. -/
def macroFx (h : Hdr) (idx p0 p1 p2 : Nat) (g : Bool) (s : State) (i : Nat) (a : Agent) : Fx :=
  if s.macReaches a idx 0 then
    .keep (s.setAgent i { a with arch := { a.arch with
      mac := some ⟨idx, 0, h.gp, h.gn, h.settle, p0, p1, p2, false⟩ } })
  else if g then .fault (faultAt s a 0x18 idx)
  else .done s

def execMacroOp (h : Hdr) (idx : BitVec 8) (p0 p1 p2 : Src) (s : State) : Out :=
  issueG .both false h (macroFx h idx.toNat p0.code p1.code p2.code) s

/-- The snapshot of `frq` (12 R341). -/
def frqWord (s : State) (i : Nat) (a : Agent) (dem : Nat) : Nat :=
  let p := poolOf i a
  let free := (s.freeGran p).length
  free + 256 * a.depth + 65536 * b2n (dem != 0 && !s.poolBlocked p && decide (ceilDiv dem 16 ≤ free))

/-- `frq` (12 R341): guarded off it pushes a zero word and writes the frame register it names. -/
def execFrq (h : Hdr) (dem : Fin 17) (d : Dst) (s : State) : Out :=
  issue .both false h (fun a => (a.dstReady d 1).andThen fun _ => .ok (a.putResult d 1 0))
    (fun s i a => onRd s a (a.dstReady d 1) fun _ =>
      .done (s.startReady i a [BitVec.ofNat 32 (frqWord s i a (8 * dem.val))] d [])) s

end Sys2Proof.Machine
end

