-- ==== Sys2Proof/Machine/FloatInstr.lean ====
section
/-!
DEFINITION. Floating-point lane instructions and special functions (13 R342 to R352).
-/
namespace Sys2Proof.Machine

/-- An operation on f32, f64 or on each half of a packed word (13 R342). -/
def onType1 (ty : FHTy) (f : Fmt → Nat → Nat) (x : Nat) : Nat :=
  match ty with
  | .f32 => f f32F x
  | .f64 => f f64F x
  | .f16x2 => onHalves1 (f f16F) x
  | .bf16x2 => onHalves1 (f bf16F) x

def onType2 (ty : FHTy) (f : Fmt → Nat → Nat → Nat) (x y : Nat) : Nat :=
  match ty with
  | .f32 => f f32F x y
  | .f64 => f f64F x y
  | .f16x2 => onHalves2 (f f16F) x y
  | .bf16x2 => onHalves2 (f bf16F) x y

/-- How immediates are read at a floating-point type (11 R287). -/
def fhAs : FHTy → As
  | .f32 => .f32
  | .f64 => .f64
  | .f16x2 => .f16x2
  | .bf16x2 => .bf16x2

def fAs : FTy → As
  | .f32 => .f32
  | .f64 => .f64

def hAs : HTy → As
  | .f16x2 => .f16x2
  | .bf16x2 => .bf16x2

/-! Arithmetic (13 R344). -/

def execFadd (h : Hdr) (rm : RM) (a b : Src) (d : Dst) (s : State) : Out :=
  issue2 .thread h ⟨a, 32, .f32⟩ ⟨b, 32, .f32⟩ d 32 (f32F.add rm) s

def execFsub (h : Hdr) (rm : RM) (a b : Src) (d : Dst) (s : State) : Out :=
  issue2 .thread h ⟨a, 32, .f32⟩ ⟨b, 32, .f32⟩ d 32 (f32F.sub rm) s

def execFmul (h : Hdr) (rm : RM) (a b : Src) (d : Dst) (s : State) : Out :=
  issue2 .thread h ⟨a, 32, .f32⟩ ⟨b, 32, .f32⟩ d 32 (f32F.mul rm) s

def execFfma (h : Hdr) (rm : RM) (a b c : Src) (d : Dst) (s : State) : Out :=
  issue3 .thread h ⟨a, 32, .f32⟩ ⟨b, 32, .f32⟩ ⟨c, 32, .f32⟩ d 32 (f32F.fma rm) s

def execDadd (h : Hdr) (rm : RM) (a b : Src) (d : Dst) (s : State) : Out :=
  issue2 .thread h ⟨a, 64, .f64⟩ ⟨b, 64, .f64⟩ d 64 (f64F.add rm) s

def execDmul (h : Hdr) (rm : RM) (a b : Src) (d : Dst) (s : State) : Out :=
  issue2 .thread h ⟨a, 64, .f64⟩ ⟨b, 64, .f64⟩ d 64 (f64F.mul rm) s

def execDfma (h : Hdr) (rm : RM) (a b c : Src) (d : Dst) (s : State) : Out :=
  issue3 .thread h ⟨a, 64, .f64⟩ ⟨b, 64, .f64⟩ ⟨c, 64, .f64⟩ d 64 (f64F.fma rm) s

def execHadd2 (h : Hdr) (ty : HTy) (rm : RM) (a b : Src) (d : Dst) (s : State) : Out :=
  issue2 .thread h ⟨a, 32, hAs ty⟩ ⟨b, 32, hAs ty⟩ d 32 (onHalves2 ((hFmt ty).add rm)) s

def execHmul2 (h : Hdr) (ty : HTy) (rm : RM) (a b : Src) (d : Dst) (s : State) : Out :=
  issue2 .thread h ⟨a, 32, hAs ty⟩ ⟨b, 32, hAs ty⟩ d 32 (onHalves2 ((hFmt ty).mul rm)) s

def execHfma2 (h : Hdr) (ty : HTy) (rm : RM) (a b c : Src) (d : Dst) (s : State) : Out :=
  issue3 .thread h ⟨a, 32, hAs ty⟩ ⟨b, 32, hAs ty⟩ ⟨c, 32, hAs ty⟩ d 32 (onHalves3 ((hFmt ty).fma rm)) s

/-! Minimum, maximum, comparison, class (13 R345 to R347). -/

def execFmin (h : Hdr) (ty : FHTy) (a b : Src) (d : Dst) (s : State) : Out :=
  issue2 .thread h ⟨a, ty.width, fhAs ty⟩ ⟨b, ty.width, fhAs ty⟩ d ty.width (onType2 ty fun f => f.minmax false) s

def execFmax (h : Hdr) (ty : FHTy) (a b : Src) (d : Dst) (s : State) : Out :=
  issue2 .thread h ⟨a, ty.width, fhAs ty⟩ ⟨b, ty.width, fhAs ty⟩ d ty.width (onType2 ty fun f => f.minmax true) s

def execFsetp (h : Hdr) (rel : FRel) (a b : Src) (d : Dst) (s : State) : Out :=
  issuePred .thread h [⟨a, 32, .f32⟩, ⟨b, 32, .f32⟩] d
    (fun xs => frel rel (f32F.decFloat (xs.getD 0 0)) (f32F.decFloat (xs.getD 1 0))) s

def execDsetp (h : Hdr) (rel : FRel) (a b : Src) (d : Dst) (s : State) : Out :=
  issuePred .thread h [⟨a, 64, .f64⟩, ⟨b, 64, .f64⟩] d
    (fun xs => frel rel (f64F.decFloat (xs.getD 0 0)) (f64F.decFloat (xs.getD 1 0))) s

def execFclass (h : Hdr) (ty : FTy) (a : Src) (d : Dst) (s : State) : Out :=
  issue1 .thread h ⟨a, ty.width, fAs ty⟩ d 32 (fFmt ty).fclass s

/-! Rounding, signs, exponents (13 R348 to R350). -/

def execFrnd (h : Hdr) (ty : FTy) (rm : RM) (a : Src) (d : Dst) (s : State) : Out :=
  issue1 .thread h ⟨a, ty.width, fAs ty⟩ d ty.width ((fFmt ty).rnd rm) s

def execFabs (h : Hdr) (ty : FHTy) (a : Src) (d : Dst) (s : State) : Out :=
  issue1 .thread h ⟨a, ty.width, fhAs ty⟩ d ty.width (onType1 ty fun f x => clearBit x (f.w - 1)) s

/-- The sign bit of a pattern inverted. -/
def flipSign (f : Fmt) (x : Nat) : Nat := setBits x (f.w - 1) 1 (1 - bits x (f.w - 1) 1)

def execFneg (h : Hdr) (ty : FHTy) (a : Src) (d : Dst) (s : State) : Out :=
  issue1 .thread h ⟨a, ty.width, fhAs ty⟩ d ty.width (onType1 ty flipSign) s

def execFcopysign (h : Hdr) (ty : FHTy) (a b : Src) (d : Dst) (s : State) : Out :=
  issue2 .thread h ⟨a, ty.width, fhAs ty⟩ ⟨b, ty.width, fhAs ty⟩ d ty.width
    (onType2 ty fun f x y => setBits x (f.w - 1) 1 (bits y (f.w - 1) 1)) s

def execFscale (h : Hdr) (ty : FTy) (rm : RM) (a b : Src) (d : Dst) (s : State) : Out :=
  issue2 .thread h ⟨a, ty.width, fAs ty⟩ ⟨b, 32, .int⟩ d ty.width
    (fun x n => (fFmt ty).scale rm x (sextInt n 32)) s

def execFgetexp (h : Hdr) (ty : FTy) (a : Src) (d : Dst) (s : State) : Out :=
  issue1 .thread h ⟨a, ty.width, fAs ty⟩ d 32 (fFmt ty).getexp s

def execFgetman (h : Hdr) (ty : FTy) (a : Src) (d : Dst) (s : State) : Out :=
  issue1 .thread h ⟨a, ty.width, fAs ty⟩ d ty.width (fFmt ty).getman s

/-! Special functions, all deferred (13 R351, R352). -/

/-- A special function of one operand. -/
def sfu1 (h : Hdr) (a : Src) (d : Dst) (f : Nat → Nat) (s : State) : Out :=
  issueDeferred .thread h [⟨a, 32, .f32⟩] d 32 (fun xs => f (xs.getD 0 0)) s

def execFrcp (h : Hdr) (a : Src) (d : Dst) (s : State) : Out := sfu1 h a d sfuRcp s
def execFrsq (h : Hdr) (a : Src) (d : Dst) (s : State) : Out := sfu1 h a d sfuRsq s
def execFsqrt (h : Hdr) (a : Src) (d : Dst) (s : State) : Out := sfu1 h a d sfuSqrt s
def execFlog2 (h : Hdr) (a : Src) (d : Dst) (s : State) : Out := sfu1 h a d sfuLog2 s
def execFexp2 (h : Hdr) (a : Src) (d : Dst) (s : State) : Out := sfu1 h a d sfuExp2 s
def execFsin (h : Hdr) (a : Src) (d : Dst) (s : State) : Out := sfu1 h a d sfuSin s
def execFcos (h : Hdr) (a : Src) (d : Dst) (s : State) : Out := sfu1 h a d sfuCos s
def execFtanh (h : Hdr) (a : Src) (d : Dst) (s : State) : Out := sfu1 h a d sfuTanh s

/-- `exp2s` (10 R279). -/
def execExp2s (h : Hdr) (a b c : Src) (d : Dst) (s : State) : Out :=
  issueDeferred .thread h [⟨a, 32, .f32⟩, ⟨b, 32, .f32⟩, ⟨c, 32, .f32⟩] d 32
    (fun xs => sfuExp2s (xs.getD 0 0) (xs.getD 1 0) (xs.getD 2 0)) s

end Sys2Proof.Machine
end

