-- ==== Sys2Proof/Machine/Convert.lean ====
section
/-!
DEFINITION. Conversions between lane types, through format slots, and packed halves (13 R353 to R359).
-/
namespace Sys2Proof.Machine

/-- How immediates are read at a scalar type of `cvt`. -/
def cAs : CTy → As
  | .i32 | .n32 | .i64 | .n64 => .int
  | .f32 => .f32
  | .f64 => .f64

/-- A lane value converted: the same type leaves it unchanged but for a NaN, which becomes canonical (10 R274, 13 R354). -/
def cvtScalar (t u : CTy) (rm : RM) (sat : Bool) (x : Nat) : Nat :=
  let v := decLane t x
  if t = u ∧ !v.isNan then x else encLane u rm sat v

/-- One half converted to another packed type, or to its own (13 R354). -/
def cvtHalf (src dst : HTy) (rm : RM) (sat : Bool) (x : Nat) : Nat :=
  let v := (hFmt src).decFloat x
  if src = dst ∧ !v.isNan then x else (hFmt dst).encVal rm sat v

/-- `cvt` (13 R354). -/
def execCvt (h : Hdr) (tys : CvtTys) (rm : RM) (sat : Bool) (a : Src) (d : Dst) (s : State) : Out :=
  match tys with
  | .scalar t u => issue1 .thread h ⟨a, t.width, cAs t⟩ d u.width (cvtScalar t u rm sat) s
  | .packed t u => issue1 .thread h ⟨a, 32, hAs t⟩ d 32 (onHalves1 (cvtHalf t u rm sat)) s

/-- How immediates are read at a lane type. -/
def lAs : LTy → As
  | .i32 | .n32 => .int
  | .f32 => .f32

/-- The element context that applies when none is given (13 R355). -/
def defaultCtx (f : Fmt) : Nat := if f.kind = 2 then 0x7F7F else 0x80000000

/-- The code `cvts` pushes for a value under a context (13 R356). -/
def cvtsCode (f : Fmt) (t : LTy) (rm : RM) (sat : Bool) (x ctx : Nat) : Nat :=
  let v := decLane (ltyC t) x
  if f.kind = 2 then
    let e0 := bits ctx 0 8
    let e1 := bits ctx 8 8
    if f.nanBlock e0 e1 then 0 else f.blockElem rm e0 e1 v
  else if t = .f32 ∧ f.keeps x then x
  else f.encode rm sat v (lanePattern t x) (BitVec.ofNat 32 ctx)

/-- The lane value `cvtw` pushes for a code under a context (13 R357); `.sat` changes nothing (R355). -/
def cvtwValue (f : Fmt) (t : LTy) (rm : RM) (c ctx : Nat) : Nat :=
  encLane (ltyC t) rm false (f.decode c (BitVec.ofNat 32 ctx) (bits ctx 0 8) (bits ctx 8 8))

/-- A conversion through a slot: the binding is captured, a plane of the cob must hold its image, the result is
pushed at issue (13 R358). -/
def slotConvert (h : Hdr) (slot : Nat) (o : Opnd) (k : Option Src) (d : Dst) (f : Fmt → Nat → Nat → Nat) (s : State) :
    Out :=
  issue .thread false h (fun a => a.pushOff (some o) d 1)
    (fun s i a =>
      onRd s a (s.capture a slot) fun img =>
        let fm := (s.image img).fmt
        onRd s a (a.src o) fun x =>
          let ctx := match k with
            | none => Rd.ok (defaultCtx fm)
            | some c => a.src ⟨c, 32, .int⟩
          onRd s a ctx fun c =>
            onRd s a (a.dstReady d 1) fun _ =>
              match s.usePlanes (cobOfCore a.pos.core) i [img] with
              | (false, s) => .keep s
              | (true, s) => .done (s.setAgent i (a.putResult d 1 (f fm x c)))) s

def execCvts (h : Hdr) (slot : Fin 16) (ty : LTy) (rm : RM) (sat : Bool) (a : Src) (k : Option Src) (d : Dst)
    (s : State) : Out :=
  slotConvert h slot.val ⟨a, 32, lAs ty⟩ k d (fun f x c => cvtsCode f ty rm sat x c) s

def execCvtw (h : Hdr) (slot : Fin 16) (ty : LTy) (rm : RM) (_sat : Bool) (a : Src) (k : Option Src) (d : Dst)
    (s : State) : Out :=
  slotConvert h slot.val ⟨a, 32, .int⟩ k d (fun f x c => cvtwValue f ty rm x c) s

/-- An f32 rounded to a half (13 R359). -/
def packHalf (ty : HTy) (rm : RM) (x : Nat) : Nat := (hFmt ty).encVal rm false (f32F.decFloat x)

def execPack (h : Hdr) (ty : HTy) (rm : RM) (a b : Src) (d : Dst) (s : State) : Out :=
  issue2 .thread h ⟨a, 32, .f32⟩ ⟨b, 32, .f32⟩ d 32 (fun x y => packHalf ty rm x + packHalf ty rm y * 65536) s

/-- A half widened to f32, exactly (13 R359). -/
def widenHalf (ty : HTy) (x : Nat) : Nat := f32F.encVal .rne false ((hFmt ty).decFloat x)

def execUnpk (h : Hdr) (ty : HTy) (a : Src) (d : Dst) (s : State) : Out :=
  issue1 .thread h ⟨a, 32, hAs ty⟩ d 64
    (fun x => widenHalf ty (bits x 0 16) + widenHalf ty (bits x 16 16) * 2 ^ 32) s

end Sys2Proof.Machine
end

