-- ==== Sys2Proof/Machine/System.lean ====
section
/-!
DEFINITION. Special registers (08 R221 to R223, 12 R322 to R324).
-/
namespace Sys2Proof.Machine

/-- A team's linear index as coordinates in a grid of `x` by `y` (08 R221). -/
def coord (n x y : Nat) : Nat × Nat × Nat := (n % x, n / x % y, n / (x * y))

/-- The special registers that 12 R323 lists for a sequencer context: those it reads as its own. -/
def seqOwn : List Nat := [0, 5, 6, 7, 10, 11, 12, 13, 14, 15, 22, 24, 25, 27]

/-- Thread 0 of the first team of a sequencer context's pod group (12 R323): where it has ended, its place is that of the team,
and its other registers are 0 (log 37). -/
def State.firstThread (s : State) (a : Agent) : Agent :=
  match s.agents.find? fun (_, b) => !b.id.seq && b.id.team == a.id.team && b.id.tid == 0 with
  | some (_, b) => b
  | none => { id := { a.id with seq := false, tid := 0 }, pos := { core := s.teamCore a } }

/-- The value of a special register for an agent (08 R221, 12 R323). -/
def srValue (s : State) (a : Agent) (i : Nat) : Nat :=
  let g := s.grid a.id.grid
  let r := g.lrec
  let t := if a.id.seq && !seqOwn.contains i then s.firstThread a else a
  let tc := coord (s.teamN a.id.team) r.gx r.gy
  let xc := coord a.id.tid r.tx r.ty
  let seq := a.id.seq
  let isl := s.islOfCore t.pos.core
  match i with
  | 0 => a.id.tid
  | 1 => s.teamN a.id.team
  | 2 => tc.1
  | 3 => tc.2.1
  | 4 => tc.2.2
  | 5 => if seq then 0 else xc.1
  | 6 => if seq then 0 else xc.2.1
  | 7 => if seq then 0 else xc.2.2
  | 8 => r.threads
  | 9 => r.teams
  | 10 => if seq then 0 else a.pos.lane
  | 11 => if seq then 0 else a.pos.slot
  | 12 => if seq then 0 else a.pos.pip
  | 13 => a.pos.core
  | 14 => cobOfCore a.pos.core
  | 15 => dieOfCore a.pos.core
  | 16 => r.argp
  | 17 => isl.cyc
  | 18 => isl.ncyc / 65536
  | 19 => s.now + Config.refSkew (dieOfCore t.pos.core) % 3
  | 20 => g.ncores
  | 21 => g.depth
  | 22 => if seq then 0 else 0x1FFFF * 2 ^ 40 + (s.areaOf a).1
  | 23 => s.spillBase t
  | 24 => a.demand
  | 25 => a.depth
  | 26 => a.id.vd
  | 27 => if seq then 1 else a.sched.gmask.toNat ||| 2 ^ a.pos.lane
  | 28 => match t.arch.loops with | l :: _ => l.count.toNat | [] => 0
  | 29 => t.arch.trapcause.toNat
  | 30 => t.arch.trappc.toNat
  | _ => t.arch.trapaddr.toNat

/-- `getsr` (12 R322). -/
def execGetsr (h : Hdr) (i : Fin 32) (d : Dst) (s : State) : Out :=
  let k := srWidth i.val / 32
  issue .both false h (fun a => a.pushOff none d k)
    (fun s n a => onRd s a (a.dstReady d k) fun _ =>
      .done (s.setAgent n (a.putResult d k (srValue s a i.val)))) s

/-- A write to the remaining count of the innermost loop. -/
def Agent.setCount (a : Agent) (c : Word) : Agent :=
  match a.arch.loops with
  | [] => a
  | l :: ls => { a with arch := { a.arch with loops := { l with count := c } :: ls } }

/-- A write to `%sr.trapcause` declares that the handler has copied the save area (07 R170, R173). -/
def Agent.declare (a : Agent) (v : Word) : Agent :=
  { a with
    arch := { a.arch with trapcause := v }
    flt := { a.flt with entries :=
      match a.flt.entries with
      | [] => []
      | e :: es => { e with declared := true } :: es } }

/-- The effect of `setsr` (12 R324). -/
def setsrFx (i : Nat) (a : Src) (s : State) (n : Nat) (x : Agent) : Fx :=
  if i < 28 then .fault (faultAt s x 0x0C 0)
  else if i = 28 then
    if x.arch.loops.isEmpty then .done s
    else onRd s x (x.src ⟨a, 32, .int⟩) fun v => .done (s.setAgent n (x.setCount (BitVec.ofNat 32 v)))
  else if i = 29 then
    onRd s x (x.src ⟨a, 32, .int⟩) fun v => .done (s.setAgent n (x.declare (BitVec.ofNat 32 v)))
  else
    onRd s x (x.src ⟨a, 64, .int⟩) fun v =>
      .done (s.setAgent n { x with arch :=
        if i = 30 then { x.arch with trappc := BitVec.ofNat 64 v } else { x.arch with trapaddr := BitVec.ofNat 64 v } })

def execSetsr (h : Hdr) (i : Fin 32) (a : Src) (s : State) : Out :=
  issue .both (decide (29 ≤ i.val)) h offNone (setsrFx i.val a) s

end Sys2Proof.Machine
end

