-- ==== Sys2Proof/Machine/Dispatch.lean ====
section
/-!
DEFINITION. The one dispatch from the steps of the part to their meanings.
-/
namespace Sys2Proof.Machine

/-- One step of the part: an event, or an instruction of the agent in focus. -/
def exec (i : Instr) (s : State) : Host.Outcome State Fault Refusal :=
  match i with
  | .boot p => Sys2Proof.Machine.execBoot p s
  | .powerFailInput => Sys2Proof.Machine.execPowerFailInput s
  | .managementCheckpointCommand => Sys2Proof.Machine.execManagementCheckpointCommand s
  | .syncPulse missed => Sys2Proof.Machine.execSyncPulse missed s
  | .dieLost die => Sys2Proof.Machine.execDieLost die s
  | .frequencyStep die island mhz => Sys2Proof.Machine.execFrequencyStep die island mhz s
  | .pllRelockEnd die island => Sys2Proof.Machine.execPllRelockEnd die island s
  | .powerWindowOverCap => Sys2Proof.Machine.execPowerWindowOverCap s
  | .pwrCapWrite w => Sys2Proof.Machine.execPwrCapWrite w s
  | .trayPowerCap w => Sys2Proof.Machine.execTrayPowerCap w s
  | .crossDieTimeout agent op => Sys2Proof.Machine.execCrossDieTimeout agent op s
  | .dieGatingStart die => Sys2Proof.Machine.execDieGatingStart die s
  | .gatingComplete die => Sys2Proof.Machine.execGatingComplete die s
  | .gatingAbandon die => Sys2Proof.Machine.execGatingAbandon die s
  | .dieWakeRequest die => Sys2Proof.Machine.execDieWakeRequest die s
  | .wakeComplete die => Sys2Proof.Machine.execWakeComplete die s
  | .move die => Sys2Proof.Machine.execMove die s
  | .migrationPhase2 die slot => Sys2Proof.Machine.execMigrationPhase2 die slot s
  | .migrationComplete die slot => Sys2Proof.Machine.execMigrationComplete die slot s
  | .olkLinkDown => Sys2Proof.Machine.execOlkLinkDown s
  | .managementCommandFlit cmd => Sys2Proof.Machine.execManagementCommandFlit cmd s
  | .linkHealthFlit flit => Sys2Proof.Machine.execLinkHealthFlit flit s
  | .reservedSidebandFlit cls => Sys2Proof.Machine.execReservedSidebandFlit cls s
  | .hostRead win off n hold => Sys2Proof.Machine.execHostRead win off n hold s
  | .hostWrite win off data => Sys2Proof.Machine.execHostWrite win off data s
  | .hostLockedOperation off f v cmp => Sys2Proof.Machine.execHostLockedOperation off f v cmp s
  | .bisnpResponse line data => Sys2Proof.Machine.execBisnpResponse line data s
  | .bisnpResend line => Sys2Proof.Machine.execBisnpResend line s
  | .bisnpTimeout line => Sys2Proof.Machine.execBisnpTimeout line s
  | .portTrained port dev => Sys2Proof.Machine.execPortTrained port dev s
  | .portStateChange port st => Sys2Proof.Machine.execPortStateChange port st s
  | .remoteAccessArrival dev vd acc => Sys2Proof.Machine.execRemoteAccessArrival dev vd acc s
  | .remoteRequestTimeout agent op => Sys2Proof.Machine.execRemoteRequestTimeout agent op s
  | .sparseReducePairArrival src pa n op idx val => Sys2Proof.Machine.execSparseReducePairArrival src pa n op idx val s
  | .create => Sys2Proof.Machine.execCreate s
  | .resize => Sys2Proof.Machine.execResize s
  | .resizeComplete vd => Sys2Proof.Machine.execResizeComplete vd s
  | .destroy => Sys2Proof.Machine.execDestroy s
  | .destroyComplete vd => Sys2Proof.Machine.execDestroyComplete vd s
  | .deschedule => Sys2Proof.Machine.execDeschedule s
  | .descheduleSaved vd => Sys2Proof.Machine.execDescheduleSaved vd s
  | .schedule => Sys2Proof.Machine.execSchedule s
  | .setreg => Sys2Proof.Machine.execSetreg s
  | .granuleZeroed g => Sys2Proof.Machine.execGranuleZeroed g s
  | .kick vd off size value => Sys2Proof.Machine.execKick vd off size value s
  | .streamFetch vd stream => Sys2Proof.Machine.execStreamFetch vd stream s
  | .marginCobLend cob vd => Sys2Proof.Machine.execMarginCobLend cob vd s
  | .revocation cob => Sys2Proof.Machine.execRevocation cob s
  | .revocationReturn cob => Sys2Proof.Machine.execRevocationReturn cob s
  | .regulatorWindow => Sys2Proof.Machine.execRegulatorWindow s
  | .register => Sys2Proof.Machine.execRegister s
  | .retire => Sys2Proof.Machine.execRetire s
  | .drainComplete vd ctx slot => Sys2Proof.Machine.execDrainComplete vd ctx slot s
  | .drainTimeout vd ctx slot => Sys2Proof.Machine.execDrainTimeout vd ctx slot s
  | .planeLoad cob image => Sys2Proof.Machine.execPlaneLoad cob image s
  | .planeLoadComplete cob image => Sys2Proof.Machine.execPlaneLoadComplete cob image s
  | .attestationRequest => Sys2Proof.Machine.execAttestationRequest s
  | .attestationKeyGeneration => Sys2Proof.Machine.execAttestationKeyGeneration s
  | .load => Sys2Proof.Machine.execLoad s
  | .unload => Sys2Proof.Machine.execUnload s
  | .placementPass vd => Sys2Proof.Machine.execPlacementPass vd s
  | .blockingGridTimeout grid => Sys2Proof.Machine.execBlockingGridTimeout grid s
  | .childWaitSwap team => Sys2Proof.Machine.execChildWaitSwap team s
  | .launchEnd grid => Sys2Proof.Machine.execLaunchEnd grid s
  | .issueCycle die island => Sys2Proof.Machine.execIssueCycle die island s
  | .sliceCycleLimit vd ctx cob => Sys2Proof.Machine.execSliceCycleLimit vd ctx cob s
  | .sliceWallLimit vd ctx cob => Sys2Proof.Machine.execSliceWallLimit vd ctx cob s
  | .watchdogExpiry grid => Sys2Proof.Machine.execWatchdogExpiry grid s
  | .deferredResultReturn agent op r => Sys2Proof.Machine.execDeferredResultReturn agent op r s
  | .trapEntry agent => Sys2Proof.Machine.execTrapEntry agent s
  | .preemptionRequest vd ctx cob => Sys2Proof.Machine.execPreemptionRequest vd ctx cob s
  | .preemptionBudgetEnd vd ctx cob => Sys2Proof.Machine.execPreemptionBudgetEnd vd ctx cob s
  | .saveComplete vd ctx cob => Sys2Proof.Machine.execSaveComplete vd ctx cob s
  | .frameGrant agent => Sys2Proof.Machine.execFrameGrant agent s
  | .frameSpillEscape agent => Sys2Proof.Machine.execFrameSpillEscape agent s
  | .migrateTransfer agent => Sys2Proof.Machine.execMigrateTransfer agent s
  | .invGo => Sys2Proof.Machine.execInvGo s
  | .shootdownComplete => Sys2Proof.Machine.execShootdownComplete s
  | .scopeUpdateEffect vd ctx entry => Sys2Proof.Machine.execScopeUpdateEffect vd ctx entry s
  | .ctwaitTimeout agent => Sys2Proof.Machine.execCtwaitTimeout agent s
  | .rejoinTimeout agent => Sys2Proof.Machine.execRejoinTimeout agent s
  | .tileGranuleGrant cob => Sys2Proof.Machine.execTileGranuleGrant cob s
  | .matrixEntryStart agent array => Sys2Proof.Machine.execMatrixEntryStart agent array s
  | .matrixEntryComplete agent => Sys2Proof.Machine.execMatrixEntryComplete agent s
  | .copyElement copy => Sys2Proof.Machine.execCopyElement copy s
  | .copyRequestComplete copy => Sys2Proof.Machine.execCopyRequestComplete copy s
  | .debugRegisterRead core pip lane reg => Sys2Proof.Machine.execDebugRegisterRead core pip lane reg s
  | .registerWrite t v => Sys2Proof.Machine.execRegisterWrite t v s
  | .nop h => Sys2Proof.Machine.execNop h s
  | .iadd h ty sat a b d => Sys2Proof.Machine.execIadd h ty sat a b d s
  | .isub h ty sat a b d => Sys2Proof.Machine.execIsub h ty sat a b d s
  | .imul h ty sat a b d => Sys2Proof.Machine.execImul h ty sat a b d s
  | .imulhi h ty a b d => Sys2Proof.Machine.execImulhi h ty a b d s
  | .imad h ty sat a b c d => Sys2Proof.Machine.execImad h ty sat a b c d s
  | .imin h ty a b d => Sys2Proof.Machine.execImin h ty a b d s
  | .imax h ty a b d => Sys2Proof.Machine.execImax h ty a b d s
  | .iabs h ty sat a d => Sys2Proof.Machine.execIabs h ty sat a d s
  | .idiv h ty a b d => Sys2Proof.Machine.execIdiv h ty a b d s
  | .irem h ty a b d => Sys2Proof.Machine.execIrem h ty a b d s
  | .and h ty a b d => Sys2Proof.Machine.execAnd h ty a b d s
  | .or h ty a b d => Sys2Proof.Machine.execOr h ty a b d s
  | .xor h ty a b d => Sys2Proof.Machine.execXor h ty a b d s
  | .not h ty a d => Sys2Proof.Machine.execNot h ty a d s
  | .shl h ty a b d => Sys2Proof.Machine.execShl h ty a b d s
  | .shr h ty a b d => Sys2Proof.Machine.execShr h ty a b d s
  | .sar h ty a b d => Sys2Proof.Machine.execSar h ty a b d s
  | .rotl h ty a b d => Sys2Proof.Machine.execRotl h ty a b d s
  | .popc h ty a d => Sys2Proof.Machine.execPopc h ty a d s
  | .clz h ty a d => Sys2Proof.Machine.execClz h ty a d s
  | .brev h ty a d => Sys2Proof.Machine.execBrev h ty a d s
  | .bfe h ty sx a b d => Sys2Proof.Machine.execBfe h ty sx a b d s
  | .bfi h ty a b c d => Sys2Proof.Machine.execBfi h ty a b c d s
  | .lea h shift signed a b d => Sys2Proof.Machine.execLea h shift signed a b d s
  | .isetp h rel ty a b d => Sys2Proof.Machine.execIsetp h rel ty a b d s
  | .sel h ty p a b d => Sys2Proof.Machine.execSel h ty p a b d s
  | .plop h op x y d => Sys2Proof.Machine.execPlop h op x y d s
  | .mov h ty a d => Sys2Proof.Machine.execMov h ty a d s
  | .dup h ws d => Sys2Proof.Machine.execDup h ws d s
  | .movi h imm d => Sys2Proof.Machine.execMovi h imm d s
  | .addi h a imm d => Sys2Proof.Machine.execAddi h a imm d s
  | .movh h a imm d => Sys2Proof.Machine.execMovh h a imm d s
  | .getsr h sr d => Sys2Proof.Machine.execGetsr h sr d s
  | .setsr h sr a => Sys2Proof.Machine.execSetsr h sr a s
  | .ridx h a imm d => Sys2Proof.Machine.execRidx h a imm d s
  | .widx h a x => Sys2Proof.Machine.execWidx h a x s
  | .fadd h rm a b d => Sys2Proof.Machine.execFadd h rm a b d s
  | .fsub h rm a b d => Sys2Proof.Machine.execFsub h rm a b d s
  | .fmul h rm a b d => Sys2Proof.Machine.execFmul h rm a b d s
  | .ffma h rm a b c d => Sys2Proof.Machine.execFfma h rm a b c d s
  | .fmin h ty a b d => Sys2Proof.Machine.execFmin h ty a b d s
  | .fmax h ty a b d => Sys2Proof.Machine.execFmax h ty a b d s
  | .fsetp h rel a b d => Sys2Proof.Machine.execFsetp h rel a b d s
  | .fclass h ty a d => Sys2Proof.Machine.execFclass h ty a d s
  | .frnd h ty rm a d => Sys2Proof.Machine.execFrnd h ty rm a d s
  | .fabs h ty a d => Sys2Proof.Machine.execFabs h ty a d s
  | .fneg h ty a d => Sys2Proof.Machine.execFneg h ty a d s
  | .fcopysign h ty a b d => Sys2Proof.Machine.execFcopysign h ty a b d s
  | .fscale h ty rm a b d => Sys2Proof.Machine.execFscale h ty rm a b d s
  | .fgetexp h ty a d => Sys2Proof.Machine.execFgetexp h ty a d s
  | .fgetman h ty a d => Sys2Proof.Machine.execFgetman h ty a d s
  | .dadd h rm a b d => Sys2Proof.Machine.execDadd h rm a b d s
  | .dmul h rm a b d => Sys2Proof.Machine.execDmul h rm a b d s
  | .dfma h rm a b c d => Sys2Proof.Machine.execDfma h rm a b c d s
  | .dsetp h rel a b d => Sys2Proof.Machine.execDsetp h rel a b d s
  | .hadd2 h ty rm a b d => Sys2Proof.Machine.execHadd2 h ty rm a b d s
  | .hmul2 h ty rm a b d => Sys2Proof.Machine.execHmul2 h ty rm a b d s
  | .hfma2 h ty rm a b c d => Sys2Proof.Machine.execHfma2 h ty rm a b c d s
  | .frcp h a d => Sys2Proof.Machine.execFrcp h a d s
  | .frsq h a d => Sys2Proof.Machine.execFrsq h a d s
  | .fsqrt h a d => Sys2Proof.Machine.execFsqrt h a d s
  | .flog2 h a d => Sys2Proof.Machine.execFlog2 h a d s
  | .fexp2 h a d => Sys2Proof.Machine.execFexp2 h a d s
  | .exp2s h a b c d => Sys2Proof.Machine.execExp2s h a b c d s
  | .fsin h a d => Sys2Proof.Machine.execFsin h a d s
  | .fcos h a d => Sys2Proof.Machine.execFcos h a d s
  | .ftanh h a d => Sys2Proof.Machine.execFtanh h a d s
  | .cvt h tys rm sat a d => Sys2Proof.Machine.execCvt h tys rm sat a d s
  | .cvts h slot ty rm sat a k d => Sys2Proof.Machine.execCvts h slot ty rm sat a k d s
  | .cvtw h slot ty rm sat a k d => Sys2Proof.Machine.execCvtw h slot ty rm sat a k d s
  | .pack h ty rm a b d => Sys2Proof.Machine.execPack h ty rm a b d s
  | .unpk h ty a d => Sys2Proof.Machine.execUnpk h ty a d s
  | .shfl h mode ty rp a fill ctl d => Sys2Proof.Machine.execShfl h mode ty rp a fill ctl d s
  | .vote h op rp p fill ctl d => Sys2Proof.Machine.execVote h op rp p fill ctl d s
  | .matchLanes h ty rp a fill ctl d => Sys2Proof.Machine.execMatchLanes h ty rp a fill ctl d s
  | .redux h op rp a fill ctl d => Sys2Proof.Machine.execRedux h op rp a fill ctl d s
  | .scan h op rp excl a fill ctl d => Sys2Proof.Machine.execScan h op rp excl a fill ctl d s
  | .enrol h j => Sys2Proof.Machine.execEnrol h j s
  | .rejoin h j => Sys2Proof.Machine.execRejoin h j s
  | .groupq h g d => Sys2Proof.Machine.execGroupq h g d s
  | .ld h sz ofs sk acq a d => Sys2Proof.Machine.execLd h sz ofs sk acq a d s
  | .st h sz ofs sk rel a b => Sys2Proof.Machine.execSt h sz ofs sk rel a b s
  | .ldx h slot ofs sk acq a d => Sys2Proof.Machine.execLdx h slot ofs sk acq a d s
  | .stx h slot ofs sk rel a b => Sys2Proof.Machine.execStx h slot ofs sk rel a b s
  | .pref h sz ofs sk a => Sys2Proof.Machine.execPref h sz ofs sk a s
  | .atom h f sk od a b d => Sys2Proof.Machine.execAtom h f sk od a b d s
  | .red h f sk rel a b => Sys2Proof.Machine.execRed h f sk rel a b s
  | .ctadd h sk rel a b => Sys2Proof.Machine.execCtadd h sk rel a b s
  | .ctwait h sk timeout a b d => Sys2Proof.Machine.execCtwait h sk timeout a b d s
  | .ctrd h sk acq a d => Sys2Proof.Machine.execCtrd h sk acq a d s
  | .barInit h a b => Sys2Proof.Machine.execBarInit h a b s
  | .barExpect h a b => Sys2Proof.Machine.execBarExpect h a b s
  | .barArrive h sk a d => Sys2Proof.Machine.execBarArrive h sk a d s
  | .barArrivex h sk a b d => Sys2Proof.Machine.execBarArrivex h sk a b d s
  | .barPhase h a d => Sys2Proof.Machine.execBarPhase h a d s
  | .fence h kind sk => Sys2Proof.Machine.execFence h kind sk s
  | .scopew h sk a d => Sys2Proof.Machine.execScopew h sk a d s
  | .scoper h sk a d => Sys2Proof.Machine.execScoper h sk a d s
  | .icinv h sk a b => Sys2Proof.Machine.execIcinv h sk a b s
  | .ipref h l1 a b => Sys2Proof.Machine.execIpref h l1 a b s
  | .ipin h l1 a b => Sys2Proof.Machine.execIpin h l1 a b s
  | .irel h l1 a b => Sys2Proof.Machine.execIrel h l1 a b s
  | .cwb h l1 a b => Sys2Proof.Machine.execCwb h l1 a b s
  | .bra h off => Sys2Proof.Machine.execBra h off s
  | .brx h a off => Sys2Proof.Machine.execBrx h a off s
  | .call h dem land off => Sys2Proof.Machine.execCall h dem land off s
  | .callx h dem a land => Sys2Proof.Machine.execCallx h dem a land s
  | .ret h => Sys2Proof.Machine.execRet h s
  | .unwind h => Sys2Proof.Machine.execUnwind h s
  | .loop h n off => Sys2Proof.Machine.execLoop h n off s
  | .lbrk h k => Sys2Proof.Machine.execLbrk h k s
  | .exit h => Sys2Proof.Machine.execExit h s
  | .yield h => Sys2Proof.Machine.execYield h s
  | .macroOp h idx p0 p1 p2 => Sys2Proof.Machine.execMacroOp h idx p0 p1 p2 s
  | .trap h code => Sys2Proof.Machine.execTrap h code s
  | .rtt h => Sys2Proof.Machine.execRtt h s
  | .bkpt h code => Sys2Proof.Machine.execBkpt h code s
  | .frq h dem d => Sys2Proof.Machine.execFrq h dem d s
  | .migrate h a => Sys2Proof.Machine.execMigrate h a s
  | .launch h a => Sys2Proof.Machine.execLaunch h a s
  | .cpyk h a => Sys2Proof.Machine.execCpyk h a s
  | .cprepl h a => Sys2Proof.Machine.execCprepl h a s
  | .fmtbind h slot a d => Sys2Proof.Machine.execFmtbind h slot a d s
  | .fmtq h slot d => Sys2Proof.Machine.execFmtq h slot d s
  | .fmtfence h => Sys2Proof.Machine.execFmtfence h s
  | .psave h a => Sys2Proof.Machine.execPsave h a s
  | .talloc h hd fa a => Sys2Proof.Machine.execTalloc h hd fa a s
  | .trel h hd => Sys2Proof.Machine.execTrel h hd s
  | .thand h hd a => Sys2Proof.Machine.execThand h hd a s
  | .twr h hd a => Sys2Proof.Machine.execTwr h hd a s
  | .trd h hd a => Sys2Proof.Machine.execTrd h hd a s
  | .tzero h hd => Sys2Proof.Machine.execTzero h hd s
  | .mma h hd ha hb fa fb fc rm => Sys2Proof.Machine.execMma h hd ha hb fa fb fc rm s
  | .tcvt h hd ha fa fb rm sat a => Sys2Proof.Machine.execTcvt h hd ha fa fb rm sat a s
  | .thad h hd a => Sys2Proof.Machine.execThad h hd a s
  | .ttr h hd ha a => Sys2Proof.Machine.execTtr h hd ha a s
  | .tld h hd fa a => Sys2Proof.Machine.execTld h hd fa a s
  | .tst h hd fa a => Sys2Proof.Machine.execTst h hd fa a s
  | .tldw h hd fa a => Sys2Proof.Machine.execTldw h hd fa a s
  | .twait h hd => Sys2Proof.Machine.execTwait h hd s
  | .tq h hd => Sys2Proof.Machine.execTq h hd s
  | .sequencerIssue cob => Sys2Proof.Machine.execSequencerIssue cob s

end Sys2Proof.Machine
end

