-- ==== Sys2Proof/Machine/Agenda.lean ====
section
/-!
DEFINITION. The agenda of the part: which of its own events comes next when no instruction is to issue and no input
is due (log 1), and the machine with one instruction ready to run (log 2).
-/
namespace Sys2Proof.Machine

/-! The events that can come about (log 1): each list names candidates; the first whose meaning changes the state is
the next. -/

/-- No boot step has run since the power came (01 R32). -/
def State.unbooted (s : State) : Bool := !s.pkg.ready && !s.pkg.fatal && s.pkg.steps.all fun r => r == 0

/-- A mailbox command that waited for the host can go on: the line is given up, or never will be (02 R48, R52). -/
def State.mailboxGoes (s : State) (m : Mbox) : Bool :=
  match m.wait with
  | some (line, _) => m.dead || !(s.link.snoops.any fun n => n.line == line)
  | none => false

def State.mailboxEvents (s : State) : List Instr :=
  (if s.mailboxGoes s.x.pcmd then [.create, .resize, .destroy, .deschedule, .schedule, .setreg] else [])
    ++ (if s.mailboxGoes s.x.img then [.register, .retire] else [])
    ++ (if s.mailboxGoes s.x.att then [.attestationRequest] else [])
    ++ (if s.mailboxGoes s.x.code then [.load, .unload] else [])

/-- Events of an agent's outstanding operations. -/
def Op.events (i : Nat) (o : Op) : List Instr :=
  match o.st with
  | .ready _ | .walker _ _ => [.deferredResultReturn i o.id .fixed]
  | .snoop _ => [.crossDieTimeout i o.id]
  | .regul _ _ => [.crossDieTimeout i o.id, .remoteRequestTimeout i o.id]
  | .remote _ _ => [.remoteRequestTimeout i o.id]
  | .parked _ _ | .held => []

/-- Events of an access of an agent's own, which is its operation 0. -/
def Own.events (i : Nat) (o : Own) : List Instr :=
  if o.dead.isSome || o.data.isSome then []
  else
    match o.st with
    | .snoop _ => [.crossDieTimeout i 0]
    | .regul _ _ => [.crossDieTimeout i 0, .remoteRequestTimeout i 0]
    | .remote _ _ => [.remoteRequestTimeout i 0]
    | .ready _ | .parked _ _ | .walker _ _ | .held => []

/-- Events of an agent. -/
def Agent.events (e : Nat × Agent) : List Instr :=
  let (i, a) := e
  (a.pend.ops.flatMap (Op.events i)) ++ (a.pend.own.flatMap (Own.events i)) ++ (if a.flt.trapping then [.trapEntry i] else [])
    ++ (if a.pend.freq.isSome then [.frameGrant i, .frameSpillEscape i] else [])
    ++ (if a.pend.mig.isSome then [.migrateTransfer i] else []) ++ (if a.pend.ct.isSome then [.ctwaitTimeout i] else [])
    ++ (if a.pend.rejoin.isSome then [.rejoinTimeout i] else [])
    ++ (if a.pend.mq.isEmpty then [] else [.matrixEntryComplete i, .matrixEntryStart i 0, .matrixEntryStart i 1])

/-- The engine of a copy request can act on it: it is not waiting for a peer or for the host. -/
def State.copyFree (s : State) (c : Copy) : Bool :=
  match c.wait with
  | some (.remote _ _) => false
  | some (.snoop l) => !(s.link.snoops.any fun n => n.line == l)
  | _ => true

/-- Events of a copy request. -/
def State.copyEvents (s : State) (e : Nat × Copy) : List Instr :=
  let (i, c) := e
  (match c.asking with | some u => [.crossDieTimeout i u, .remoteRequestTimeout i u] | none => [])
    ++ (if s.copyFree c then [.copyElement i] else []) ++ [.copyRequestComplete i]

/-- Events of a cob. -/
def cobEvents (e : Nat × CobSt) : List Instr :=
  let (c, x) := e
  (x.planes.filterMap fun p => match p.img with | some m => if p.loading then some (.planeLoadComplete c m) else none | none => none)
    ++ (match x.waitOps with | (_, ms) :: _ => ms.map (.planeLoad c) | [] => [])
    ++ (if x.tallocQ.isEmpty then [] else [.tileGranuleGrant c])
    ++ (match x.lend with | .own => [] | .lent _ => [.revocation c] | .revoking _ _ => [.revocationReturn c])

/-- Events of the format slots and the scope entries of a context. -/
def State.ctxEvents (s : State) (v : Nat) (e : Nat × Ctx) : List Instr :=
  let (c, x) := e
  (x.scopes.filterMap fun (k, y) => if y.st == .pending then some (.scopeUpdateEffect v c k) else none)
    ++ x.slots.flatMap fun (n, b) =>
        if b.st = 2 then
          [.drainComplete v c n, .drainTimeout v c n]
            ++ (if b.drained then (s.cobsOf v c).map fun k => .planeLoad k b.img else [])
        else []

/-- Streams with a record to fetch, or entries to write out or to reload. -/
def Vd.streamEvents (v : Nat) (x : Vd) : List Instr :=
  x.streams.filterMap fun (n, y) =>
    if y.toPut.isEmpty && y.reload == 0 && (y.fifo.isEmpty || y.slot.isSome) then none else some (.streamFetch v n)

/-- Events of a device. -/
def State.vdEvents (s : State) (e : Nat × Vd) : List Instr :=
  let (v, x) := e
  (x.ctxs.flatMap (s.ctxEvents v)) ++ x.streamEvents v ++ [.placementPass v]
    ++ (if x.st == .held && x.cmd then
          (s.pods.filterMap fun (_, p) => if p.vd = v ∧ !p.out then some (Instr.preemptionRequest v p.ctx p.cob) else none) else [])
    ++ (match s.x.pcmdRun with
        | some (2, n) => if n = v then [.resizeComplete v] else []
        | some (3, n) => if n = v then [.destroyComplete v] else []
        | some (4, n) => if n = v then [.descheduleSaved v] else []
        | _ => [])

/-- A relock whose end has come by a time. -/
def relockEnds (t : Nat) (e : Nat × Die) : List Instr :=
  let (d, x) := e
  (if x.islA.relock && decide (x.islA.till ≤ t) then [.pllRelockEnd d 0] else [])
    ++ (if x.islB.relock && decide (x.islB.till ≤ t) then [.pllRelockEnd d 1] else [])

/-- Events of a die: the migration engine, a relock, a gating or a wake that ends. -/
def State.dieEvents (s : State) (e : Nat × Die) : List Instr :=
  let (d, x) := e
  (x.migs.flatMap fun (i, m) => if m.phase = 1 then [.migrationPhase2 d i] else [.migrationComplete d i])
    ++ (if x.ringHead = x.ringTail then [] else [.move d])
    ++ relockEnds s.now e
    ++ (match x.gate with | .gating => [.gatingComplete d] | .waking => [.wakeComplete d] | .on | .gated => [])

/-- Events of time slices and pre-emption requests, by their keys. -/
def sliceEvents (k : Nat) : List Instr :=
  [.sliceCycleLimit (k / 288 / 16) (k / 288 % 16) (k % 288), .sliceWallLimit (k / 288 / 16) (k / 288 % 16) (k % 288)]

def preEvents (k : Nat) : List Instr :=
  [.preemptionBudgetEnd (k / 288 / 16) (k / 288 % 16) (k % 288), .saveComplete (k / 288 / 16) (k / 288 % 16) (k % 288)]

/-- Idle margin cobs with the devices they may be lent to. -/
def State.lendEvents (s : State) : List Instr :=
  s.vds.flatMap fun (_, x) => (setBitsFrom x.desc.mset 0 288).flatMap fun c =>
    if s.idle c then (s.vds.map fun (v, _) => Instr.marginCobLend c v) else []

/-- The agent is issuable, or is again after the next clock (12 R346: a `yield` lasts one). -/
def State.eligible (s : State) (i : Nat) (a : Agent) : Bool :=
  !a.pos.out && s.issuable i { a with sched := { a.sched with yielded := false } }

/-- The agent would get on by issuing: its last attempt did not only wait. -/
def State.runs (s : State) (i : Nat) (a : Agent) : Bool := !a.sched.polled && s.eligible i a

/-- A cob whose sequencer has an issuable context, and an island with an issuable thread. -/
def State.issueEvents (s : State) (p : Nat → Agent → Bool) : List Instr :=
  let l := (s.agents.filter fun (i, a) => p i a).map (·.2)
  ((l.filter (·.id.seq)).map fun a => cobOfCore a.pos.core).eraseDups.map .sequencerIssue
    ++ ((l.map fun a => (dieOfCore a.pos.core, islandOfCob (cobOfCore a.pos.core))).eraseDups.map fun (d, i) => .issueCycle d i)

/-- Events of a running checkpoint: its next step, and what ends the work in flight that it waits for (01 R38). -/
def State.ckptEvents (s : State) : List Instr :=
  if s.pkg.ckptStage = 0 ∨ 5 < s.pkg.ckptStage then []
  else
    .managementCheckpointCommand :: (if s.run.window then [.regulatorWindow] else [])
      ++ (s.link.snoops.flatMap fun n => [Instr.bisnpResend n.line, .bisnpTimeout n.line])
      ++ (s.agents.flatMap fun (i, a) => (a.pend.ops.filter (·.det)).flatMap (Op.events i)) ++ (s.copies.flatMap s.copyEvents)
      ++ s.vds.flatMap fun (v, x) => x.ctxs.flatMap fun (c, y) => y.slots.flatMap fun (n, b) =>
          if b.st = 2 then [.drainComplete v c n, .drainTimeout v c n] else []

/-- What the part may do next, in order. -/
def State.candidates (s : State) : List Instr :=
  if s.unbooted then [.boot { cold := true, prim := [], alt := [] }]
  else if s.pkg.stopped then s.ckptEvents
  else if !s.pkg.ready then []
  else
    (if s.pkg.ckptDue && !s.changing then [.managementCheckpointCommand] else [])
      ++ (if s.run.window then [.regulatorWindow] else []) ++ s.mailboxEvents ++ [.attestationKeyGeneration]
      ++ (if s.x.invRun.isEmpty then [] else [.shootdownComplete])
      ++ (s.x.owner.filterMap fun (g, o) => if o = 0xFD then some (Instr.granuleZeroed g) else none)
      ++ (s.link.snoops.flatMap fun n => [Instr.bisnpResend n.line, .bisnpTimeout n.line])
      ++ ((s.agents.filter fun (i, a) => !s.runs i a).flatMap Agent.events) ++ (s.copies.flatMap s.copyEvents) ++ (s.cobs.flatMap cobEvents)
      ++ (s.dies.flatMap s.dieEvents) ++ (s.preReqs.flatMap fun e => preEvents e.1) ++ (s.slices.flatMap fun e => sliceEvents e.1)
      ++ (s.grids.flatMap fun (g, _) => [Instr.watchdogExpiry g, .blockingGridTimeout g, .launchEnd g])
      ++ (s.teams.filterMap fun (t, x) => if s.childWait t x then some (Instr.childWaitSwap t) else none)
      ++ (s.vds.flatMap s.vdEvents) ++ s.lendEvents ++ s.issueEvents s.runs
      ++ ((s.agents.filter fun (i, a) => s.runs i a).flatMap Agent.events) ++ s.issueEvents s.eligible
      ++ s.dies.flatMap (relockEnds (s.run.pulse + 999))

/-- A meaning changes the state, or ends the run. -/
def changes (i : Instr) (s : State) : Bool :=
  match exec i s with
  | .next t => decide (t ≠ s)
  | _ => true

/-- The next event of the part itself; when nothing can come about, time passes (log 1). -/
def State.agenda (s : State) : Instr := (s.candidates.find? fun i => changes i s).getD (.syncPulse 0)

/-- An input is due: its time has come. -/
def State.inputDue (s : State) : Option (Instr × State) :=
  match s.run.inputs with
  | [] => none
  | (t, e) :: rest => if t ≤ s.now then some (e, { s with run := { s.run with inputs := rest } }) else none

/-! The machine with one instruction ready to run (log 2). -/

/-- Tables that map the first GiB of virtual addresses to the first GiB of memory, readable, writable and
executable: level 5, 4 and 3 at 0x1000, 0x2000 and 0x3000 (08 R216, R217). -/
def loadTables (m : List Host.Cell) : List Host.Cell :=
  memPuts (memPuts (memPuts m 0x1000 (bytesOf 0x2007 8)) 0x2000 (bytesOf 0x3007 8)) 0x3000 (bytesOf 0xF 8)

/-- Where the instruction is stored. -/
def loadPc : Nat := 0x10000

/-- A part that has booted, with a device 0 that owns granule 0, one context, one grid of one thread placed on core 0
and the word at its program counter; the thread issues next. -/
def State.loadWord (s : State) (w : Nat) : State :=
  { s with
    pkg := { s.pkg with ready := true, home := upFrom 0 8 }
    dies := tset s.dies 0 { s.die 0 with gate := .on }
    x := { s.x with owner := tset s.x.owner 0 0 }
    vds := tset s.vds 0 { s.vd 0 with
      st := .active
      desc := { (s.vd 0).desc with gset := 1, nctx := 1 }
      ctxs := tset (s.vd 0).ctxs 0 { (s.vd 0).ctx 0 with s1root := 1 } }
    grids := tset s.grids 1 { (tgetD s.grids 1 {}) with
      vd := 0, st := .running, placed := true, lrec := { spill := 0x20000, spillb := 4096, argp := 0x40000 } }
    teams := tset s.teams 2 ⟨1, 0, 3, 0, 0, 1, 0, .resident, 1, true, false, 0, [], [], 0⟩
    pods := tset s.pods 3 ⟨1, 0, 0, 0, 0, none, true, [], false, [], 0, none⟩
    agents := tset s.agents 0
      { id := { grid := 1, team := 2, pod := 3 }
        arch := { pc := BitVec.ofNat 64 loadPc, frames := [newFrame 4 16 0 false false 0 [0]] } }
    mem := memPuts (loadTables s.mem) loadPc (bytesOf w 8)
    run := { s.run with issueQ := [0], inputs := [], nextId := 5 } }

end Sys2Proof.Machine
end

