-- ==== Sys2Proof/Machine/Step.lean ====
section
/-!
DEFINITION. One step of the machine (log 1): the instruction of the agent that issues next, or the input that is due,
or the part's own next event. `State.withFetchWord` puts an instruction where the next step fetches it (log 2).
-/
namespace Sys2Proof.Machine

/-- The agent in focus issues its next instruction, or, when it cannot issue, its waits are examined. -/
def stepAgent (i : Nat) (s : State) : Out :=
  match tget s.agents i with
  | none => .next s
  | some a =>
    if !a.canIssue then .next (s.poll i)
    else if !s.mayIssue a then .next s
    else
      let s := { s with run := { s.run with cur := some i } }
      match s.fetch i a with
      | (.wait, s) => .next s
      | (.fault f, s) => .next (s.raise i f)
      | (.instr ins w, s) => exec ins { s with run := { s.run with word := w } }

/-- One step of the machine. -/
def step (s : State) : Host.Outcome State Fault Refusal :=
  match s.run.issueQ with
  | i :: q => stepAgent i { s with run := { s.run with issueQ := q } }
  | [] =>
    match s.inputDue with
    | some (e, s) => exec e s
    | none => exec s.agenda s

/-- The machine with the instruction `w` stored where agent 0 fetches next: a booted part, a device, a context whose
tables map the first GiB, a grid of one thread on core 0 (log 2). -/
def State.withFetchWord (s : State) (nbits w : Nat) : State :=
  s.loadWord (w % 2 ^ nbits)

end Sys2Proof.Machine
end

