-- ==== Sys2Proof/Machine/MemoryModel.lean ====
section
/-!
DEFINITION. The memory model of the spec as it is stated, on candidate executions (09 R226, R227, R236 to R246, R253, R254,
02 R49, R51): program order, coherence, synchronisation, happens-before, the orders of a die and of sc fences. The machine
performs its accesses in one order, which is one of the executions allowed here (log 5).
-/
namespace Sys2Proof.Machine.MM

/-- What an event does; `kick` is a `cpyk` in the program order of its thread (09 R253). -/
inductive Kind where
  | read | write | rmw | fence | kick
  deriving DecidableEq, Repr

/-- A scope as an operation carries it: a set of cores, whether the host, the engines and the ports are members, and whether
it is entry 0 (09 R229, R230). -/
structure Scope where
  cores : Nat := 0
  system : Bool := false
  self : Bool := false
  deriving DecidableEq, Repr

/-- The two classes of hosts (02 R51). -/
inductive HostCls where
  | tso | weak
  deriving DecidableEq, Repr

/-- An event. `core` is none for an agent that is a member of scope 5 only; `thread` is the thread, or the thread that
kicked the copy request; `elem` is the index of a copy request's element (09 R226). -/
structure Ev where
  agent : Nat
  thread : Nat
  core : Option Nat
  kind : Kind
  loc : Nat := 0
  rv : Nat := 0
  wv : Nat := 0
  acq : Bool := false
  rel : Bool := false
  sc : Bool := false
  scope : Scope := {}
  elem : List Nat := []
  /-- the site at which an atomic executes; 2 is the home slice (09 R229, R245) -/
  site : Nat := 2
  /-- an operation of the host, which is of this class (02 R51) -/
  host : Option HostCls := none
  /-- the `cpyk` event that kicked the copy request this event belongs to (09 R253) -/
  kicked : Option Nat := none
  /-- a write to the records of a copy request (09 R253) -/
  recWr : Bool := false
  /-- the grid whose unit this event belongs to, or whose launch acquire or release (09 R226, R254) -/
  grid : Option Nat := none
  launch : Bool := false
  deriving DecidableEq, Repr

/-- A candidate execution: events in the order of issue, the write each event reads (none: the initial value 0), the
writes in coherence order, the sc fences in the order S, for each die one order of all writes, and the dependences. -/
structure Exec where
  evs : List Ev
  rf : List (Option Nat)
  co : List Nat
  sc : List Nat
  dieOrd : List (List Nat)
  deps : List (Nat × Nat)
  deriving DecidableEq, Repr

def none0 : Ev := { agent := 0, thread := 0, core := none, kind := .fence }

def Exec.ev (x : Exec) (i : Nat) : Ev := x.evs.getD i none0
def Exec.ids (x : Exec) : List Nat := upFrom 0 x.evs.length
def Ev.reads (e : Ev) : Bool := e.kind == .read || e.kind == .rmw
def Ev.writes (e : Ev) : Bool := e.kind == .write || e.kind == .rmw

/-- Operations that acquire: the part's as they are marked; of a host those of the table of 02 R51, plain loads where its
stores and loads are totally ordered. -/
def Ev.acquires (e : Ev) : Bool :=
  match e.host with
  | none => e.acq
  | some .tso => e.kind == .read
  | some .weak => e.acq && (e.kind == .read || e.kind == .fence)

/-- Operations that release: the part's as they are marked; of a host plain stores and locked operations, or where it is
weakly ordered those with release (02 R51). -/
def Ev.releases (e : Ev) : Bool :=
  match e.host with
  | none => e.rel
  | some .tso => e.writes
  | some .weak => e.rel && (e.writes || e.kind == .fence)

/-- A release fence that the write `w` after it publishes: of a weakly ordered host a release fence before a plain store, a
full fence before a read-modify-write (02 R51). -/
def Ev.relFence (f w : Ev) : Bool :=
  f.kind == .fence &&
    match f.host with
    | none => f.rel
    | some .tso => false
    | some .weak => (f.rel && w.kind == .write) || (f.sc && w.kind == .rmw)

/-- An acquire fence that what was read by `r` before it synchronises with: of a weakly ordered host one after a plain load
(02 R51). -/
def Ev.acqFence (f r : Ev) : Bool :=
  f.kind == .fence && f.acquires && r.reads && (f.host.isNone || r.kind == .read)

/-- The scope an operation pairs with: a host's is the system (02 R51). -/
def Ev.pairs (e : Ev) : Scope := if e.host.isSome then { cores := 2 ^ 1152 - 1, system := true } else e.scope

/-- One element of a copy request comes before another: in one dimension of its iterator, the others equal. -/
def elemBefore : List Nat → List Nat → Bool
  | a :: as, b :: bs => if a = b then elemBefore as bs else decide (a < b) && as == bs
  | _, _ => false

/-- A launch acquire or release of one core (09 R254). -/
def Ev.ofLaunch (e : Ev) : Bool := e.launch && e.kind == .fence

/-- Program order (09 R226, R236): of the elements of a copy request that of each dimension; the acquires and releases of a
launch on different cores are in no order. -/
def Exec.po (x : Exec) (i j : Nat) : Bool :=
  let a := x.ev i
  let b := x.ev j
  a.agent == b.agent && decide (i < j) && (a.elem.isEmpty || b.elem.isEmpty || elemBefore a.elem b.elem)
    && (!(a.ofLaunch && b.ofLaunch) || a.core == b.core)

/-- Orders beside program order: what precedes a `cpyk` comes before the acquire of its request (09 R253); the acquire of a
launch on a core comes before the units there, and their writes before its release there (R254). -/
def Exec.eng (x : Exec) (i j : Nat) : Bool :=
  let a := x.ev i
  let b := x.ev j
  (a.kind == .kick && b.kicked == some i && b.kind == .fence && b.acq)
    || (a.grid.isSome && a.grid == b.grid && a.core == b.core &&
        ((a.ofLaunch && a.acq && !b.launch) || (!a.launch && a.writes && b.ofLaunch && b.rel)))

/-- A write to the records of a copy request before its `cpyk` comes before the request's reads of it, and nothing else does
by this (09 R253). -/
def Exec.recs (x : Exec) (i j : Nat) : Bool :=
  match (x.ev j).kicked with
  | some k => (x.ev i).recWr && (x.ev i).writes && x.po i k && (x.ev j).reads
  | none => false

/-- Place in a list. -/
def place (l : List Nat) (i : Nat) : Nat := (l.findIdx? fun x => x == i).getD l.length

/-- Write `i` precedes write `j` to the same location in coherence order. -/
def Exec.cob (x : Exec) (i j : Nat) : Bool := (x.ev i).loc == (x.ev j).loc && decide (place x.co i < place x.co j)

/-- The write read precedes write `j`; the initial value precedes every write. -/
def Exec.rfBefore (x : Exec) (w : Option Nat) (j : Nat) : Bool :=
  match w with
  | none => true
  | some i => x.cob i j

/-- What event `i` reads. -/
def Exec.src (x : Exec) (i : Nat) : Option Nat := x.rf.getD i none

/-- The writes to a location in coherence order. -/
def Exec.coAt (x : Exec) (l : Nat) : List Nat := x.co.filter fun i => (x.ev i).loc == l

/-- The release sequence of a write: it and the read-modify-writes that follow without a break (09 R239). -/
def Exec.relSeq (x : Exec) (i : Nat) : List Nat :=
  i :: ((x.coAt (x.ev i).loc).drop (place (x.coAt (x.ev i).loc) i + 1)).takeWhile fun j => (x.ev j).kind == .rmw

/-- Event `j` reads write `i` or its release sequence. -/
def Exec.readsSeq (x : Exec) (i j : Nat) : Bool :=
  (x.ev j).reads && match x.src j with | some w => (x.relSeq i).contains w | none => false

/-- An agent is a member of a scope. -/
def Scope.has (k : Scope) (e : Ev) : Bool :=
  match e.core with
  | some c => bitAt k.cores c
  | none => k.system

/-- Condition 2 of 09 R240. -/
def scopesMeet (a b : Ev) : Bool :=
  a.pairs.has a && a.pairs.has b && b.pairs.has a && b.pairs.has b
    && (!(a.pairs.self || b.pairs.self) || a.thread == b.thread)

/-- Synchronises-with (09 R240, R244, 02 R51). -/
def Exec.sw (x : Exec) (i j : Nat) : Bool :=
  let a := x.ev i
  let b := x.ev j
  let after (w : Nat) : Bool := x.po i w && (x.ev w).writes && a.relFence (x.ev w)
  i != j && scopesMeet a b &&
    ((a.writes && a.releases && b.reads && b.acquires && x.readsSeq i j)
      || (b.reads && b.acquires && x.ids.any fun w => after w && x.readsSeq w j)
      || (a.writes && a.releases && x.ids.any fun r => b.acqFence (x.ev r) && x.po r j && x.readsSeq i r)
      || (x.ids.any fun w => after w && x.ids.any fun r => b.acqFence (x.ev r) && x.po r j && x.src r == some w)
      || (a.sc && b.sc && decide (place x.sc i < place x.sc j)))

/-- Events reached from a list in one more step. -/
def closeStep (r : Nat → Nat → Bool) (ids l : List Nat) : List Nat :=
  ids.filter fun j => l.contains j || l.any fun i => r i j

/-- The closure of a relation from the successors of an event. -/
def close (r : Nat → Nat → Bool) (ids : List Nat) : Nat → List Nat → List Nat
  | 0, l => l
  | n + 1, l => close r ids n (closeStep r ids l)

/-- What each event happens before (09 R241). -/
def Exec.hbTable (x : Exec) : List (List Nat) :=
  let r (i j : Nat) : Bool := x.po i j || x.eng i j || x.sw i j
  x.ids.map fun i => close r x.ids x.evs.length (x.ids.filter (r i))

def hbIn (t : List (List Nat)) (i j : Nat) : Bool := (t.getD i []).contains j

/-- Every read returns the value of the write it reads, at its location. -/
def Exec.readsOk (x : Exec) : Bool :=
  x.ids.all fun j => !(x.ev j).reads ||
    match x.src j with
    | none => (x.ev j).rv == 0
    | some w => (x.ev w).writes && (x.ev w).loc == (x.ev j).loc && (x.ev w).wv == (x.ev j).rv

/-- The four conditions of 09 R237; a request's reads of its records find what was written to them before (R253). -/
def Exec.coherent (x : Exec) (t : List (List Nat)) : Bool :=
  x.ids.all fun i => !hbIn t i i && x.ids.all fun j =>
    let a := x.ev i
    let b := x.ev j
    !((hbIn t i j || x.recs i j) && a.loc == b.loc) ||
      ((!(a.writes && b.writes) || x.cob i j)
        && (!(a.reads && b.writes) || (x.rfBefore (x.src i) j && x.src i != some j))
        && (!(a.writes && b.reads) || (match x.src j with | none => false | some w => w == i || x.cob i w))
        && (!(a.reads && b.reads) || (match x.src i with
            | none => true
            | some v => match x.src j with | none => false | some w => w == v || x.cob v w)))

/-- An atomic of the part at scope 5 at its home slice: atomic toward a host's locked operations (02 R49). -/
def Ev.hostSafe (e : Ev) : Bool := e.host.isNone && e.kind == .rmw && e.scope.system && e.site == 2

/-- Write `w` may fall between the read and the write of the read-modify-write `e`: not one of the same side, and of the
other side not an operation that is atomic with it (02 R49, 09 R246). -/
def Ev.cut (e w : Ev) : Bool :=
  e.host.isSome != w.host.isSome && !(e.hostSafe && w.kind == .rmw) && !(w.hostSafe && e.kind == .rmw)

/-- No write falls between the read and the write of a read-modify-write but one that is not atomic with it
(09 R246). -/
def Exec.atomic (x : Exec) : Bool :=
  x.ids.all fun i => (x.ev i).kind != .rmw ||
    (x.rfBefore (x.src i) i && x.src i != some i &&
      (x.coAt (x.ev i).loc).all fun w =>
        w == i || x.src i == some w || !(x.rfBefore (x.src i) w && x.cob w i) || (x.ev i).cut (x.ev w))

/-- A list names each of some events once. -/
def lists (l ids : List Nat) : Bool := ids.all (fun i => l.count i == 1) && l.all fun i => ids.contains i

/-- The coherence orders list every write (09 R237), and S every sc fence (R244). -/
def Exec.total (x : Exec) : Bool :=
  lists x.co (x.ids.filter fun i => (x.ev i).writes) && lists x.sc (x.ids.filter fun i => (x.ev i).sc)

/-- No value comes out of a cycle of reads-from and dependence (09 R238). -/
def Exec.noThinAir (x : Exec) : Bool :=
  let r (i j : Nat) : Bool := x.src j == some i || x.deps.contains (i, j)
  x.ids.all fun i => !(close r x.ids x.evs.length (x.ids.filter (r i))).contains i

/-- The last write to a location among a list. -/
def Exec.lastAt (x : Exec) (l : Nat) (ws : List Nat) : Option Nat := (ws.filter fun w => (x.ev w).loc == l).getLast?

/-- The reads of one agent fit an order of all writes: each reads the last write at a point of the order, which is not before
the point of a read that precedes it; `pts` holds the points of the reads so far. -/
def Exec.fits (x : Exec) (t : List (List Nat)) (ord : List Nat) (pts : List (Nat × Nat)) : List Nat → Bool
  | [] => true
  | r :: rs =>
    let n := (pts.map fun (q, k) => if x.po q r || hbIn t q r then k else 0).foldl max 0
    match (upFrom n (ord.length + 1 - n)).find? fun k => x.lastAt (x.ev r).loc (ord.take k) == x.src r with
    | some k => x.fits t ord ((r, k) :: pts) rs
    | none => false

/-- Observers on one die see all writes in one order (09 R243). -/
def Exec.dieOk (x : Exec) (t : List (List Nat)) (die : Nat) (ord : List Nat) : Bool :=
  lists ord (x.ids.filter fun i => (x.ev i).writes)
    && (x.co.all fun i => x.co.all fun j => !x.cob i j || decide (place ord i < place ord j))
    && (x.evs.map (·.agent)).eraseDups.all fun a =>
        x.fits t ord [] (x.ids.filter fun i =>
          (x.ev i).agent == a && (x.ev i).reads && ((x.ev i).core.map fun c => dieOfCore c) == some die)

/-- The order S of sc fences (09 R244). -/
def Exec.scOk (x : Exec) (t : List (List Nat)) : Bool :=
  (x.sc.all fun f => x.sc.all fun g => !hbIn t f g || decide (place x.sc f < place x.sc g))
    && x.sc.all fun f => x.sc.all fun g =>
        !(decide (place x.sc f < place x.sc g) && scopesMeet (x.ev f) (x.ev g)) ||
          x.ids.all fun w => x.ids.all fun r =>
            !((x.ev w).writes && (x.ev r).reads && (x.ev w).loc == (x.ev r).loc && x.po g r
                && (x.po w f || hbIn t w f || x.ids.any fun a => x.po a f && (x.ev a).reads && x.src a == some w)) ||
              (match x.src r with | none => false | some v => v == w || x.cob w v)

/-- The execution is one the spec allows. -/
def Exec.allowed (x : Exec) : Bool :=
  let t := x.hbTable
  x.total && x.readsOk && x.coherent t && x.atomic && x.noThinAir && x.scOk t
    && (upFrom 0 12).all fun d => x.dieOk t d (x.dieOrd.getD d [])

/-! Outcomes: a list of events with the values its reads return. -/

/-- Every way to put an element into a list. -/
def inserts (a : Nat) : List Nat → List (List Nat)
  | [] => [[a]]
  | b :: bs => (a :: b :: bs) :: (inserts a bs).map (b :: ·)

/-- Every order of a list. -/
def orders : List Nat → List (List Nat)
  | [] => [[]]
  | a :: as => (orders as).flatMap (inserts a)

/-- Every choice of a write for each event that reads. -/
def sources (evs : List Ev) : List Ev → List (List (Option Nat))
  | [] => [[]]
  | e :: es =>
    let here : List (Option Nat) :=
      if e.reads then
        (if e.rv = 0 then [none] else []) ++
          ((upFrom 0 evs.length).filter fun w =>
            let v := evs.getD w none0
            v.writes && v.loc == e.loc && v.wv == e.rv).map some
      else [none]
    here.flatMap fun c => (sources evs es).map (c :: ·)

/-- The dies of the readers. -/
def readDies (evs : List Ev) : List Nat :=
  (evs.filterMap fun e => if e.reads then e.core.map dieOfCore else none).eraseDups

/-- Some execution with these events and values is allowed. -/
def outcomeAllowed (evs : List Ev) (deps : List (Nat × Nat)) : Bool :=
  let ids := upFrom 0 evs.length
  let ws := ids.filter fun i => (evs.getD i none0).writes
  let fs := ids.filter fun i => (evs.getD i none0).sc
  (sources evs evs).any fun rf => (orders ws).any fun co => (orders fs).any fun sc =>
    let x : Exec := { evs, rf, co, sc, dieOrd := [], deps }
    let t := x.hbTable
    x.readsOk && x.coherent t && x.atomic && x.noThinAir && x.scOk t
      && (upFrom 0 12).all fun d => if (readDies evs).contains d then (orders ws).any (x.dieOk t d) else true

/-! Orderings each operation may carry (09 R227). -/

inductive MemOp where
  | ld | st | atom | red | ctadd | ctwait | ctrd | bar | fence | engine
  deriving DecidableEq, Repr

inductive Order where
  | rlx | acq | rel | ar | sc
  deriving DecidableEq, Repr

def MemOp.orders : MemOp → List Order
  | .ld => [.rlx, .acq]
  | .st => [.rlx, .rel]
  | .atom => [.rlx, .acq, .rel, .ar]
  | .red => [.rlx, .rel]
  | .ctadd => [.rlx, .rel]
  | .ctwait => [.acq]
  | .ctrd => [.rlx, .acq]
  | .bar => [.rel]
  | .fence => [.acq, .rel, .ar, .sc]
  | .engine => [.rlx, .acq, .rel, .ar]

end Sys2Proof.Machine.MM
end

