-- ==== Sys2Proof/Safety.lean ====
section
/-!
DEFINITION. What claims about the machine are stated in: safe runs and kept properties, an agent that issues, the
shapes of completion that instructions share, and exact values written apart from the meanings.
-/
namespace Sys2Proof.Machine

/-- Both memories are in canonical form (log 4). -/
def State.memWf (s : State) : Prop := Memory.wf s.mem = true ∧ Memory.wf s.scr = true

/-- The invariant of memory that every step keeps; the near tier that a checkpoint has written stands in memory, in the
reserve. -/
def State.memInv (s : State) : Prop := s.memWf

/-- A run of `k` steps goes on to a next state. -/
def runsOn (k : Nat) (s : State) : Prop := ∃ s', Host.Core.run Sys2Proof.core k s = .next s'

/-- A safe run: no step of it stops. -/
def State.safe (s : State) : Prop := ∀ k, runsOn k s

/-- A property that every step keeps. -/
def kept (p : State → Prop) : Prop := ∀ s t, p s → step s = .next t → p t

/-! An agent that issues. -/

/-- Agent `i`, whose record is `a`, is in focus with an instruction of header `h`, and no fault is due ahead of it
(07 R167). -/
structure Stands (s : State) (i : Nat) (a : Agent) : Prop where
  cur : s.run.cur = some i
  here : tget s.agents i = some a
  clear : a.takeDue false s.run.word = none

/-- It stands there, and its guard holds (11 R282). -/
structure Issues (s : State) (i : Nat) (a : Agent) (h : Hdr) : Prop extends Stands s i a where
  guard : a.guard h = .ok true

/-- The state after an instruction of agent `i` that goes on to the next instruction: the agent is `b`. -/
def State.after (s : State) (i : Nat) (b : Agent) (h : Hdr) : State := (s.setAgent i b).advance i h.settle none

/-- Wherever its sources are read and its destination can be written, `ins` writes one result of `k` words, `val` of
the sources, and the agent goes on. -/
def Gives (ins : Instr) (h : Hdr) (c : Cls) (os : List Opnd) (d : Dst) (k : Nat) (val : List Nat → Nat) : Prop :=
  ∀ s i a xs, Issues s i a h → c.forbids a = false → a.srcs os = .ok xs → a.dstReady d k = .ok () →
    exec ins s = .next (s.after i (a.putResult d k (val xs)) h)

/-- The same with a truth value as the result. -/
def GivesPred (ins : Instr) (h : Hdr) (c : Cls) (os : List Opnd) (d : Dst) (val : List Nat → Bool) : Prop :=
  ∀ s i a xs, Issues s i a h → c.forbids a = false → a.srcs os = .ok xs → a.dstReady d 1 = .ok () →
    exec ins s = .next (s.after i (a.putPred d (val xs)) h)

/-- The same with a deferred result of `k` words whose value is fixed at issue (11 R293). -/
def Defers (ins : Instr) (h : Hdr) (os : List Opnd) (d : Dst) (k : Nat) (val : List Nat → Nat) : Prop :=
  ∀ s i a xs, Issues s i a h → a.id.seq = false → a.srcs os = .ok xs → a.dstReady d k = .ok () →
    exec ins s = .next ((s.startReady i a (wordsOf (val xs) k) d []).advance i h.settle none)

/-- Nothing but agent `i` differs. -/
def OnlyAgent (s t : State) (i : Nat) : Prop :=
  t = { s with agents := t.agents } ∧ ∀ j, j ≠ i → tget t.agents j = tget s.agents j

/-- A cross-lane instruction (13 R361): with every named lane come, its exchange; otherwise a wait. -/
def Exchanges (ins : Instr) (h : Hdr) (d : Dst) (k : Nat) (rp : BitVec 3) (rd : Agent → Rd XArg) (f : XView → XRes) : Prop :=
  ∀ s i a x, Issues s i a h → a.id.seq = false → rd a = .ok x → xReady a d k rp.toNat = .ok () →
    let can (u : Agent) : Rd XArg := (rd u).andThen fun y => (xReady u d k rp.toNat).andThen fun _ => .ok y
    let row := s.row i a
    let come := ∀ l, l < 16 → x.ctl.testBit l = true → laneCame h can row i a l = true
    let g := exchange h can (row.filter fun m => m.1 != i) a.curPc x.mask ++ [(i, a, x)]
    let js := g.map (·.1)
    let t := s.pass row a.curPc js
    (come → exec ins s = .next
      (({ t with run := { t.run with issueQ := t.run.issueQ.filter fun j => !js.contains j } }.xRun
        i h.settle d k rp.toNat f g g).advance i h.settle none)) ∧
    (¬ come → exec ins s = .next (s.setAgent i { a with sched := { a.sched with polled := true } }))

/-! Instructions that read and write only registers of their agent (12, 13). -/

/-- Header, class, sources, destination, words of the result, and whether it is deferred (11 R293). -/
structure RegShape where
  h : Hdr
  c : Cls
  os : List Opnd
  d : Dst
  k : Nat
  later : Bool := false
  deriving DecidableEq, Repr

/-- The shape of an instruction that computes one result from its sources, special registers included. -/
def regShape : Instr → Option RegShape
  | .iadd h ty _ a b d | .isub h ty _ a b d | .imul h ty _ a b d | .imulhi h ty a b d | .imin h ty a b d
  | .imax h ty a b d | .idiv h ty a b d | .irem h ty a b d =>
    some ⟨h, .both, [⟨a, ty.width, .int⟩, ⟨b, ty.width, .int⟩], d, ty.width / 32, false⟩
  | .imad h ty _ a b c d =>
    some ⟨h, .both, [⟨a, ty.width, .int⟩, ⟨b, ty.width, .int⟩, ⟨c, ty.width, .int⟩], d, ty.width / 32, false⟩
  | .iabs h ty _ a d => some ⟨h, .both, [⟨a, ty.width, .int⟩], d, ty.width / 32, false⟩
  | .and h ty a b d | .or h ty a b d | .xor h ty a b d =>
    some ⟨h, .both, [⟨a, ty.width, .int⟩, ⟨b, ty.width, .int⟩], d, ty.width / 32, false⟩
  | .not h ty a d | .brev h ty a d => some ⟨h, .both, [⟨a, ty.width, .int⟩], d, ty.width / 32, false⟩
  | .popc h ty a d | .clz h ty a d => some ⟨h, .both, [⟨a, ty.width, .int⟩], d, 1, false⟩
  | .shl h ty a b d | .shr h ty a b d | .sar h ty a b d | .rotl h ty a b d | .bfe h ty _ a b d =>
    some ⟨h, .both, [⟨a, ty.width, .int⟩, ⟨b, 32, .int⟩], d, ty.width / 32, false⟩
  | .bfi h ty a b c d =>
    some ⟨h, .both, [⟨a, ty.width, .int⟩, ⟨b, ty.width, .int⟩, ⟨c, 32, .int⟩], d, ty.width / 32, false⟩
  | .lea h _ _ a b d => some ⟨h, .both, [⟨a, 64, .int⟩, ⟨b, 32, .int⟩], d, 2, false⟩
  | .isetp h _ ty a b d => some ⟨h, .both, [⟨a, ty.width, .int⟩, ⟨b, ty.width, .int⟩], d, 1, false⟩
  | .mov h ty a d => some ⟨h, .both, [⟨a, ty.width, immAs ty⟩], d, ty.width / 32, false⟩
  | .dup h ws d => some ⟨h, .both, (dupSrcs ws).map fun x => ⟨x, 32, .int⟩, d, (dupSrcs ws).length, false⟩
  | .movi h _ d => some ⟨h, .both, [], d, 1, false⟩
  | .addi h a _ d => some ⟨h, .both, [⟨a, 32, .int⟩], d, 1, false⟩
  | .movh h a _ d => some ⟨h, .both, [⟨a, 32, .int⟩], d, 2, false⟩
  | .getsr h i d => some ⟨h, .both, [], d, srWidth i.val / 32, false⟩
  | .fadd h _ a b d | .fsub h _ a b d | .fmul h _ a b d =>
    some ⟨h, .thread, [⟨a, 32, .f32⟩, ⟨b, 32, .f32⟩], d, 1, false⟩
  | .ffma h _ a b c d => some ⟨h, .thread, [⟨a, 32, .f32⟩, ⟨b, 32, .f32⟩, ⟨c, 32, .f32⟩], d, 1, false⟩
  | .dadd h _ a b d | .dmul h _ a b d => some ⟨h, .thread, [⟨a, 64, .f64⟩, ⟨b, 64, .f64⟩], d, 2, false⟩
  | .dfma h _ a b c d => some ⟨h, .thread, [⟨a, 64, .f64⟩, ⟨b, 64, .f64⟩, ⟨c, 64, .f64⟩], d, 2, false⟩
  | .hadd2 h ty _ a b d | .hmul2 h ty _ a b d => some ⟨h, .thread, [⟨a, 32, hAs ty⟩, ⟨b, 32, hAs ty⟩], d, 1, false⟩
  | .hfma2 h ty _ a b c d =>
    some ⟨h, .thread, [⟨a, 32, hAs ty⟩, ⟨b, 32, hAs ty⟩, ⟨c, 32, hAs ty⟩], d, 1, false⟩
  | .fmin h ty a b d | .fmax h ty a b d | .fcopysign h ty a b d =>
    some ⟨h, .thread, [⟨a, ty.width, fhAs ty⟩, ⟨b, ty.width, fhAs ty⟩], d, ty.width / 32, false⟩
  | .fabs h ty a d | .fneg h ty a d => some ⟨h, .thread, [⟨a, ty.width, fhAs ty⟩], d, ty.width / 32, false⟩
  | .fsetp h _ a b d => some ⟨h, .thread, [⟨a, 32, .f32⟩, ⟨b, 32, .f32⟩], d, 1, false⟩
  | .dsetp h _ a b d => some ⟨h, .thread, [⟨a, 64, .f64⟩, ⟨b, 64, .f64⟩], d, 1, false⟩
  | .fclass h ty a d | .fgetexp h ty a d => some ⟨h, .thread, [⟨a, ty.width, fAs ty⟩], d, 1, false⟩
  | .frnd h ty _ a d | .fgetman h ty a d => some ⟨h, .thread, [⟨a, ty.width, fAs ty⟩], d, ty.width / 32, false⟩
  | .fscale h ty _ a b d => some ⟨h, .thread, [⟨a, ty.width, fAs ty⟩, ⟨b, 32, .int⟩], d, ty.width / 32, false⟩
  | .cvt h (.scalar t u) _ _ a d => some ⟨h, .thread, [⟨a, t.width, cAs t⟩], d, u.width / 32, false⟩
  | .cvt h (.packed t _) _ _ a d => some ⟨h, .thread, [⟨a, 32, hAs t⟩], d, 1, false⟩
  | .pack h _ _ a b d => some ⟨h, .thread, [⟨a, 32, .f32⟩, ⟨b, 32, .f32⟩], d, 1, false⟩
  | .unpk h ty a d => some ⟨h, .thread, [⟨a, 32, hAs ty⟩], d, 2, false⟩
  | .frcp h a d | .frsq h a d | .fsqrt h a d | .flog2 h a d | .fexp2 h a d | .fsin h a d | .fcos h a d
  | .ftanh h a d => some ⟨h, .thread, [⟨a, 32, .f32⟩], d, 1, true⟩
  | .exp2s h a b c d => some ⟨h, .thread, [⟨a, 32, .f32⟩, ⟨b, 32, .f32⟩, ⟨c, 32, .f32⟩], d, 1, true⟩
  | _ => none

/-- Registers of `a` that a result of `k` words for `d` leaves as they are: of the queue what is pushed apart, of the
frames all but the named registers of the top one, of the predicates all but the named one; and everything else. -/
def KeepsRegs (a b : Agent) (d : Dst) (k : Nat) : Prop :=
  (b.arch.queue.drop (dstPushes d k)).take (16 - dstPushes d k) = a.arch.queue.take (16 - dstPushes d k) ∧
  (∀ p, (∀ q : Fin 7, d = .pred q → p ≠ q.val) → p < 7 → b.arch.preds.getLsbD p = a.arch.preds.getLsbD p) ∧
  b.arch.frames.tail = a.arch.frames.tail ∧ b.arch.frames.length = a.arch.frames.length ∧
  { b.top with regs := a.top.regs } = a.top ∧
  (∀ r, (∀ n, d = .reg n → r < n.val ∨ n.val + k ≤ r) → b.top.regs[r]? = a.top.regs[r]?) ∧
  b.arch.evicted = a.arch.evicted ∧ b.arch.spill = a.arch.spill ∧ b.arch.joins = a.arch.joins ∧
  b.arch.trapcause = a.arch.trapcause ∧ b.arch.trappc = a.arch.trappc ∧ b.arch.trapaddr = a.arch.trapaddr ∧
  b.id = a.id ∧ b.pos = a.pos ∧ b.flt = a.flt ∧ b.sched = a.sched

/-! Which instruction words which agents may execute (11 R296), by opcode. -/

def threadOp (op : Nat) : Bool :=
  (0x10 ≤ op && op ≤ 0x1E) || (0x20 ≤ op && op ≤ 0x2C) || (0x30 ≤ op && op ≤ 0x37) || op == 0x3A || op == 0x3B || op == 0x60

def seqOp (op : Nat) : Bool := 0x6E ≤ op && op ≤ 0x71

/-- Handler-only words: `rtt`, `psave`, and `setsr` of indices 29 to 31. -/
def handlerWord (w : Nat) : Bool :=
  opOf w == 0x5C || opOf w == 0x67 || (opOf w == 0x0C && 29 ≤ w / 16 % 2 ^ 32 && w / 16 % 2 ^ 32 ≤ 31)

/-! Integers (12 R310 to R316), written apart from the meanings. -/

/-- An operand of an integer type as an integer. -/
def intVal (ty : IntTy) (x : Nat) : Int :=
  match ty with
  | .i32 => (BitVec.ofNat 32 x).toInt
  | .i64 => (BitVec.ofNat 64 x).toInt
  | .n32 => (BitVec.ofNat 32 x).toNat
  | .n64 => (BitVec.ofNat 64 x).toNat

/-- The least and the greatest integer of a type. -/
def intMin : IntTy → Int
  | .i32 => -2 ^ 31
  | .i64 => -2 ^ 63
  | .n32 | .n64 => 0

def intMax : IntTy → Int
  | .i32 => 2 ^ 31 - 1
  | .i64 => 2 ^ 63 - 1
  | .n32 => 2 ^ 32 - 1
  | .n64 => 2 ^ 64 - 1

/-- An exact result brought to the width of its type: clamped under `.sat`, otherwise wrapped (12 R312). -/
def narrow (ty : IntTy) (sat : Bool) (z : Int) : Nat :=
  (BitVec.ofInt ty.width (if sat then max (intMin ty) (min z (intMax ty)) else z)).toNat

/-! Floating-point values (13 R342 to R350). -/

/-- A relation between two decoded values (13 R346). -/
def fHolds (r : FRel) (x y : Val) : Bool :=
  match vcmp x y with
  | none => decide (r = .unord ∨ r = .ne)
  | some o =>
    match r with
    | .eq => o == .eq
    | .ne => o != .eq
    | .lt => o == .lt
    | .le => o == .lt || o == .eq
    | .gt => o == .gt
    | .ge => o == .gt || o == .eq
    | .unord => false
    | .ord => true

/-- The operand `fmin` (or, with `mx`, `fmax`) returns (13 R345): the other one for a single NaN, the canonical NaN for
two, −0 below +0. -/
def fPick (f : Fmt) (mx : Bool) (x y : Nat) : Nat :=
  match f.decFloat x, f.decFloat y with
  | .nan, .nan => f.emax * 2 ^ f.mb + 2 ^ (f.mb - 1)
  | .nan, _ => y
  | _, .nan => x
  | u, v =>
    let below := vcmp u v == some .lt || (vcmp u v == some .eq && u.neg? && !v.neg?)
    if below = mx then y else x

/-- A function of one or two operands on f32, f64 or on each half of a packed word (13 R342). -/
def lanes1 (ty : FHTy) (f : Fmt → Nat → Nat) (x : Nat) : Nat :=
  match ty with
  | .f32 => f f32F x
  | .f64 => f f64F x
  | .f16x2 => f f16F (x % 65536) + f f16F (x / 65536 % 65536) * 65536
  | .bf16x2 => f bf16F (x % 65536) + f bf16F (x / 65536 % 65536) * 65536

def lanes2 (ty : FHTy) (f : Fmt → Nat → Nat → Nat) (x y : Nat) : Nat :=
  match ty with
  | .f32 => f f32F x y
  | .f64 => f f64F x y
  | .f16x2 => f f16F (x % 65536) (y % 65536) + f f16F (x / 65536 % 65536) (y / 65536 % 65536) * 65536
  | .bf16x2 => f bf16F (x % 65536) (y % 65536) + f bf16F (x / 65536 % 65536) (y / 65536 % 65536) * 65536

/-- The bit of `fclass` (13 R347). -/
def fClassBit (f : Fmt) (c : Nat) : Nat :=
  match f.decFloat c with
  | .nan => 8
  | .inf s => if s then 0 else 7
  | .fin s m _ =>
    if m = 0 then (if s then 3 else 4)
    else if m < 2 ^ f.mb then (if s then 2 else 5)
    else (if s then 1 else 6)

/-- A value times a power of 2. -/
def vTimes2 (v : Val) (n : Int) : Val :=
  match v with
  | .fin s m x => .fin s m (x + n)
  | .inf s => .inf s
  | .nan => .nan

/-! Memory. -/

/-- A place as the byte it is: of which memory, and where. -/
def placeOf : Loc → Bool × Nat
  | .mem a => (false, a)
  | .scr c o => (true, scrKey c o)

/-- The checks of 14 R375 before translation, but for alignment, let an access go on: its scope where it is examined, and the
scratchpad window. -/
def Reaches (s : State) (a : Agent) (sk : Option Nat) (va n : Nat) : Prop :=
  (∀ k, sk = some k → s.scopeCheck a k = .ok ()) ∧ (inWindow va = true → s.windowFault a va n = none)

/-- A single access of at most 16 bytes, or of at most 32 bits. -/
def SingleAccess : Acc → Prop
  | .load _ n _ => 0 < n ∧ n ≤ 16
  | .store _ bs _ => 0 < bs.length ∧ bs.length ≤ 16
  | .elemLd _ w => 0 < w ∧ w ≤ 32
  | .elemSt _ w _ _ => 0 < w ∧ w ≤ 32
  | .rmw _ _ _ _ _ | .ctadd _ _ _ | .ctrd _ | .pref _ => True
  | .tileLd _ _ _ _ | .tileSt _ _ _ _ _ | .tileWin _ _ _ _ => False

/-- The value an atomic writes (14 R386); none where it writes nothing. -/
def atomicNew (f : AtomOp) (old v cmp : Nat) : Option Nat :=
  let half (g : Fmt) (k : Nat) : Nat :=
    g.encVal .rne false (vadd .rne (g.decFloat (old / 2 ^ (16 * k) % 65536)) (g.decFloat (v / 2 ^ (16 * k) % 65536)))
  match f with
  | .arith .add ty => some ((old + v) % 2 ^ ty.width)
  | .arith .min ty => some (if intVal ty v < intVal ty old then v else old)
  | .arith .max ty => some (if intVal ty old < intVal ty v then v else old)
  | .bitop .and _ => some (old &&& v)
  | .bitop .or _ => some (old ||| v)
  | .bitop .xor _ => some (old ^^^ v)
  | .bitop .exch _ => some v
  | .cas _ _ => if old = cmp then some v else none
  | .fadd .f32 => some (f32F.encVal .rne false (vadd .rne (f32F.decFloat old) (f32F.decFloat v)))
  | .fadd .f16x2 => some (half f16F 0 + half f16F 1 * 65536)
  | .fadd .bf16x2 => some (half bf16F 0 + half bf16F 1 * 65536)

/-- A bound name of an agent's pod group with its buffer; the agent is on its team's die (15 R407, R414). -/
def NameAt (s : State) (a : Agent) (n b : Nat) (x : Buf) : Prop := a.pos.away = false ∧ s.nameOf a n = some (b, x)

/-- Nothing of the agent's own is ahead of it on a buffer (15 R415, R429): no tile load, and, as asked, no copy request that fills
it, no matrix entry that writes it, none that reads it. -/
def FreeOf (s : State) (i : Nat) (a : Agent) (b : Nat) (copies entries readers : Bool) : Prop :=
  (∀ o, o ∈ a.pend.ops → o.loads b = false) ∧
  (entries = true → ∀ e, e ∈ a.pend.mq → e.hd ≠ b) ∧
  (readers = true → ∀ e, e ∈ a.pend.mq → e.reads b = false) ∧
  (copies = true → ∀ c, c ∈ s.copies → c.2.agent = i → (c.2.kind = .tileLoad ∨ c.2.kind = .window) → c.2.buf ≠ b)

/-- The bytes of a range as an instruction of the agent in focus reads them of its own, here or from peers, and the state that
the reading leaves (14 R399). -/
def ReadsOwn (s : State) (a : Agent) (va n : Nat) (bs : List Byte) (t : State) : Prop :=
  (∃ l, s.ownTouch a va n .r [] = (.ok l, t) ∧ bs = t.readChunks l) ∨
  (∃ parts ans, s.ownTouch a va n .r [] = (.far parts ans, t) ∧ bs = joinParts parts (t.hereBytes parts) ans)

/-- A legal iterator record at an address, read with its header where it has one: the iterator, and the state that the reading
leaves (15 R420 to R422, 10 R268). -/
def IterAt (s : State) (a : Agent) (va : Nat) (drive : Bool) (it : Iter) (s2 : State) : Prop :=
  va % 64 = 0 ∧ ∃ (bs : List Byte) (s1 : State), ReadsOwn s a va 64 bs s1 ∧
    let x := ofBytes bs
    iterBad x (iterOf x drive) = false ∧
    (((iterOf x drive).hdren = false ∧ it = iterOf x drive ∧ s2 = s1) ∨
      ((iterOf x drive).hdren = true ∧ ∃ hs, ReadsOwn s1 a (iterOf x drive).hdr 64 hs s2 ∧
        let y := headerOf (ofBytes hs)
        y.bad = false ∧ it = { iterOf x drive with scale := y.scale, extra := y.extra }))

/-- A legal window record at an address, read with its header, shape and strides (15 R423). -/
def WinAt (s : State) (a : Agent) (va : Nat) (w : Win) (s2 : State) : Prop :=
  va % 64 = 0 ∧ ∃ (b1 b2 b3 b4 : List Byte) (t1 t2 t3 : State), ReadsOwn s a va 64 b1 t1 ∧
    let y := ofBytes b1
    winBad y (winOf y) = false ∧ ReadsOwn t1 a (y / 2 ^ 64 % 2 ^ 57) 64 b2 t2 ∧
    let z := headerOf (ofBytes b2)
    z.bad = false ∧ ReadsOwn t2 a z.shape 16 b3 t3 ∧ ReadsOwn t3 a z.strides 16 b4 s2 ∧
    let sh := words4 (ofBytes b3)
    (∀ k, k ∈ sh → k ≠ 0) ∧
    w = { winOf y with shape := sh, stride := (words4 (ofBytes b4)).map fun n => sextInt n 32, extra := z.extra }

/-- The legal records a copy request of a kind names, read in the order of 15 R435. -/
def RecsAt (s : State) (a : Agent) (kind : CopyKind) (x : Nat) (r : Recs) (s2 : State) : Prop :=
  let ma := x / 2 ^ 64 % 2 ^ 57
  let mb := x / 2 ^ 128 % 2 ^ 57
  let two (d1 d2 : Bool) (it jt : Iter) : Prop := ∃ s1, IterAt s a ma d1 it s1 ∧ IterAt s1 a mb d2 jt s2
  match kind with
  | .copy | .gather => ∃ it jt, two false true it jt ∧ r = { src := it, dst := jt }
  | .transform => ∃ it jt, two false true it jt ∧ r = s2.readChain a x { src := it, dst := jt } ∧ r.bad = false
  | .scatter | .sparse => ∃ it jt, two true false it jt ∧ r = { src := it, dst := jt }
  | .fill => ∃ jt, IterAt s a mb true jt s2 ∧ r = { dst := jt }
  | .tileLoad | .tileStore => ∃ it, IterAt s a ma true it s2 ∧ r = { src := it }
  | .window => ∃ w, WinAt s a ma w s2 ∧ r = { win := w }

/-- Happens-before on a candidate execution (09 R241): the transitive closure of program order, the orders of engines and
launches (R253, R254) and synchronises-with. -/
inductive Before (x : MM.Exec) : Nat → Nat → Prop
  | po (i j : Nat) : i < x.evs.length → j < x.evs.length → x.po i j = true → Before x i j
  | eng (i j : Nat) : i < x.evs.length → j < x.evs.length → x.eng i j = true → Before x i j
  | sw (i j : Nat) : i < x.evs.length → j < x.evs.length → x.sw i j = true → Before x i j
  | trans (i j k : Nat) : Before x i j → Before x j k → Before x i k

/-- A plain or ordered access by a thread, as an event of a litmus example. -/
def litStore (agent core loc val : Nat) (rel : Bool) (cores : Nat) : MM.Ev :=
  { agent, thread := agent, core := some core, kind := .write, loc, wv := val, rel, scope := { cores } }

def litLoad (agent core loc val : Nat) (acq : Bool) (cores : Nat) : MM.Ev :=
  { agent, thread := agent, core := some core, kind := .read, loc, rv := val, acq, scope := { cores } }

/-! Barrier objects (09 R250, R251). -/

/-- An object after `k` arrivals, 0 or 1, with `n` more bytes expected, and the advance check; none past a limit. -/
def barNext (o : BarObj) (k n : Nat) : Option BarObj :=
  if (k = 1 ∧ o.expected < o.arrived + 1) ∨ 2 ^ 28 - 1 < o.pending + n then none
  else if o.arrived + k = o.expected ∧ o.pending + n = 0 then
    some { o with phase := if o.phase = 2 ^ 64 - 1 then o.phase else o.phase + 1, arrived := 0, pending := 0 }
  else some { o with arrived := o.arrived + k, pending := o.pending + n }

/-- A `bar` of agent `i` at window address `x` updates its object to `o` and pushes the old phase, or faults. -/
def BarDoes (ins : Instr) (s : State) (i : Nat) (a : Agent) (h : Hdr) (x : Nat) (d : Dst) (o : Option BarObj) : Prop :=
  match o with
  | none => exec ins s = .next (s.raise i (faultAt s a 0x1A x))
  | some o' =>
    ∃ w b, exec ins s = .next (w.after i (b.putResult d 2 (s.barAt a.pos.core (x % 2 ^ 40)).phase) h) ∧
      tget w.agents i = some b ∧
      (o' = s.barAt a.pos.core (x % 2 ^ 40) → w = s) ∧
      (o' ≠ s.barAt a.pos.core (x % 2 ^ 40) → w = s.write (.scr a.pos.core (x % 2 ^ 40))
        (bytesOf (o'.phase + o'.expected * 2 ^ 64 + o'.arrived * 2 ^ 76 + o'.res1 * 2 ^ 88 + o'.pending * 2 ^ 96
          + o'.res2 * 2 ^ 124) 16))

end Sys2Proof.Machine
end

