-- ==== Sys2Proof/Certificates/Slice0/Obligations.lean ====
section
/-!
DEFINITION. The statements for the provers: what the spec's numbered rules say the machine does.
-/
open Sys2Proof Sys2Proof.Machine

/-! Integer, logic, comparison and move instructions (12). -/

/-- 12 R311, R312: each function of the integer family writes its exact value brought to the width of its type.
12 R313: quotient toward zero and remainder with the sign of the dividend; a divisor of 0 gives all ones and the
dividend. -/
def Obligations.IntegerResults : Prop :=
  (∀ (h : Hdr) (ty : IntTy) (st : SIntTy) (sat : Bool) (a b c : Src) (d : Dst),
     let A : Opnd := ⟨a, ty.width, .int⟩
     let B : Opnd := ⟨b, ty.width, .int⟩
     let C : Opnd := ⟨c, ty.width, .int⟩
     let k := ty.width / 32
     let x (xs : List Nat) := intVal ty (xs.getD 0 0)
     let y (xs : List Nat) := intVal ty (xs.getD 1 0)
     let z (xs : List Nat) := intVal ty (xs.getD 2 0)
     Gives (.iadd h ty sat a b d) h .both [A, B] d k (fun xs => narrow ty sat (x xs + y xs)) ∧
     Gives (.isub h ty sat a b d) h .both [A, B] d k (fun xs => narrow ty sat (x xs - y xs)) ∧
     Gives (.imul h ty sat a b d) h .both [A, B] d k (fun xs => narrow ty sat (x xs * y xs)) ∧
     Gives (.imulhi h ty a b d) h .both [A, B] d k (fun xs => narrow ty false ((x xs * y xs).fdiv (2 ^ ty.width))) ∧
     Gives (.imad h ty sat a b c d) h .both [A, B, C] d k (fun xs => narrow ty sat (x xs * y xs + z xs)) ∧
     Gives (.imin h ty a b d) h .both [A, B] d k (fun xs => narrow ty false (min (x xs) (y xs))) ∧
     Gives (.imax h ty a b d) h .both [A, B] d k (fun xs => narrow ty false (max (x xs) (y xs))) ∧
     Gives (.iabs h st sat a d) h .both [⟨a, st.width, .int⟩] d (st.width / 32)
       (fun xs => narrow (sintTy st) sat ((intVal (sintTy st) (xs.getD 0 0)).natAbs : Int))) ∧
  (∀ (h : Hdr) (ty : IntTy) (a b : Src) (d : Dst),
     let os : List Opnd := [⟨a, ty.width, .int⟩, ⟨b, ty.width, .int⟩]
     Gives (.idiv h ty a b d) h .both os d (ty.width / 32)
       (fun xs =>
         if intVal ty (xs.getD 1 0) = 0 then 2 ^ ty.width - 1
         else narrow ty false ((intVal ty (xs.getD 0 0)).tdiv (intVal ty (xs.getD 1 0)))) ∧
     Gives (.irem h ty a b d) h .both os d (ty.width / 32)
       (fun xs =>
         if intVal ty (xs.getD 1 0) = 0 then narrow ty false (intVal ty (xs.getD 0 0))
         else narrow ty false ((intVal ty (xs.getD 0 0)).tmod (intVal ty (xs.getD 1 0)))))

/-- 12 R314: the bitwise functions and the counts.
12 R314, R316: shifts by any count, rotation, and the scaled index of `lea`. -/
def Obligations.BitsAndShifts : Prop :=
  (∀ (h : Hdr) (ty : BitTy) (a b : Src) (d : Dst),
     let A : Opnd := ⟨a, ty.width, .int⟩
     let B : Opnd := ⟨b, ty.width, .int⟩
     let k := ty.width / 32
     let v (n : Nat) : BitVec ty.width := BitVec.ofNat ty.width n
     Gives (.and h ty a b d) h .both [A, B] d k (fun xs => (v (xs.getD 0 0) &&& v (xs.getD 1 0)).toNat) ∧
     Gives (.or h ty a b d) h .both [A, B] d k (fun xs => (v (xs.getD 0 0) ||| v (xs.getD 1 0)).toNat) ∧
     Gives (.xor h ty a b d) h .both [A, B] d k (fun xs => (v (xs.getD 0 0) ^^^ v (xs.getD 1 0)).toNat) ∧
     Gives (.not h ty a d) h .both [A] d k (fun xs => (~~~ v (xs.getD 0 0)).toNat) ∧
     Gives (.popc h ty a d) h .both [A] d 1
       (fun xs => (List.range ty.width).countP fun i => (xs.getD 0 0).testBit i) ∧
     Gives (.clz h ty a d) h .both [A] d 1 (fun xs => (v (xs.getD 0 0)).clz.toNat) ∧
     Gives (.brev h ty a d) h .both [A] d k (fun xs => (v (xs.getD 0 0)).reverse.toNat)) ∧
  (∀ (h : Hdr) (ty : BitTy) (a b : Src) (d : Dst) (sh : Fin 9) (sg : Bool),
     let os : List Opnd := [⟨a, ty.width, .int⟩, ⟨b, 32, .int⟩]
     let k := ty.width / 32
     let v (xs : List Nat) : BitVec ty.width := BitVec.ofNat ty.width (xs.getD 0 0)
     Gives (.shl h ty a b d) h .both os d k (fun xs => (v xs <<< xs.getD 1 0).toNat) ∧
     Gives (.shr h ty a b d) h .both os d k (fun xs => (v xs >>> xs.getD 1 0).toNat) ∧
     Gives (.sar h ty a b d) h .both os d k (fun xs => ((v xs).sshiftRight (xs.getD 1 0)).toNat) ∧
     Gives (.rotl h ty a b d) h .both os d k (fun xs => ((v xs).rotateLeft (xs.getD 1 0)).toNat) ∧
     Gives (.lea h sh sg a b d) h .both [⟨a, 64, .int⟩, ⟨b, 32, .int⟩] d 2
       (fun xs => (BitVec.ofNat 64 (xs.getD 0 0) +
         ((if sg then (BitVec.ofNat 32 (xs.getD 1 0)).signExtend 64 else (BitVec.ofNat 32 (xs.getD 1 0)).zeroExtend 64)
           <<< sh.val)).toNat))

/-- 12 R315: the bits of an extracted field, its sign extension, and the bits an insertion replaces.
12 R320, R321, R325, 11 R292: moves, constants, indexed frame access and `nop`. -/
def Obligations.FieldsAndMoves : Prop :=
  (∀ (h : Hdr) (ty : BitTy) (sx : Bool) (a b c : Src) (d : Dst) s i A xs, Issues s i A h →
     (A.srcs [⟨a, ty.width, .int⟩, ⟨b, 32, .int⟩] = .ok xs → A.dstReady d (ty.width / 32) = .ok () →
       ∃ r, exec (.bfe h ty sx a b d) s = .next (s.after i (A.putResult d (ty.width / 32) r) h) ∧
         let pos := xs.getD 1 0 % 256
         let len := min (xs.getD 1 0 / 256 % 256) ty.width
         let bit (j : Nat) : Bool := decide (pos + j < ty.width) && (xs.getD 0 0).testBit (pos + j)
         ∀ j, j < ty.width → r.testBit j = if j < len then bit j else sx && decide (0 < len) && bit (len - 1)) ∧
     (A.srcs [⟨a, ty.width, .int⟩, ⟨b, ty.width, .int⟩, ⟨c, 32, .int⟩] = .ok xs → A.dstReady d (ty.width / 32) = .ok () →
       ∃ r, exec (.bfi h ty a b c d) s = .next (s.after i (A.putResult d (ty.width / 32) r) h) ∧
         let pos := xs.getD 2 0 % 256
         let len := min (xs.getD 2 0 / 256 % 256) ty.width
         ∀ j, j < ty.width →
           r.testBit j = if pos ≤ j ∧ j < pos + len then (xs.getD 1 0).testBit (j - pos) else (xs.getD 0 0).testBit j)) ∧
  (∀ (h : Hdr) (ty : Ty) (a b : Src) (imm : Word) (ws : DupArgs) (d : Dst),
     Gives (.mov h ty a d) h .both [⟨a, ty.width, immAs ty⟩] d (ty.width / 32) (fun xs => xs.getD 0 0) ∧
     Gives (.movi h imm d) h .both [] d 1 (fun _ => imm.toNat) ∧
     Gives (.addi h a imm d) h .both [⟨a, 32, .int⟩] d 1 (fun xs => (BitVec.ofNat 32 (xs.getD 0 0) + imm).toNat) ∧
     Gives (.movh h a imm d) h .both [⟨a, 32, .int⟩] d 2 (fun xs => imm.toNat * 2 ^ 32 + xs.getD 0 0) ∧
     (∀ s i A xs, Issues s i A h → A.srcs ((dupSrcs ws).map fun x => ⟨x, 32, .int⟩) = .ok xs →
       A.dstReady d (dupSrcs ws).length = .ok () →
       exec (.dup h ws d) s = .next (s.after i (A.putWords d (xs.map (BitVec.ofNat 32))) h)) ∧
     (∀ s i A n v, Issues s i A h → A.src ⟨a, 32, .int⟩ = .ok n →
       A.readV (BitVec.ofNat 32 n + imm).toNat 1 = .ok [v] → A.dstReady d 1 = .ok () →
       exec (.ridx h a imm d) s = .next (s.after i (A.putWords d [v]) h)) ∧
     (∀ s i A n x v, Issues s i A h → A.srcs [⟨a, 32, .int⟩, ⟨b, 32, .int⟩] = .ok [n, x] → A.readV n 1 = .ok [v] →
       exec (.widx h a b) s = .next (s.after i (A.setRegs n [BitVec.ofNat 32 x]) h)) ∧
     (∀ s i A, Issues s i A h → exec (.nop h) s = .next (s.advance i h.settle none)))

/-- 12 R317 to R319, 13 R346: comparisons, the choice by a predicate and the combination of predicates. -/
def Obligations.ComparisonResults : Prop :=
  ∀ (h : Hdr) (ir : IRel) (fr : FRel) (ity : IntTy) (ty : Ty) (op : PlopOp) (p q : PSel) (a b : Src) (d : Dst),
    GivesPred (.isetp h ir ity a b d) h .both [⟨a, ity.width, .int⟩, ⟨b, ity.width, .int⟩] d
      (fun xs =>
        let x := intVal ity (xs.getD 0 0)
        let y := intVal ity (xs.getD 1 0)
        match ir with
        | .eq => decide (x = y)
        | .ne => decide (x ≠ y)
        | .lt => decide (x < y)
        | .le => decide (x ≤ y)
        | .gt => decide (x > y)
        | .ge => decide (x ≥ y)) ∧
    GivesPred (.fsetp h fr a b d) h .thread [⟨a, 32, .f32⟩, ⟨b, 32, .f32⟩] d
      (fun xs => fHolds fr (f32F.decFloat (xs.getD 0 0)) (f32F.decFloat (xs.getD 1 0))) ∧
    GivesPred (.dsetp h fr a b d) h .thread [⟨a, 64, .f64⟩, ⟨b, 64, .f64⟩] d
      (fun xs => fHolds fr (f64F.decFloat (xs.getD 0 0)) (f64F.decFloat (xs.getD 1 0))) ∧
    (∀ s i A xs c, Issues s i A h → A.srcs [⟨a, ty.width, .int⟩, ⟨b, ty.width, .int⟩] = .ok xs →
      A.psel p = .ok c → A.dstReady d (ty.width / 32) = .ok () →
      exec (.sel h ty p a b d) s =
        .next (s.after i (A.putResult d (ty.width / 32) (if c then xs.getD 0 0 else xs.getD 1 0)) h)) ∧
    (∀ s i A x y, Issues s i A h → A.psel p = .ok x → A.psel q = .ok y → A.dstReady d 1 = .ok () →
      exec (.plop h op p q d) s =
        .next (s.after i (A.putPred d (match op with
          | .and => x && y | .or => x || y | .xor => x ^^ y | .andn => x && !y)) h))

/-- 12 R322, R324, 07 R173, 08 R221: special registers read and written; a write of the trap cause declares the copy of
the save area; the read-only ones, and the trap registers outside handler mode, fault with cause 0x0C.
08 R221: a thread's linear index, its team's linear index and the lane, slot and pip it runs on, as the special
registers give them.
Where the spec leaves the point open it is the model's choice: log 37. -/
def Obligations.SpecialRegisters : Prop :=
  (∀ (h : Hdr) (r : Fin 32) (a : Src) (d : Dst) s i A, Issues s i A h →
     (A.dstReady d (srWidth r.val / 32) = .ok () →
       exec (.getsr h r d) s = .next (s.after i (A.putResult d (srWidth r.val / 32) (srValue s A r.val)) h)) ∧
     (r.val < 28 → exec (.setsr h r a) s = .next (s.raise i (faultAt s A 0x0C 0))) ∧
     (29 ≤ r.val → A.inHandler = false → exec (.setsr h r a) s = .next (s.raise i (faultAt s A 0x0C 0))) ∧
     (r.val = 28 → A.arch.loops = [] → exec (.setsr h r a) s = .next (s.advance i h.settle none)) ∧
     (∀ v l ls, r.val = 28 → A.arch.loops = l :: ls → A.src ⟨a, 32, .int⟩ = .ok v →
       exec (.setsr h r a) s =
         .next (s.after i { A with arch := { A.arch with loops := { l with count := BitVec.ofNat 32 v } :: ls } } h)) ∧
     (∀ v e es, r.val = 29 → A.flt.entries = e :: es → A.src ⟨a, 32, .int⟩ = .ok v →
       exec (.setsr h r a) s =
         .next (s.after i { A with
           arch := { A.arch with trapcause := BitVec.ofNat 32 v }
           flt := { A.flt with entries := { e with declared := true } :: es } } h)) ∧
     (∀ v, r.val = 30 → A.inHandler = true → A.src ⟨a, 64, .int⟩ = .ok v →
       exec (.setsr h r a) s = .next (s.after i { A with arch := { A.arch with trappc := BitVec.ofNat 64 v } } h)) ∧
     (∀ v, r.val = 31 → A.inHandler = true → A.src ⟨a, 64, .int⟩ = .ok v →
       exec (.setsr h r a) s = .next (s.after i { A with arch := { A.arch with trapaddr := BitVec.ofNat 64 v } } h))) ∧
  (∀ (s : State) (a : Agent), a.id.seq = false →
     let r := (s.grid a.id.grid).lrec
     let v (i : Nat) := srValue s a i
     (0 < r.tx → 0 < r.ty → v 0 = v 5 + r.tx * (v 6 + r.ty * v 7)) ∧
     (0 < r.gx → 0 < r.gy → v 1 = v 2 + r.gx * (v 3 + r.gy * v 4)) ∧
     v 8 = r.tx * r.ty * r.tz ∧ v 9 = r.gx * r.gy * r.gz ∧
     v 10 = a.pos.lane ∧ v 11 = a.pos.slot ∧ v 12 = a.pos.pip ∧ v 13 = a.pos.core ∧ v 14 = a.pos.core / 4 ∧
     v 15 = a.pos.core / 96 ∧ v 26 = a.id.vd ∧ v 22 = 0x01FFFF0000000000 + (s.areaOf a).1)

/-! Floating-point and conversion instructions (13, 10). -/

/-- 10 R270, R271: a positive magnitude rounded in f32, f64 or a half. Beyond the grid it has overflowed; otherwise the
code is one of the two neighbours of the exact value, the exact one where there is one, chosen by the mode; and a finite
value is encoded as that code under its sign, or, where it overflows, as the infinity or the greatest finite value. -/
def Obligations.FloatRounding : Prop :=
  ∀ (f : Fmt) (rm : RM) (s : Bool) (m : Nat) (x : Int), f ∈ [f32F, f64F, f16F, bf16F] → 0 < m →
    let at_ (c : Nat) : Val := .fin false (f.magVal c).m (f.magVal c).x
    let v : Val := .fin false m x
    let c := f.roundMag rm s ⟨m, x, false⟩
    let top := f.emax * 2 ^ f.mb
    (vcmp v (at_ top) ≠ some .lt → f.maxCode < c) ∧
    (vcmp v (at_ top) = some .lt →
      ∃ lo, lo < top ∧ vcmp (at_ lo) v ≠ some .gt ∧ vcmp v (at_ (lo + 1)) = some .lt ∧
        (vcmp (at_ lo) v = some .eq → c = lo) ∧
        (vcmp (at_ lo) v = some .lt →
          c = match rm with
            | .rz => lo
            | .ru => if s then lo else lo + 1
            | .rd => if s then lo + 1 else lo
            | .ro => if lo % 2 = 1 then lo else lo + 1
            | .rne =>
              match vcmp (.fin false m (x + 1)) (vadd .rne (at_ lo) (at_ (lo + 1))) with
              | some .lt => lo
              | some .gt => lo + 1
              | _ => if lo % 2 = 0 then lo else lo + 1)) ∧
    f.encVal rm false (.fin s m x) = f.signBit s +
      (if c ≤ f.maxCode then c
       else match rm with
        | .rne => top
        | .ru => if s then f.maxCode else top
        | .rd => if s then top else f.maxCode
        | .rz | .ro => f.maxCode)

/-- 13 R344, R345, R347 to R350: the f32 family and the functions it shares with the other types. `frnd` gives the integer next
to its operand that the mode chooses, exactly, with the operand's sign, a zero included; it keeps an infinity, and makes a NaN
canonical.
13 R344: the f64 family, and the packed halves, each half on its own. -/
def Obligations.FloatResults : Prop :=
  (∀ (h : Hdr) (rm : RM) (ft : FTy) (ty : FHTy) (a b c : Src) (d : Dst),
     let A : Opnd := ⟨a, 32, .f32⟩
     let B : Opnd := ⟨b, 32, .f32⟩
     let C : Opnd := ⟨c, 32, .f32⟩
     let v (n : Nat) (xs : List Nat) : Val := f32F.decFloat (xs.getD n 0)
     let out (z : Val) : Nat := f32F.encVal rm false z
     let P : Opnd := ⟨a, ty.width, fhAs ty⟩
     let Q : Opnd := ⟨b, ty.width, fhAs ty⟩
     let F : Opnd := ⟨a, ft.width, fAs ft⟩
     Gives (.fadd h rm a b d) h .thread [A, B] d 1 (fun xs => out (vadd rm (v 0 xs) (v 1 xs))) ∧
     Gives (.fsub h rm a b d) h .thread [A, B] d 1 (fun xs => out (vadd rm (v 0 xs) (vneg (v 1 xs)))) ∧
     Gives (.fmul h rm a b d) h .thread [A, B] d 1 (fun xs => out (vmul (v 0 xs) (v 1 xs))) ∧
     Gives (.ffma h rm a b c d) h .thread [A, B, C] d 1 (fun xs => out (vadd rm (vmul (v 0 xs) (v 1 xs)) (v 2 xs))) ∧
     Gives (.fmin h ty a b d) h .thread [P, Q] d (ty.width / 32)
       (fun xs => lanes2 ty (fun f x y => fPick f false x y) (xs.getD 0 0) (xs.getD 1 0)) ∧
     Gives (.fmax h ty a b d) h .thread [P, Q] d (ty.width / 32)
       (fun xs => lanes2 ty (fun f x y => fPick f true x y) (xs.getD 0 0) (xs.getD 1 0)) ∧
     Gives (.fabs h ty a d) h .thread [P] d (ty.width / 32)
       (fun xs => lanes1 ty (fun f x => (x % 2 ^ f.w) % 2 ^ (f.w - 1)) (xs.getD 0 0)) ∧
     Gives (.fneg h ty a d) h .thread [P] d (ty.width / 32)
       (fun xs => lanes1 ty (fun f x => (x + 2 ^ (f.w - 1)) % 2 ^ f.w) (xs.getD 0 0)) ∧
     Gives (.fcopysign h ty a b d) h .thread [P, Q] d (ty.width / 32)
       (fun xs => lanes2 ty (fun f x y => x % 2 ^ (f.w - 1) + y % 2 ^ f.w / 2 ^ (f.w - 1) * 2 ^ (f.w - 1))
         (xs.getD 0 0) (xs.getD 1 0)) ∧
     Gives (.fclass h ft a d) h .thread [F] d 1 (fun xs => 2 ^ fClassBit (fFmt ft) (xs.getD 0 0)) ∧
     Gives (.frnd h ft rm a d) h .thread [F] d (ft.width / 32) (fun xs => (fFmt ft).rnd rm (xs.getD 0 0)) ∧
     Gives (.fscale h ft rm a b d) h .thread [F, ⟨b, 32, .int⟩] d (ft.width / 32)
       (fun xs => (fFmt ft).encVal rm false (vTimes2 ((fFmt ft).decFloat (xs.getD 0 0)) (BitVec.ofNat 32 (xs.getD 1 0)).toInt)) ∧
     Gives (.fgetexp h ft a d) h .thread [F] d 1
       (fun xs => match (fFmt ft).decFloat (xs.getD 0 0) with
         | .fin _ 0 _ => 0x80000000
         | .fin _ m x => (BitVec.ofInt 32 (Nat.log2 m + x)).toNat
         | .inf _ | .nan => 0x7FFFFFFF) ∧
     Gives (.fgetman h ft a d) h .thread [F] d (ft.width / 32)
       (fun xs => match (fFmt ft).decFloat (xs.getD 0 0) with
         | .fin s m x => (fFmt ft).encVal .rne false (.fin s m (if m = 0 then x else -(Nat.log2 m : Int)))
         | z => (fFmt ft).encVal .rne false z) ∧
     (∀ x,
       let f := fFmt ft
       let z := f.rnd rm x
       match f.decFloat x with
       | .nan => z = f.emax * 2 ^ f.mb + 2 ^ (f.mb - 1)
       | .inf _ => z = x
       | .fin s m e => ∃ lo n k y : Nat, ∃ p : Int,
         vcmp (.fin false lo 0) (.fin false m e) ≠ some .gt ∧ vcmp (.fin false m e) (.fin false (lo + 1) 0) = some .lt ∧
         f.decFloat z = .fin s k p ∧ vcmp (.fin false k p) (.fin false n 0) = some .eq ∧ z < 2 ^ f.w ∧
         y = (match rm with
           | .rz => lo
           | .ru => if s then lo else lo + 1
           | .rd => if s then lo + 1 else lo
           | .ro => if lo % 2 = 1 then lo else lo + 1
           | .rne =>
             match vcmp (.fin false m (e + 1)) (.fin false (2 * lo + 1) 0) with
             | some .lt => lo
             | some .gt => lo + 1
             | _ => if lo % 2 = 0 then lo else lo + 1) ∧
         n = if vcmp (.fin false lo 0) (.fin false m e) = some .eq then lo else y)) ∧
  (∀ (h : Hdr) (rm : RM) (ty : HTy) (a b c : Src) (d : Dst),
     let A : Opnd := ⟨a, 64, .f64⟩
     let B : Opnd := ⟨b, 64, .f64⟩
     let C : Opnd := ⟨c, 64, .f64⟩
     let v (n : Nat) (xs : List Nat) : Val := f64F.decFloat (xs.getD n 0)
     let out (z : Val) : Nat := f64F.encVal rm false z
     let P : Opnd := ⟨a, 32, hAs ty⟩
     let Q : Opnd := ⟨b, 32, hAs ty⟩
     let R : Opnd := ⟨c, 32, hAs ty⟩
     let u (k n : Nat) (xs : List Nat) : Val := (hFmt ty).decFloat (xs.getD n 0 / 2 ^ (16 * k) % 2 ^ 16)
     let both (z : Nat → Val) : Nat := (hFmt ty).encVal rm false (z 0) + (hFmt ty).encVal rm false (z 1) * 2 ^ 16
     Gives (.dadd h rm a b d) h .thread [A, B] d 2 (fun xs => out (vadd rm (v 0 xs) (v 1 xs))) ∧
     Gives (.dmul h rm a b d) h .thread [A, B] d 2 (fun xs => out (vmul (v 0 xs) (v 1 xs))) ∧
     Gives (.dfma h rm a b c d) h .thread [A, B, C] d 2 (fun xs => out (vadd rm (vmul (v 0 xs) (v 1 xs)) (v 2 xs))) ∧
     Gives (.hadd2 h ty rm a b d) h .thread [P, Q] d 1 (fun xs => both fun k => vadd rm (u k 0 xs) (u k 1 xs)) ∧
     Gives (.hmul2 h ty rm a b d) h .thread [P, Q] d 1 (fun xs => both fun k => vmul (u k 0 xs) (u k 1 xs)) ∧
     Gives (.hfma2 h ty rm a b c d) h .thread [P, Q, R] d 1
       (fun xs => both fun k => vadd rm (vmul (u k 0 xs) (u k 1 xs)) (u k 2 xs)))

/-- 13 R351, R352, 10 R279, R280: each special function returns one deferred word; its value for the special inputs; where
the part's own value of `frcp` is free, it is one of the two neighbours of the exact result, or the value below the lower
neighbour where that is a power of two (half an ulp below it).
Where the spec leaves the point open it is the model's choice: log 7. -/
def Obligations.SpecialFunctions : Prop :=
  (∀ (h : Hdr) (a b c : Src) (d : Dst),
    let A : Opnd := ⟨a, 32, .f32⟩
    let x (xs : List Nat) := xs.getD 0 0
    Defers (.frcp h a d) h [A] d 1 (fun xs => sfuRcp (x xs)) ∧
    Defers (.frsq h a d) h [A] d 1 (fun xs => sfuRsq (x xs)) ∧
    Defers (.fsqrt h a d) h [A] d 1 (fun xs => sfuSqrt (x xs)) ∧
    Defers (.flog2 h a d) h [A] d 1 (fun xs => sfuLog2 (x xs)) ∧
    Defers (.fexp2 h a d) h [A] d 1 (fun xs => sfuExp2 (x xs)) ∧
    Defers (.fsin h a d) h [A] d 1 (fun xs => sfuSin (x xs)) ∧
    Defers (.fcos h a d) h [A] d 1 (fun xs => sfuCos (x xs)) ∧
    Defers (.ftanh h a d) h [A] d 1 (fun xs => sfuTanh (x xs)) ∧
    Defers (.exp2s h a b c d) h [A, ⟨b, 32, .f32⟩, ⟨c, 32, .f32⟩] d 1
      (fun xs => sfuExp2s (x xs) (xs.getD 1 0) (xs.getD 2 0))) ∧
  (∀ x, f32F.decFloat x = .nan → ∀ f ∈ [sfuRcp, sfuRsq, sfuSqrt, sfuLog2, sfuExp2, sfuSin, sfuCos, sfuTanh],
    f x = 0x7FC00000) ∧
  [0x00000000, 0x80000000, 0x7F800000, 0xFF800000].map sfuRcp = [0x7F800000, 0xFF800000, 0x00000000, 0x80000000] ∧
  [0x00000000, 0x80000000, 0x7F800000, 0xFF800000].map sfuRsq = [0x7F800000, 0xFF800000, 0x00000000, 0x7FC00000] ∧
  [0x00000000, 0x80000000, 0x7F800000, 0xFF800000].map sfuSqrt = [0x00000000, 0x80000000, 0x7F800000, 0x7FC00000] ∧
  [0x00000000, 0x80000000, 0x7F800000, 0xFF800000, 0x3F800000].map sfuLog2 =
    [0xFF800000, 0xFF800000, 0x7F800000, 0x7FC00000, 0x00000000] ∧
  [0x7F800000, 0xFF800000].map sfuExp2 = [0x7F800000, 0x00000000] ∧
  [0x00000000, 0x80000000, 0x7F800000, 0xFF800000].map sfuSin = [0x00000000, 0x80000000, 0x7FC00000, 0x7FC00000] ∧
  [0x7F800000, 0xFF800000].map sfuCos = [0x7FC00000, 0x7FC00000] ∧
  [0x00000000, 0x80000000, 0x7F800000, 0xFF800000].map sfuTanh = [0x00000000, 0x80000000, 0x3F800000, 0xBF800000] ∧
  (∀ x s m e, f32F.decFloat x = .fin s m e → 0 < m →
    ∃ c, sfuRcp x = (if s then 2 ^ 31 else 0) + c ∧
      let lo := min (f32F.roundMag .rz false ⟨2 ^ 64 / m, -64 - e, decide (2 ^ 64 % m ≠ 0)⟩) 0x7F800000
      (c = lo ∨ c = min (f32F.roundMag .ru false ⟨2 ^ 64 / m, -64 - e, decide (2 ^ 64 % m ≠ 0)⟩) 0x7F800000 ∨
       lo % 2 ^ 23 = 0 ∧ c + 1 = lo)) ∧
  (∀ x m e, f32F.decFloat x = .fin true m e → 0 < m → sfuRsq x = 0x7FC00000 ∧ sfuSqrt x = 0x7FC00000 ∧ sfuLog2 x = 0x7FC00000)

/-- 13 R353 to R359, 10 R274: conversions decode exactly and encode with one rounding, and a type converted to itself keeps every
code but a NaN's; `cvts` and `cvtw` under the image of
their slot, once a plane of the cob holds it; packed halves. -/
def Obligations.Conversions : Prop :=
  ∀ (h : Hdr) (t u : CTy) (p q : HTy) (lt : LTy) (slot : Fin 16) (rm : RM) (sat : Bool) (a b : Src) (d : Dst),
    Gives (.cvt h (.scalar t u) rm sat a d) h .thread [⟨a, t.width, cAs t⟩] d (u.width / 32)
      (fun xs => let x := xs.getD 0 0
        if t = u ∧ (decLane t x).isNan = false then x else encLane u rm sat (decLane t x)) ∧
    Gives (.cvt h (.packed p q) rm sat a d) h .thread [⟨a, 32, hAs p⟩] d 1
      (fun xs =>
        let half (k : Nat) := let x := xs.getD 0 0 / 2 ^ (16 * k) % 2 ^ 16
          let v := (hFmt p).decFloat x
          if p = q ∧ v.isNan = false then x else (hFmt q).encVal rm sat v
        half 0 + half 1 * 2 ^ 16) ∧
    Gives (.pack h p rm a b d) h .thread [⟨a, 32, .f32⟩, ⟨b, 32, .f32⟩] d 1
      (fun xs => (hFmt p).encVal rm false (f32F.decFloat (xs.getD 0 0))
        + (hFmt p).encVal rm false (f32F.decFloat (xs.getD 1 0)) * 2 ^ 16) ∧
    Gives (.unpk h p a d) h .thread [⟨a, 32, hAs p⟩] d 2
      (fun xs =>
        let half (k : Nat) := f32F.encVal .rne false ((hFmt p).decFloat (xs.getD 0 0 / 2 ^ (16 * k) % 2 ^ 16))
        half 0 + half 1 * 2 ^ 32) ∧
    (∀ s i A img x k s', Issues s i A h → A.id.seq = false → (s.slot A.id.vd A.id.ctx slot.val).st = 1 →
      img = (s.slot A.id.vd A.id.ctx slot.val).img → A.dstReady d 1 = .ok () → A.src ⟨b, 32, .int⟩ = .ok k →
      s.usePlanes (cobOfCore A.pos.core) i [img] = (true, s') →
      (A.src ⟨a, 32, lAs lt⟩ = .ok x →
        exec (.cvts h slot lt rm sat a (some b) d) s =
          .next (s'.after i (A.putResult d 1 (cvtsCode (s.image img).fmt lt rm sat x k)) h) ∧
        exec (.cvts h slot lt rm sat a none d) s =
          .next (s'.after i (A.putResult d 1 (cvtsCode (s.image img).fmt lt rm sat x
            (if (s.image img).fmt.kind = 2 then 0x7F7F else 0x80000000))) h)) ∧
      (A.src ⟨a, 32, .int⟩ = .ok x →
        exec (.cvtw h slot lt rm sat a (some b) d) s =
          .next (s'.after i (A.putResult d 1 (encLane (ltyC lt) rm false ((s.image img).fmt.decode x (BitVec.ofNat 32 k)
            (k % 256) (k / 256 % 256)))) h))) ∧
    (∀ s i A, Issues s i A h → A.id.seq = false → (s.slot A.id.vd A.id.ctx slot.val).st = 0 →
      exec (.cvts h slot lt rm sat a (some b) d) s = .next (s.raise i (faultAt s A 0x0E slot.val)) ∧
      exec (.cvtw h slot lt rm sat a (some b) d) s = .next (s.raise i (faultAt s A 0x0E slot.val)))

/-! Cross-lane exchange and regrouping (13 R360 to R373). -/

/-- 13 R361, R362, 08 R192: when every running thread at a lane the mask names has come, the participants issue together,
each with its own deferred result; until then the thread stays where it is.
Where the spec leaves the point open it is the model's choice: log 10, 21. -/
def Obligations.CrossLaneExchange : Prop :=
  ∀ (h : Hdr) (m : ShflMode) (bt : BitTy) (vo : VoteOp) (ro : ReduxOp) (so : ScanOp) (ex fl : Bool) (rp : BitVec 3)
    (p : PSel) (a f c : Src) (d : Dst),
    let V (w : Nat) (im : As) := xArgs ⟨a, w, im⟩ ⟨f, w, im⟩ c
    Exchanges (.shfl h m bt rp a f c d) h d (bt.width / 32) rp (V bt.width .int) (shflRes m) ∧
    Exchanges (.vote h vo rp p fl c d) h d 1 rp
      (fun u => (u.psel p).andThen fun b => (u.src ⟨c, 32, .int⟩).andThen fun k => .ok ⟨b2n b, b2n fl, k⟩) (voteRes vo) ∧
    Exchanges (.matchLanes h bt rp a f c d) h d 1 rp (V bt.width .int) matchRes ∧
    Exchanges (.redux h ro rp a f c d) h d (ro.width / 32) rp (V ro.width (reduxAs ro)) (reduxRes ro) ∧
    Exchanges (.scan h so rp ex a f c d) h d (so.width / 32) rp (V so.width (scanAs so)) (scanRes so ex)

/-- 13 R361: what a participant sees of an exchange. Lane `l` contributes the participant's own value where the mask names
it and a participant of the same mask stands there, and the thread's fill otherwise.
13 R364 to R368: the value each function gives a thread at lane `v.lane` from the sixteen contributions, and the report of a
fill among those it takes. `redux.fmin` and `redux.fmax` give an extreme of the contributions that are no NaN, −0 below +0 (R345),
and the canonical NaN where there is none; `scan.fadd` adds in lane order. -/
def Obligations.CrossLaneValues : Prop :=
  (∀ (g : List (Nat × Agent × XArg)) (u : Agent) (x : XArg) (l : Nat), l < 16 →
     let v := viewOf g u x
     v.lane = u.pos.lane ∧ v.arg = x ∧
     ((∀ j w y, (j, w, y) ∈ g → w.pos.lane = l → x.ctl.testBit l = true →
         (∀ j' w' y', (j', w', y') ∈ g → w'.pos.lane = l → y'.own = y.own) →
         v.c.getD l 0 = y.own ∧ v.filled.getD l true = false) ∧
       (x.ctl.testBit l = false → v.c.getD l 0 = x.fill ∧ v.filled.getD l true = true) ∧
       ((∀ j w y, (j, w, y) ∈ g → w.pos.lane ≠ l) → v.c.getD l 0 = x.fill ∧ v.filled.getD l true = true))) ∧
  (∀ (v : XView), v.c.length = 16 → v.filled.length = 16 → v.lane < 16 →
     let C (l : Nat) := v.c.getD l 0
     let F (l : Nat) := v.filled.getD l true
     let k := v.arg.ctl / 65536 % 16
     (shflRes .idx v).val = C k ∧ (shflRes .idx v).rep = F k ∧
     (shflRes .xor v).val = C (v.lane ^^^ k) ∧ (shflRes .xor v).rep = F (v.lane ^^^ k) ∧
     (k ≤ v.lane → (shflRes .up v).val = C (v.lane - k) ∧ (shflRes .up v).rep = F (v.lane - k)) ∧
     (v.lane < k → (shflRes .up v).val = v.arg.fill ∧ (shflRes .up v).rep = true) ∧
     (v.lane + k < 16 → (shflRes .down v).val = C (v.lane + k) ∧ (shflRes .down v).rep = F (v.lane + k)) ∧
     (16 ≤ v.lane + k → (shflRes .down v).val = v.arg.fill ∧ (shflRes .down v).rep = true) ∧
     ((voteRes .all v).flag = true ↔ ∀ l, l < 16 → C l = 1) ∧
     ((voteRes .any v).flag = true ↔ ∃ l, l < 16 ∧ C l = 1) ∧
     (∀ l, (voteRes .ballot v).val.testBit l = (decide (l < 16) && decide (C l = 1))) ∧
     ((voteRes .uni v).flag = true ↔
       ∀ l l', l < 16 → l' < 16 → F l = false → F l' = false → C l = C l') ∧
     (∀ op, (voteRes op v).rep = true ↔ ∃ l, l < 16 ∧ F l = true) ∧
     (∀ l, (matchRes v).val.testBit l = (decide (l < 16) && decide (C l = v.arg.own))) ∧
     (∀ ty, (reduxRes (.iadd ty) v).val = v.c.sum % 2 ^ ty.width) ∧
     (∀ ty, (∃ l, l < 16 ∧ (reduxRes (.imin ty) v).val = C l) ∧
       ∀ l, l < 16 → intVal ty (reduxRes (.imin ty) v).val ≤ intVal ty (C l)) ∧
     (∀ ty, (∃ l, l < 16 ∧ (reduxRes (.imax ty) v).val = C l) ∧
       ∀ l, l < 16 → intVal ty (C l) ≤ intVal ty (reduxRes (.imax ty) v).val) ∧
     (∀ ty j, (reduxRes (.and ty) v).val.testBit j = (List.range 16).all fun l => (C l).testBit j) ∧
     (∀ ty j, (reduxRes (.or ty) v).val.testBit j = (List.range 16).any fun l => (C l).testBit j) ∧
     (∀ ty j, (reduxRes (.xor ty) v).val.testBit j = decide (((List.range 16).countP fun l => (C l).testBit j) % 2 = 1)) ∧
     (∀ rm, (reduxRes (.fadd rm) v).val =
       let p (f : Nat → Nat) (l : Nat) := f32F.add rm (f (2 * l)) (f (2 * l + 1))
       p (p (p (p C))) 0) ∧
     (∀ ty, (scanRes (.iadd ty) false v).val = (v.c.take (v.lane + 1)).sum % 2 ^ ty.width) ∧
     (∀ ty, (scanRes (.iadd ty) true v).val = (v.c.take v.lane).sum % 2 ^ ty.width) ∧
     (∀ op, (scanRes op true v).rep = true ↔ ∃ l, l < v.lane ∧ F l = true) ∧
     (∀ op, (scanRes op false v).rep = true ↔ ∃ l, l ≤ v.lane ∧ F l = true) ∧
     (∀ rm,
       let y (n : Nat) := (List.range n).foldl (fun a l => f32F.add rm a (C (l + 1)))
         (if (f32F.decFloat (C 0)).isNan = true then 0x7FC00000 else C 0)
       (scanRes (.fadd rm) false v).val = y v.lane ∧ (0 < v.lane → (scanRes (.fadd rm) true v).val = y (v.lane - 1)) ∧
       (v.lane = 0 → (scanRes (.fadd rm) true v).val = 0)) ∧
     (∀ op, op = .fmin ∨ op = .fmax →
       let z := (reduxRes op v).val
       let D (l : Nat) := f32F.decFloat (C l)
       ((∀ l, l < 16 → (D l).isNan = true) → z = 0x7FC00000) ∧
       ((∃ l, l < 16 ∧ (D l).isNan = false) → ∃ k, k < 16 ∧ z = C k ∧ (D k).isNan = false ∧
         ∀ l, l < 16 → (D l).isNan = false →
           (op = .fmin → vcmp (D l) (D k) ≠ some .lt ∧ (vcmp (D l) (D k) = some .eq → (D l).neg? = true → (D k).neg? = true)) ∧
           (op = .fmax → vcmp (D l) (D k) ≠ some .gt ∧ (vcmp (D l) (D k) = some .eq → (D k).neg? = true → (D l).neg? = true)))) ∧
     ((matchRes v).rep = true ↔ ∃ l, l < 16 ∧ F l = true) ∧
     (∀ op, (reduxRes op v).rep = true ↔ ∃ l, l < 16 ∧ F l = true))

/-- 13 R371 to R373: `enrol` records the issue group's lanes in a join slot, `groupq` reads them, `rejoin` waits for the
lanes of its slot and clears it; a slot of 0 does not wait.
Where the spec leaves the point open it is the model's choice: log 10. -/
def Obligations.Regrouping : Prop :=
  ∀ (h : Hdr) (j : Fin 4) (g : Fin 5) (d : Dst) s i A, Issues s i A h → A.id.seq = false →
    let own : BitVec 16 := A.sched.gmask ||| BitVec.ofNat 16 (2 ^ A.pos.lane)
    exec (.enrol h j) s =
      .next (s.after i { A with arch := { A.arch with joins := A.arch.joins.set j.val own } } h) ∧
    (A.dstReady d 1 = .ok () →
      exec (.groupq h g d) s =
        .next (s.after i (A.putResult d 1
          (if g.val = 0 then own else A.arch.joins.getD (g.val - 1) 0).toNat) h)) ∧
    (A.arch.joins.getD j.val 0 = 0 → exec (.rejoin h j) s = .next (s.advance i h.settle none)) ∧
    (A.arch.joins.getD j.val 0 ≠ 0 → A.pend.rejoin = none →
      let A' : Agent := { A with pend := { A.pend with rejoin := some (j.val, (s.islOfCore A.pos.core).cyc, h.settle) } }
      let s1 := s.setAgent i A'
      let free := ((s1.row i A').filter fun (_, u) => u.atRejoin j.val && rejoined (s1.row i A') j.val u).map (·.1)
      ∃ t, exec (.rejoin h j) s = .next t ∧
        (free = [] → t = { s1 with
          run := { s1.run with issueQ := s.run.issueQ }
          agents := tset s1.agents i { A' with sched := { A'.sched with polled := true } } }) ∧
        (free = [i] → A.arch.mac = none → h.settle = false → ∃ B, tget t.agents i = some B ∧
          B.pend.rejoin = none ∧ B.arch.joins = A.arch.joins.set j.val 0 ∧
          B.arch.pc = (bodyEnd (A.arch.pc + 8) A.arch.loops).1))

/-! Memory instructions (14). -/

/-- 14 R374 to R380, R382, R384, R394, 07 R164: a load computes its address, makes its checks and starts its access; a plain
one waits while an earlier access of the agent has not performed (log 22). R385: a prefetch always goes on; it asks for the line
of its address outside the scratchpad window and does nothing in it.
14 R379, R380, R382, 07 R164: a store computes its address, makes its checks and starts its access with the bytes of its
data; a release waits for a parked access first (R164, a point of R162).
Where the spec leaves the point open it is the model's choice: log 10, 22. -/
def Obligations.LoadsAndStoresStart : Prop :=
  (∀ (h : Hdr) (sz : LdSize) (slot : Fin 16) (ofs : BitVec 12) (sk : BitVec 6) (acq : Bool) (a : Src) (d : Dst) s i A b,
     Issues s i A h → A.src ⟨a, 64, .int⟩ = .ok b →
     let sc := if acq then some sk.toNat else none
     (A.dstReady d (max 1 (sz.bytes / 4)) = .ok () →
       let va := (BitVec.ofNat 64 b + ofs.signExtend 64 * BitVec.ofNat 64 sz.bytes).toNat
       Reaches s A sc va sz.bytes →
       (va % sz.bytes ≠ 0 → exec (.ld h sz ofs sk acq a d) s = .next (s.raise i (faultAt s A 0x0A va))) ∧
       (va % sz.bytes = 0 → A.memHeld = false →
         exec (.ld h sz ofs sk acq a d) s =
           .next ((s.startOp i A (.load va sz.bytes (decide (sz = .s8 ∨ sz = .s16))) (max 1 (sz.bytes / 4)) d false acq sc).advance
             i h.settle none)) ∧
       (va % sz.bytes = 0 → A.memHeld = true →
         exec (.ld h sz ofs sk acq a d) s = .next (s.setAgent i { A with sched := { A.sched with polled := true } }))) ∧
     (A.dstReady d 1 = .ok () → A.id.seq = false → (s.slot A.id.vd A.id.ctx slot.val).st = 1 → A.memHeld = false →
       let w := (s.image (s.slot A.id.vd A.id.ctx slot.val).img).fmt.w
       let ba := (BitVec.ofNat 64 b + ofs.signExtend 64 * BitVec.ofNat 64 w).toNat
       Reaches s A sc (ba / 8) ((ba % 8 + w + 7) / 8) →
       exec (.ldx h slot ofs sk acq a d) s =
         .next ((s.startOp i A (.elemLd ba w) 1 d false acq sc).advance i h.settle none)) ∧
     (A.dstReady d 2 = .ok () → A.memHeld = false → b % 8 = 0 → Reaches s A (some sk.toNat) b 8 →
       exec (.ctrd h sk acq a d) s =
         .next ((s.startOp i A (.ctrd b) 2 d true acq (some sk.toNat)).advance i h.settle none)) ∧
     let line := (BitVec.ofNat 64 b + ofs.signExtend 64 * BitVec.ofNat 64 sz.bytes).toNat / 128 * 128
     (inWindow line = true → exec (.pref h sz ofs sk a) s = .next (s.advance i h.settle none)) ∧
     (inWindow line = false →
       exec (.pref h sz ofs sk a) s =
         .next ((s.startOp i A (.pref line) 0 .nil false false none).advance i h.settle none))) ∧
  (∀ (h : Hdr) (sz : StSize) (slot : Fin 16) (ofs : BitVec 12) (sk : BitVec 6) (rel : Bool) (a b : Src) s i A x y,
     Issues s i A h → A.memHeld = false → (rel = true → A.hasParked = false) →
     let sc := if rel then some sk.toNat else none
     (A.srcs [⟨a, 64, .int⟩, ⟨b, sz.width, .int⟩] = .ok [x, y] →
       let va := (BitVec.ofNat 64 x + ofs.signExtend 64 * BitVec.ofNat 64 sz.bytes).toNat
       Reaches s A sc va sz.bytes →
       (va % sz.bytes ≠ 0 → exec (.st h sz ofs sk rel a b) s = .next (s.raise i (faultAt s A 0x0A va))) ∧
       (va % sz.bytes = 0 →
         exec (.st h sz ofs sk rel a b) s =
           .next ((s.startOp i A (.store va ((List.range sz.bytes).map fun j => BitVec.ofNat 8 (y / 256 ^ j)) rel) 0 .nil
             false false sc).advance i h.settle none))) ∧
     (A.srcs [⟨a, 64, .int⟩, ⟨b, 32, .int⟩] = .ok [x, y] → A.id.seq = false →
       (s.slot A.id.vd A.id.ctx slot.val).st = 1 →
       let w := (s.image (s.slot A.id.vd A.id.ctx slot.val).img).fmt.w
       let ba := (BitVec.ofNat 64 x + ofs.signExtend 64 * BitVec.ofNat 64 w).toNat
       Reaches s A sc (ba / 8) ((ba % 8 + w + 7) / 8) →
       exec (.stx h slot ofs sk rel a b) s =
         .next ((s.startOp i A (.elemSt ba w (y % 2 ^ w) rel) 0 .nil false false sc).advance i h.settle none)))

/-- 14 R376, R386 to R391, 09 R245: an atomic and a counter add start one update at the site of their scope, after the checks;
an address that is not aligned, and a remote page under a scope whose site is no fabric port, fault. 14 R398, R402: a fence and an
`icinv` whose agent has no access on its way go on.
Where the spec leaves the point open it is the model's choice: log 22. -/
def Obligations.AtomicsStart : Prop :=
  ∀ (h : Hdr) (f : AtomOp) (sk : BitVec 6) (od : MemOrd) (kd : FenceKind) (rel : Bool) (a b : Src) (d : Dst) s i A,
    Issues s i A h → A.memHeld = false → A.hasParked = false →
    let sc := some sk.toNat
    (s.scopeCheck A sk.toNat = .ok () →
      (∃ t : State, exec (.fence h kd sk) s = .next (t.advance i h.settle none) ∧ t = { s with pkg := t.pkg }) ∧
      (∀ x c, A.srcs [⟨a, 64, .int⟩, ⟨b, 32, .int⟩] = .ok [x, c] →
        ∃ t : State, exec (.icinv h sk a b) s = .next (t.advance i h.settle none) ∧ t = { s with cores := t.cores })) ∧
    (∀ x y zs, A.srcs (atomOps f a b) = .ok (x :: y :: zs) → x % (f.width / 8) = 0 → Reaches s A sc x (f.width / 8) →
      (s.siteFault A sk.toNat x = true → A.dstReady d (f.width / 32) = .ok () →
        exec (.atom h f sk od a b d) s = .next (s.raise i (faultAt s A 0x0C x)) ∧
        exec (.red h f sk rel a b) s = .next (s.raise i (faultAt s A 0x0C x))) ∧
      (s.siteFault A sk.toNat x = false →
        (A.dstReady d (f.width / 32) = .ok () →
          exec (.atom h f sk od a b d) s =
            .next ((s.startOp i A (.rmw f x y (zs.headD 0) (decide (od = .rel ∨ od = .ar))) (f.width / 32) d true
              (decide (od = .acq ∨ od = .ar)) sc).advance i h.settle none)) ∧
        exec (.red h f sk rel a b) s =
          .next ((s.startOp i A (.rmw f x y (zs.headD 0) rel) 0 .nil true false sc).advance i h.settle none))) ∧
    (∀ x y, A.srcs [⟨a, 64, .int⟩, ⟨b, 64, .int⟩] = .ok [x, y] → x % 8 = 0 → Reaches s A sc x 8 →
      s.siteFault A sk.toNat x = false →
      exec (.ctadd h sk rel a b) s = .next ((s.startOp i A (.ctadd x y rel) 0 .nil true false sc).advance i h.settle none)) ∧
    (∀ x y zs, A.srcs (atomOps f a b) = .ok (x :: y :: zs) → x % (f.width / 8) ≠ 0 → Reaches s A sc x (f.width / 8) →
      exec (.red h f sk rel a b) s = .next (s.raise i (faultAt s A 0x0A x)))

/-- 14 R378 to R387, R391, 09 R247: what an access does at the place it touches: the words a load returns, the bytes a store
puts, the bits an element access reads or replaces, the update of an atomic and of a counter with the old value returned.
Where the spec leaves the point open it is the model's choice: log 5. -/
def Obligations.AccessEffects : Prop :=
  ∀ (s s' : State) (a : Agent) (id va n v cmp : Nat) (rel : Bool) (l : Loc) (bs : List Byte) (f : AtomOp),
    let old (k : Nat) := s'.getNat l k
    (s.touch a id va n .r = (.ok [(l, n)], s') → n ∈ [1, 2, 4, 8, 16] →
      s.attempt a id (.load va n false) none = (.done ((List.range (max 1 (n / 4))).map fun j => BitVec.ofNat 32 (old n / 2 ^ (32 * j))), s') ∧
      (n ≤ 2 → s.attempt a id (.load va n true) none = (.done [(BitVec.ofNat (8 * n) (old n)).signExtend 32], s'))) ∧
    (s.touch a id va bs.length .w = (.ok [(l, bs.length)], s') →
      s.attempt a id (.store va bs rel) none = (.done [], s'.write l bs)) ∧
    (s.touch a id va (f.width / 8) .w = (.ok [(l, f.width / 8)], s') →
      ∃ t, s.attempt a id (.rmw f va v cmp rel) none =
          (.done ((List.range (f.width / 32)).map fun j => BitVec.ofNat 32 (old (f.width / 8) / 2 ^ (32 * j))), t) ∧
        match atomicNew f (old (f.width / 8)) v cmp with
        | none => t = s'
        | some x => t = s'.write l (bytesOf x (f.width / 8))) ∧
    (s.touch a id va 8 .w = (.ok [(l, 8)], s') →
      s.attempt a id (.ctadd va v rel) none = (.done [], s'.write l (bytesOf (min (old 8 + v) (2 ^ 64 - 1)) 8))) ∧
    (s.touch a id va 8 .r = (.ok [(l, 8)], s') →
      s.attempt a id (.ctrd va) none = (.done [BitVec.ofNat 32 (old 8), BitVec.ofNat 32 (old 8 / 2 ^ 32)], s')) ∧
    (∀ ba w, s.touch a id (ba / 8) ((ba % 8 + w + 7) / 8) .r = (.ok [(l, (ba % 8 + w + 7) / 8)], s') → w ≤ 32 →
      s.attempt a id (.elemLd ba w) none = (.done [BitVec.ofNat 32 (old ((ba % 8 + w + 7) / 8) / 2 ^ (ba % 8) % 2 ^ w)], s')) ∧
    (∀ ba w code, s.touch a id (ba / 8) ((ba % 8 + w + 7) / 8) .w = (.ok [(l, (ba % 8 + w + 7) / 8)], s') → code < 2 ^ w →
      ∃ t x, s.attempt a id (.elemSt ba w code rel) none = (.done [], t) ∧
        t = s'.write l (bytesOf x ((ba % 8 + w + 7) / 8)) ∧
        ∀ j, j < 8 * ((ba % 8 + w + 7) / 8) →
          x.testBit j = if ba % 8 ≤ j ∧ j < ba % 8 + w then code.testBit (j - ba % 8)
            else (old ((ba % 8 + w + 7) / 8)).testBit j)

/-- 08 R192, R213, 07 R162, R163: an access that is attempted when it starts: performed, its words wait to return in the
queue slots it reserved, or nothing of it remains; failed, its slots hold zero and the completion fault waits; not present,
it is parked in the die's fault buffer. A prefetch that fails leaves nothing, and so does the last access of an agent that
has ended. An access of a tile waits until a plane holds its image (04 R104), and one that is held waits.
08 R215, 14 R375: where an access of an agent goes. In the window it reaches the issuing core's scratchpad, untranslated,
when all of it lies in the team's area; a sequencer context, a migrated thread and an access outside the area fault.
Where the spec leaves the point open it is the model's choice: log 5, 56. -/
def Obligations.AccessOutcomes : Prop :=
  (∀ (s t s' : State) (i : Nat) (a b : Agent) (o : Op) (acc : Acc), tget s.agents i = some a → a.op o.id = some o →
      o.acc = some acc → tget s'.agents i = some b →
      let p := if o.st.isParked then { o with left := {} } else o
      let a' := a.putOp p
      ((∃ m, acc.captured = some m ∧ s.usePlanes (cobOfCore a.pos.core) o.id [m.1] = (false, t)) →
        s.tryOp i o.id none = t.setAgent i (a'.putOp { p with st := .held })) ∧
      ((acc.captured = none ∧ t = s) ∨ (∃ m, acc.captured = some m ∧ s.usePlanes (cobOfCore a.pos.core) o.id [m.1] = (true, t)) →
      (b.ended = true →
        (∀ ws, t.attempt a' o.id acc none = (.done ws, s') → s.tryOp i o.id none = s'.dropLate i b o.id) ∧
        (∀ ad pos, t.attempt a' o.id acc none = (.park ad pos, s') → s.tryOp i o.id none = s'.dropLate i b o.id) ∧
        ∀ c ad, t.attempt a' o.id acc none = (.fail c ad, s') → s.tryOp i o.id none = (s'.dropLate i b o.id).opOver p) ∧
      (∀ ws, t.attempt a' o.id acc none = (.done ws, s') → b.ended = false →
        s.tryOp i o.id none = if o.words = 0 ∧ o.silent = false then (s'.setAgent i (b.dropOp o.id)).opOver p
          else s'.setAgent i (b.putOp { p with st := .ready ws, acc := if acc.again = true then some acc else none })) ∧
      (∀ va, acc = .pref va → ∀ r, t.attempt a' o.id acc none = (r, s') → r = .done [] ∨ ∃ st l, r = .hold st l) ∧
      (∀ c ad, t.attempt a' o.id acc none = (.fail c ad, s') → b.ended = false →
        ∃ u, s.tryOp i o.id none = (s'.setAgent i u).opOver p ∧ u.op o.id = none ∧
          (∀ n, u.arch.queue.getD n {} = match (b.arch.queue.getD n {}).pend with
            | some (q, _) => if q = o.id then {} else b.arch.queue.getD n {}
            | none => b.arch.queue.getD n {}) ∧
          let info : FaultInfo := { cause := c, pc := o.pc, addr := BitVec.ofNat 64 ad, iword := o.iword, guard := o.guard }
          ∃ due, u.flt.fails = b.flt.fails ++ [⟨o.id, due, info⟩]) ∧
      (∀ ad pos, t.attempt a' o.id acc none = (.park ad pos, s') → b.ended = false → s'.bufferRoom (dieOfCore a.pos.core) = true →
        s.tryOp i o.id none = s'.setAgent i (b.putOp { p with st := .parked (dieOfCore a.pos.core) ad, left := { pos } })) ∧
      (∀ st left, t.attempt a' o.id acc none = (.hold st left, s') →
        s.tryOp i o.id none = s'.setAgent i (b.putOp { p with st, left, since := s'.waitsSince p.st st o.since })))) ∧
  (∀ (s : State) (a : Agent) (id va n : Nat) (acs : Acs), inWindow va = true → a.parkedOn id va n = none →
     let off := va % 2 ^ 40
     let area := s.areaOf a
     (a.id.seq = true → s.touch a id va n acs = (.fail 0x0C va, s)) ∧
     (a.id.seq = false → a.pos.away = true → s.touch a id va n acs = (.fail 0x19 va, s)) ∧
     (a.id.seq = false → a.pos.away = false → ¬ (area.1 ≤ off ∧ off + n ≤ area.1 + area.2) →
       s.touch a id va n acs = (.fail 0x0C va, s)) ∧
     (a.id.seq = false → a.pos.away = false → area.1 ≤ off → off + n ≤ area.1 + area.2 →
       s.touch a id va n acs = (.ok [(.scr a.pos.core off, n)], s)))

/-- 08 R213, R215, R228: memory and scratchpads. Bytes written are read back, every byte outside them reads as before, wider
values are little-endian, and no other place of the other kind changes. -/
def Obligations.WritesAndReads : Prop :=
  ∀ (s : State) (l : Loc) (bs : List Byte),
    (∀ j, j < bs.length → (s.write l bs).getByte (l.add j) = bs.getD j 0) ∧
    (∀ m : Loc, (∀ j, j < bs.length → placeOf m ≠ placeOf (l.add j)) → (s.write l bs).getByte m = s.getByte m) ∧
    (s.write l bs).getBytes l bs.length = bs ∧
    (∀ n, s.getNat l n = ((List.range n).map fun j => (s.getByte (l.add j)).toNat * 256 ^ j).sum) ∧
    (∀ x n, x < 256 ^ n → (s.write l (bytesOf x n)).getNat l n = x)

/-- 03 R65, 08 R216, R217: memory a device reaches is its own. Every place of memory that a range of a context resolves to lies
in a granule the device owns, on a die that is not lost, in a backed address; and a range never resolves to a scratchpad.
03 R65, 08 R215: whatever a load, a store, an element access or an update of an agent does when it is attempted, every byte
of memory outside the granules its device owns reads as before, and so does every byte of the scratchpads outside its team's
area on its core.
Where the spec leaves the point open it is the model's choice: log 47. -/
def Obligations.DevicesKeepApart : Prop :=
  (∀ (s t : State) (vd ctx va n : Nat) (acs : Acs) (ls : List (Loc × Nat)), 0 < n → n ≤ 4096 →
     s.resolve vd ctx va n acs = (.ok ls, t) →
     (ls.map (·.2)).sum = n ∧
     ∀ l k, (l, k) ∈ ls → ∃ pa g d, l = .mem pa ∧ granuleOf pa = some g ∧ s.ownerOf g = vd ∧ s.homeDie pa = some d ∧
       (s.die d).lost = false) ∧
  (∀ (s t : State) (a : Agent) (id : Nat) (acc : Acc) (r : Att) (data : Option (List Byte)), SingleAccess acc →
     s.attempt a id acc data = (r, t) →
     (∀ pa g, granuleOf pa = some g → s.ownerOf g ≠ a.id.vd → t.getByte (.mem pa) = s.getByte (.mem pa)) ∧
     (∀ c o, ¬ (scrKey a.pos.core (s.areaOf a).1 ≤ scrKey c o ∧
         scrKey c o < scrKey a.pos.core ((s.areaOf a).1 + (s.areaOf a).2)) →
       t.getByte (.scr c o) = s.getByte (.scr c o)))

/-! Counters' waits, barriers, ordering, scopes (14, 09). -/

/-- 14 R392, R393, 09 R235, R248: `ctwait` reads the counter and arms in one step. Satisfied at once it goes on with the value
read; a timeout of 0 faults with cause 0x17; otherwise the agent waits, armed at the counter's place; an armed wait that a
write has satisfied goes on with that write's value, or faults where the scope no longer held at that write; one that no write has
satisfied goes on waiting.
09 R248: a write examines every armed wait of the counter: the first after which C ≥ T satisfies it with the value it
left, and a later lowering changes nothing; a write past the wait's limit does not satisfy it.
Where the spec leaves the point open it is the model's choice: log 10, 22. -/
def Obligations.CounterWaits : Prop :=
  (∀ (h : Hdr) (sk : BitVec 6) (tm : Option Src) (a b : Src) (d : Dst) s i A, Issues s i A h →
     let done (s' : State) (v : Nat) := s'.after i ({ A with pend := { A.pend with ct := none } }.putResult d 2 v) h
     (A.pend.ct = none → A.memHeld = false → A.hasParked = false → A.dstReady d 2 = .ok () →
       ∀ x y L s' l, A.srcs ([⟨a, 64, .int⟩, ⟨b, 64, .int⟩] ++ (tm.map fun t => ⟨t, 32, .int⟩).toList) =
           .ok ([x, y] ++ (tm.map fun _ => L).toList) → x % 8 = 0 → Reaches s A (some sk.toNat) x 8 →
         ownDead A.pend.own x 8 false = none → s.touch A s.run.nextId x 8 .r = (.ok [(l, 8)], s') →
         (y ≤ s'.getNat l 8 → s'.scopeDenies A sk.toNat = 0 →
           exec (.ctwait h sk tm a b d) s = .next (done s' (s'.getNat l 8))) ∧
         (y ≤ s'.getNat l 8 → s'.scopeDenies A sk.toNat ≠ 0 →
           exec (.ctwait h sk tm a b d) s = .next (s.raise i (faultAt s' A (s'.scopeDenies A sk.toNat) sk.toNat))) ∧
         (s'.getNat l 8 < y → tm ≠ none → L = 0 →
           exec (.ctwait h sk tm a b d) s = .next (s.raise i (faultAt s A 0x17 x))) ∧
         (s'.getNat l 8 < y → (tm = none ∨ L ≠ 0) →
           exec (.ctwait h sk tm a b d) s = .next (s'.setAgent i { A with
             sched := { A.sched with polled := true }
             pend := { A.pend with
               own := A.pend.own.filter (·.late)
               ct := some (CtArm.mk l x y sk.toNat s'.now (tm.map fun _ => L) none 0 0) } }))) ∧
     (∀ c v, A.pend.ct = some c → c.hit = some v →
       (c.denied = 0 → exec (.ctwait h sk tm a b d) s = .next (done s v)) ∧
       (c.denied ≠ 0 → exec (.ctwait h sk tm a b d) s = .next (s.raise i (faultAt s A c.denied c.sk)))) ∧
     (∀ c, A.pend.ct = some c → c.hit = none →
       exec (.ctwait h sk tm a b d) s = .next (s.setAgent i { A with sched := { A.sched with polled := true } }))) ∧
  (∀ (s : State) (l : Loc) (bs : List Byte) (i : Nat) (a : Agent) (c : CtArm), tget s.agents i = some a →
     a.pend.ct = some c →
     ∃ b c', tget (s.write l bs).agents i = some b ∧ b.pend.ct = some c' ∧
       (∀ v, c.hit = some v → c' = c) ∧
       (c.hit = none → overlaps l bs.length c.loc 8 = false → c' = c) ∧
       (c.hit = none → c.expired s.now = true → c' = c) ∧
       (c.hit = none → c.expired s.now = false → overlaps l bs.length c.loc 8 = true →
         let v := (s.write l bs).getNat c.loc 8
         (c.thr ≤ v → c' = { c with hit := some v, hitAt := s.now, denied := s.scopeDenies a c.sk }) ∧ (v < c.thr → c' = c)))

/-- 09 R250, R251, 14 R396, R397: a `bar` makes one update of its object at the issuing core's scratchpad and pushes the phase
before it; past a limit it faults with cause 0x1A and changes nothing; outside the window it faults with cause 0x0C.
Where the spec leaves the point open it is the model's choice: log 22. -/
def Obligations.BarrierUpdates : Prop :=
  ∀ (h : Hdr) (sk : BitVec 6) (a b : Src) (d : Dst) s i A x y, Issues s i A h → A.memHeld = false → A.hasParked = false →
    A.src ⟨a, 64, .int⟩ = .ok x → A.src ⟨b, 32, .int⟩ = .ok y → A.dstReady d 2 = .ok () → x % 16 = 0 →
    let o := s.barAt A.pos.core (x % 2 ^ 40)
    let sc := some sk.toNat
    (inWindow x = true → Reaches s A none x 16 →
      BarDoes (.barInit h a b) s i A h x .nil
        (if 4095 < y then none else some { o with expected := y, arrived := 0, pending := 0 }) ∧
      BarDoes (.barExpect h a b) s i A h x .nil (barNext o 0 y) ∧
      BarDoes (.barPhase h a d) s i A h x d (some o)) ∧
    (inWindow x = true → Reaches s A sc x 16 →
      BarDoes (.barArrive h sk a d) s i A h x d (barNext o 1 0) ∧
      BarDoes (.barArrivex h sk a b d) s i A h x d (barNext o 1 y)) ∧
    (inWindow x = false →
      exec (.barInit h a b) s = .next (s.raise i (faultAt s A 0x0C x)) ∧
      exec (.barExpect h a b) s = .next (s.raise i (faultAt s A 0x0C x)) ∧
      exec (.barPhase h a d) s = .next (s.raise i (faultAt s A 0x0C x)))

/-- 14 R398, R402, R403, R385, 09 R256, R257: a fence that its agent's accesses do not hold goes on, one in the order S that
spans dies with a number of the hub; an instruction cache is invalidated line by line on the member cores; a prefetch and the
line instructions go on, and pins are put and removed, once the lines they name have been brought.
14 R403: what pinning does at each level: no pin goes; the lines of the range whose address translates are pinned, each once,
as long as fewer than the limit are, 256 lines for a core and 131,072 for a die; unpinning removes the context's pins of the range
and no other; nothing but the pins changes. Lines written back at level 1 are dirty no more and stay; code brought to the core leaves
memory as it is.
Where the spec leaves the point open it is the model's choice: log 5, 39. -/
def Obligations.OrderingLinesAndPins : Prop :=
  (∀ (h : Hdr) (k : FenceKind) (sk : BitVec 6) (l1 : Bool) (sz : LdSize) (ofs : BitVec 12) (a b : Src) s i A,
     Issues s i A h →
     (s.scopeCheck A sk.toNat = .ok () → A.memHeld = false → A.hasParked = false →
       exec (.fence h k sk) s =
         .next ((if k = .sc ∧ s.spansDies A sk.toNat = true then { s with pkg := { s.pkg with hubSeq := s.pkg.hubSeq + 1 } }
           else s).advance i h.settle none)) ∧
     (∀ c ad, s.scopeCheck A sk.toNat = .fault c ad →
       exec (.fence h k sk) s = .next (s.raise i (faultAt s A c ad))) ∧
     (∀ x c, A.srcs [⟨a, 64, .int⟩, ⟨b, 32, .int⟩] = .ok [x, c] →
       exec (.ipref h l1 a b) s = .next ((s.bringRange l1 A x c).advance i h.settle none) ∧
       exec (.cwb h l1 a b) s = .next ((s.cleanRange l1 A x c).advance i h.settle none) ∧
       exec (.ipin h l1 a b) s = .next (((s.bringRange l1 A x c).pinRange l1 A x c).advance i h.settle none) ∧
       exec (.irel h l1 a b) s = .next ((s.unpinRange l1 A x c).advance i h.settle none) ∧
       (s.scopeCheck A sk.toNat = .ok () → A.memHeld = false → A.hasParked = false →
         ∃ t : State, exec (.icinv h sk a b) s = .next (t.advance i h.settle none) ∧
           t = { s with cores := t.cores } ∧
           ∀ n K, tget s.cores n = some K → ∃ K', tget t.cores n = some K' ∧ K' = { K with icache := K'.icache } ∧
             ∀ L, L ∈ K'.icache ↔ L ∈ K.icache ∧
               ¬ (s.member A.id.vd A.id.ctx sk.toNat A.issuer n = true ∧ L.vd = A.id.vd ∧ L.ctx = A.id.ctx ∧ 0 < c ∧
                 x / 128 ≤ L.va / 128 ∧ L.va / 128 ≤ (x + c - 1) / 128))) ∧
     (∀ n ad, A.srcs [⟨a, 64, .int⟩, ⟨b, 32, .int⟩] = .fault n ad →
       exec (.ipref h l1 a b) s = .next (s.advance i h.settle none) ∧
       exec (.cwb h l1 a b) s = .next (s.advance i h.settle none) ∧
       exec (.ipin h l1 a b) s = .next (s.advance i h.settle none) ∧
       exec (.irel h l1 a b) s = .next (s.advance i h.settle none)) ∧
     (∀ x, A.src ⟨a, 64, .int⟩ = .ok x →
       let line := (BitVec.ofNat 64 x + ofs.signExtend 64 * BitVec.ofNat 64 sz.bytes).toNat / 128 * 128
       let t := if inWindow line then s else s.startOp i A (.pref line) 0 .nil false false none
       exec (.pref h sz ofs sk a) s = .next (t.advance i h.settle none) ∧ t.mem = s.mem ∧ t.scr = s.scr) ∧
     (∀ n ad, A.src ⟨a, 64, .int⟩ = .fault n ad → exec (.pref h sz ofs sk a) s = .next (s.advance i h.settle none))) ∧
  (∀ (s : State) (a : Agent) (va c : Nat) (l1 : Bool),
     let core := a.pos.core
     let pins (t : State) : List Pin := if l1 then (t.die (core / 96)).l2pins else (t.core core).pins
     let limit := if l1 then 131072 else 256
     let mine (p : Pin) : Prop := p.vd = a.id.vd ∧ p.ctx = a.id.ctx ∧ 0 < c ∧ va / 128 ≤ p.va / 128 ∧ p.va / 128 ≤ (va + c - 1) / 128
     let t := s.pinRange l1 a va c
     let u := s.unpinRange l1 a va c
     (∀ p, p ∈ pins s → p ∈ pins t) ∧
     (∀ p, p ∈ pins t → p ∈ pins s ∨ mine p) ∧
     ((pins s).Nodup → (pins t).Nodup) ∧
     ((pins s).length ≤ limit → (pins t).length ≤ limit) ∧
     (∀ n, 0 < c → va / 128 ≤ n → n ≤ (va + c - 1) / 128 → (∃ w, s.walk a.id.vd a.id.ctx (128 * n) .x = .ok w) →
       (pins t).length < limit → ∃ p, p ∈ pins t ∧ p.vd = a.id.vd ∧ p.ctx = a.id.ctx ∧ p.va = 128 * n) ∧
     (∀ p, p ∈ pins u ↔ p ∈ pins s ∧ ¬ mine p) ∧
     (l1 = false → t = { s with cores := t.cores } ∧ u = { s with cores := u.cores }) ∧
     (l1 = true → t = { s with dies := t.dies } ∧ u = { s with dies := u.dies }) ∧
     (let w := s.cleanRange l1 a va c
      w = { s with sideCache := w.sideCache } ∧ (l1 = false → w = s) ∧
      (w.sideCache.map fun x => (x.line, x.die, x.way)) = (s.sideCache.map fun x => (x.line, x.die, x.way)) ∧
      (∀ x, x ∈ w.sideCache → ∃ y, y ∈ s.sideCache ∧ y.line = x.line ∧ (x.dirty = true → y.dirty = true)) ∧
      (∀ n p, l1 = true → 0 < c → va / 128 ≤ n → n ≤ (va + c - 1) / 128 →
        s.walk a.id.vd a.id.ctx (128 * n) .r = .ok p → p.rmt = none → s.physFail a.id.vd p.pa 128 = none →
        ∀ x, x ∈ w.sideCache → x.line = p.pa / 128 → x.dirty = false)) ∧
     (let w := s.bringRange l1 a va c
      w.mem = s.mem ∧ w.scr = s.scr ∧ w.agents = s.agents ∧ (l1 = true → w = s)))

/-- 09 R229 to R234, 14 R399, R400: `scopew` reads a descriptor and, where it is legal, makes the entry PENDING with the next
generation, here or at the peers its range names; an index below 8 and a context without the permission fault; `scoper` writes the descriptor, MEMBERS, VALID, MEET and SITE with
GEN and STATE, and pushes GEN and STATE: of a fixed entry as formed from the issuing core, zeros for an INVALID one and for 6 and 7,
the current definition of a VALID one, the accepted one of a PENDING one.
09 R231: the results of `scopew` for a descriptor: a reserved bit, and no member of a valid entry; a meeting cache that does
not hold every member; a site that does not. A descriptor that is not VALID is accepted.
Where the spec leaves the point open it is the model's choice: log 22. -/
def Obligations.ScopeTable : Prop :=
  (∀ (h : Hdr) (sk : BitVec 6) (a : Src) (d : Dst) s i A x, Issues s i A h → A.src ⟨a, 64, .int⟩ = .ok x →
     A.dstReady d 1 = .ok () →
     let vd := A.id.vd
     let cx := A.id.ctx
     let k := sk.toNat
     (k < 8 ∨ (s.ctx vd cx).scopew = false → exec (.scopew h sk a d) s = .next (s.raise i (faultAt s A 0x0C 0))) ∧
     (8 ≤ k → (s.ctx vd cx).scopew = true → x % 64 ≠ 0 →
       exec (.scopew h sk a d) s = .next (s.raise i (faultAt s A 0x0A x))) ∧
     (8 ≤ k → (s.ctx vd cx).scopew = true → x % 64 = 0 → (s.scope vd cx k).st ≠ .pending → A.memHeld = false →
       (∀ n ad r s', s.ownTouch A x 192 .r [] = (.fail n ad r, s') →
         exec (.scopew h sk a d) s = .next (s.raise i (faultAt s' A n ad r))) ∧
       ∀ bs s', ReadsOwn s A x 192 bs s' →
         let D := ofBytes bs
         let e := s'.scope vd cx k
         (scopewCode D = 0 →
           ∃ e', exec (.scopew h sk a d) s = .next ((s'.setScope vd cx k e').after i (A.putResult d 1 0) h) ∧
             e'.gen = (e.gen + 1) % 4096 ∧ e'.st = .pending ∧ e'.was = e.st ∧ e'.nmembers = D % 2 ^ 1152 ∧
             e'.nvalid = D.testBit 1152 ∧ e'.nmeet = D / 2 ^ 1153 % 4 ∧ e'.nsite = D / 2 ^ 1155 % 4 ∧
             e'.members = e.members ∧ e'.meet = e.meet ∧ e'.site = e.site) ∧
         (scopewCode D ≠ 0 →
           exec (.scopew h sk a d) s = .next (s'.after i (A.putResult d 1 (scopewCode D)) h))) ∧
     (x % 64 = 0 → A.memHeld = false → ∀ s' (put : List Byte → State),
       (∃ l, (∀ bs, s.ownTouch A x 192 .w bs = (.ok l, s')) ∧ put = s'.writeChunks l) ∨
       (∃ parts ans, (∀ bs, s.ownTouch A x 192 .w bs = (.far parts ans, s')) ∧ put = s'.putParts parts) →
       ∃ (bs : List Byte) (B : Agent) (m v me si g st : Nat), bs.length = 192 ∧
         exec (.scoper h sk a d) s = .next ((put bs).after i (B.putResult d 1 (g + 65536 * st)) h) ∧
         tget (put bs).agents i = some B ∧
         ofBytes bs = m % 2 ^ 1152 + 2 ^ 1152 * ((v + 2 * me + 8 * si) % 2 ^ 16) + 2 ^ 1168 * (g % 2 ^ 16) + 2 ^ 1184 * st ∧
         let e := s.scope vd cx k
         (k < 6 → v = 1 ∧ g = 0 ∧ st = 1 ∧ me = (if k < 2 then 0 else if k < 4 then 1 else if k = 4 then 2 else 3) ∧
           si = (if k < 2 then 0 else if k = 2 then 1 else 2) ∧ ∀ c, c < 1152 → m.testBit c =
           ((match k with
             | 0 | 1 => decide (c = A.issuer)
             | 2 => decide (c / 4 = A.issuer / 4)
             | 3 => decide (c / 96 = A.issuer / 96)
             | _ => true) && (decide (k < 2) || s.coreOn c))) ∧
         (k = 6 ∨ k = 7 ∨ (8 ≤ k ∧ e.st = .invalid) → m = 0 ∧ v = 0 ∧ me = 0 ∧ si = 0 ∧ g = e.gen ∧ st = 0) ∧
         (8 ≤ k → e.st = .valid → m = e.members ∧ v = 1 ∧ me = e.meet ∧ si = e.site ∧ g = e.gen ∧ st = 1) ∧
         (8 ≤ k → e.st = .pending → m = e.nmembers ∧ v = (if e.nvalid = true then 1 else 0) ∧ me = e.nmeet ∧ si = e.nsite ∧
           g = e.gen ∧ st = 2))) ∧
  (∀ (x : Nat),
     let m (c : Nat) : Prop := c < 1152 ∧ x.testBit c = true
     let meet := x / 2 ^ 1153 % 4
     let site := x / 2 ^ 1155 % 4
     let bad := descReserved x = true ∨ ∀ c, ¬ m c
     let meetOk := (meet = 0 → ∀ c c', m c → m c' → c = c') ∧ (meet = 1 → ∀ c c', m c → m c' → c / 96 = c' / 96)
     let siteOk := (site = 0 → ∀ c c', m c → m c' → c = c') ∧ (site = 1 → ∀ c c', m c → m c' → c / 4 = c' / 4)
     (x.testBit 1152 = false → scopewCode x = 0) ∧
     (x.testBit 1152 = true →
       (bad → scopewCode x = 1) ∧ (¬ bad → ¬ meetOk → scopewCode x = 2) ∧ (¬ bad → meetOk → ¬ siteOk → scopewCode x = 3) ∧
       (¬ bad → meetOk → siteOk → scopewCode x = 0)))

/-- 09 R229 to R235: the check of a scope index: fixed entries pass, a VALID entry passes its members and no other core with
cause 0x09, an INVALID one faults with 0x08, a PENDING one waits; and an update takes effect when no operation checked under
the old definition is outstanding. -/
def Obligations.ScopeChecks : Prop :=
  ∀ (s : State) (a : Agent) (k vd cx : Nat),
    let e := s.scope a.id.vd a.id.ctx k
    (k < 6 → s.scopeCheck a k = .ok ()) ∧
    (6 ≤ k → e.st = .invalid → s.scopeCheck a k = .fault 0x08 k) ∧
    (6 ≤ k → e.st = .pending → s.scopeCheck a k = .wait) ∧
    (6 ≤ k → e.st = .valid → e.members.testBit a.issuer = true → s.scopeCheck a k = .ok ()) ∧
    (6 ≤ k → e.st = .valid → e.members.testBit a.issuer = false → s.scopeCheck a k = .fault 0x09 k) ∧
    ((s.scope vd cx k).st = .pending → s.scopeBusy vd cx k = false →
      ∃ e', exec (.scopeUpdateEffect vd cx k) s = .next { s.setScope vd cx k e' with
          grids := tmap s.grids fun _ g =>
            if g.vd = vd ∧ g.lrec.ctx = cx ∧ g.lrec.ascope = k then { g with acqWait := false } else g } ∧
        e'.gen = (s.scope vd cx k).gen ∧
        ((s.scope vd cx k).nvalid = true → e'.st = .valid ∧ e'.members = (s.scope vd cx k).nmembers ∧
          e'.meet = (s.scope vd cx k).nmeet ∧ e'.site = (s.scope vd cx k).nsite) ∧
        ((s.scope vd cx k).nvalid = false → e'.st = .invalid)) ∧
    ((s.scope vd cx k).st ≠ .pending ∨ s.scopeBusy vd cx k = true → exec (.scopeUpdateEffect vd cx k) s = .next s)

/-! Control (12 R326 to R341, 11 R297 to R301). -/

/-- 12 R335, 11 R292: the next instruction is at the address control goes to, after the body-end test: the innermost loop whose
end it is goes round again while its count is above 1, and is popped otherwise, and then the next loop is tested. An
instruction that transfers no control goes on at PC + 8. A microprogram goes to its next operation, and at its end to the word
after the `macro`. What the instruction asked of memory for itself is over, but for what outlives it. -/
def Obligations.Advance : Prop :=
  ∀ (s : State) (i : Nat) (a : Agent) (npc : Option DWord), tget s.agents i = some a →
    let a' : Agent := { a with pend := { a.pend with own := a.pend.own.filter (·.late) } }
    let goTo (pc : DWord) (ls : List Loop) := s.setAgent i { a' with arch := { a.arch with pc, loops := ls } }
    let n := npc.getD (a.arch.pc + 8)
    (a.arch.mac = none →
      (a.arch.loops = [] → s.advance i false npc = goTo n []) ∧
      (∀ l ls, a.arch.loops = l :: ls →
        let stop := l.start + BitVec.ofNat 64 (8 * l.len)
        (n ≠ stop → s.advance i false npc = goTo n (l :: ls)) ∧
        (n = stop → 1 < l.count.toNat → s.advance i false npc = goTo l.start ({ l with count := l.count - 1 } :: ls)) ∧
        (n = stop → l.count.toNat ≤ 1 →
          s.advance i false npc =
            (s.setAgent i { a with arch := { a.arch with loops := ls } }).advance i false (some n)))) ∧
    (∀ m, a.arch.mac = some m →
      (s.macReaches a m.idx (m.j + 1) = true →
        s.advance i false npc = s.setAgent i { a' with arch := { a.arch with mac := some { m with j := m.j + 1 } } }) ∧
      (s.macReaches a m.idx (m.j + 1) = false →
        s.advance i false npc =
          (s.setAgent i { a with arch := { a.arch with mac := none } }).advance i m.settle none))

/-- 12 R328, R334, R336, R338: branches, loops entered and left, and `yield`; a target that is no multiple of 8 and a loop stack
of 4 entries or too few fault. -/
def Obligations.BranchesAndLoops : Prop :=
  ∀ (h : Hdr) (off : Word) (o31 : BitVec 31) (k : Fin 4) (a : Src) s i A, Issues s i A h →
    exec (.bra h off) s =
      .next (s.advance i h.settle (some (A.arch.pc + 8 + 8 * off.signExtend 64))) ∧
    (∀ b, A.src ⟨a, 64, .int⟩ = .ok b →
      let t := BitVec.ofNat 64 b + 8 * off.signExtend 64
      (t.toNat % 8 = 0 → exec (.brx h a off) s = .next (s.advance i h.settle (some t))) ∧
      (t.toNat % 8 ≠ 0 → exec (.brx h a off) s = .next (s.raise i (faultAt s A 0x0A t.toNat)))) ∧
    (∀ n, A.src ⟨a, 32, .int⟩ = .ok n →
      (n = 0 → exec (.loop h a o31) s =
        .next (s.advance i h.settle (some (A.arch.pc + 16 + 8 * BitVec.ofNat 64 o31.toNat)))) ∧
      (0 < n → 4 ≤ A.arch.loops.length → exec (.loop h a o31) s = .next (s.raise i (faultAt s A 0x11 0))) ∧
      (0 < n → A.arch.loops.length < 4 → exec (.loop h a o31) s =
        .next (s.after i { A with arch := { A.arch with
          loops := ⟨A.arch.pc + 8, o31.toNat + 1, BitVec.ofNat 32 n⟩ :: A.arch.loops } } h))) ∧
    (A.arch.loops.length ≤ k.val → exec (.lbrk h k) s = .next (s.raise i (faultAt s A 0x11 0))) ∧
    (∀ l ls, A.arch.loops.drop k.val = l :: ls → exec (.lbrk h k) s =
      .next ((s.setAgent i { A with arch := { A.arch with
        loops := ls, pc := l.start + BitVec.ofNat 64 (8 * l.len) } }).markSettle i h.settle)) ∧
    exec (.yield h) s = .next (s.after i { A with sched := { A.sched with age := 0, yielded := true } } h)

/-- 12 R329 to R331, 08 R195 to R198: `call` and `callx` push a frame of zero registers with its link record, in granules free in
the agent's pool, and go to the target; at the limit of the call depth, a target that is no multiple of 8, and a sequencer's
pool that is too small, they fault.
08 R198, R199: a frame request that the pool cannot serve waits: the thread stays at its `call` as frame-blocked, with the
target and landing it has read, behind the requests made earlier.
Where the spec leaves the point open it is the model's choice: log 6, 10. -/
def Obligations.Calls : Prop :=
  (∀ (h : Hdr) (dem : Fin 16) (land : Option Src) (limm : Option Word) (off : Word) (a : Src) s i A,
     Issues s i A h → A.pend.freq = none →
     let D := 8 * (dem.val + 1)
     let want := (D + 15) / 16
     let p := poolOf i A
     let enters (ins : Instr) (t : DWord) (hf : Bool) (lw : Word) : Prop :=
       (255 ≤ A.depth → exec ins s = .next (s.raise i (faultAt s A 0x12 0))) ∧
       (A.depth < 255 → A.id.seq = true → (s.freeGran p).length < want →
         exec ins s = .next (s.raise i (faultAt s A 0x12 0))) ∧
       (A.depth < 255 → s.blockedIn p = [] → want ≤ (s.freeGran p).length →
         ∃ (u : State) (f : Frame), exec ins s = .next (u.advance i h.settle (some t)) ∧
           u = { s with agents := u.agents, run := { s.run with free := u.run.free, nextId := s.run.nextId + 1 } } ∧
           u.agents = tset s.agents i { A with arch := { A.arch with frames := f :: A.arch.frames } } ∧
           f = ⟨s.run.nextId, BitVec.ofNat 64 ((A.arch.pc.toNat + 8) % 2 ^ 57), D, hf, false, lw, List.replicate D 0, f.gran⟩ ∧
           f.gran.length = want ∧ f.gran.Nodup ∧ ∀ g, g ∈ f.gran → g ∈ s.freeGran p)
     let T := A.arch.pc + 8 + 8 * off.signExtend 64
     (land = none → enters (.call h dem land off) T false 0) ∧
     (∀ c l, land = some c → A.src ⟨c, 32, .int⟩ = .ok l → enters (.call h dem land off) T true (BitVec.ofNat 32 l)) ∧
     (∀ t, A.src ⟨a, 64, .int⟩ = .ok t →
       (t % 8 ≠ 0 → exec (.callx h dem a limm) s = .next (s.raise i (faultAt s A 0x0A t))) ∧
       (t % 8 = 0 → enters (.callx h dem a limm) (BitVec.ofNat 64 t) limm.isSome (limm.getD 0)))) ∧
  (∀ (h : Hdr) (dem : Fin 16) (off : Word) s i A, Issues s i A h → A.pend.freq = none → A.id.seq = false → A.depth < 255 →
     let want := (8 * (dem.val + 1) + 15) / 16
     let p := poolOf i A
     (s.blockedIn p ≠ [] ∨ (s.freeGran p).length < want) →
     ∃ (t : State) (B : Agent) (r : FReq), exec (.call h dem none off) s = .next t ∧
       t = { s with agents := t.agents, run := { s.run with nextId := s.run.nextId + 1 } } ∧
       t.agents = tset s.agents i B ∧
       B = { A with pend := { A.pend with freq := some r }, sched := { A.sched with polled := true } } ∧
       r = { pool := p, want, own := false, since := s.run.nextId,
             args := [(A.arch.pc + 8 + 8 * off.signExtend 64).toNat, 0] } ∧ B.frameBlocked = true)

/-- 12 R332, R333: `ret` and `unwind` with the frame they go to resident: the frames above are released and control goes to
the return address, or to the landing; with no caller, above a trap frame, or with no handler frame, they fault. -/
def Obligations.Returns : Prop :=
  ∀ (h : Hdr) s i A f fs, Issues s i A h → A.pend.freq = none → A.arch.frames = f :: fs →
    (A.depth = 0 ∨ f.trf = true → exec (.ret h) s = .next (s.raise i (faultAt s A 0x12 0))) ∧
    (f.trf = false → fs ≠ [] →
      exec (.ret h) s = .next (((s.setAgent i { A with arch := { A.arch with frames := fs } }).noteFreed (poolOf i A)).advance
        i h.settle (some f.ret))) ∧
    ((∀ g, g ∈ A.arch.frames → g.hf = false ∨ g.trf = true) → (∀ e, e ∈ A.arch.evicted → e.hf = false ∨ e.trf = true) →
      exec (.unwind h) s = .next (s.raise i (faultAt s A 0x12 0))) ∧
    (∀ xs g gs, A.arch.frames = xs ++ g :: gs → (∀ x, x ∈ xs → x.hf = false ∧ x.trf = false) → g.hf = true → g.trf = false →
      ∃ (u : State) (B : Agent), exec (.unwind h) s =
          .next (u.advance i h.settle (some (g.ret + 8 * g.land.signExtend 64))) ∧
        tget u.agents i = some B ∧ B.arch = { A.arch with frames := g :: gs } ∧ B.flt = A.flt ∧ u.mem = s.mem ∧ u.scr = s.scr ∧
        ∀ j, j ≠ i → (tget u.agents j).map (·.arch) = (tget s.agents j).map (·.arch))

/-- 12 R337, R339, R341: `exit` waits for the agent's results and then ends it, once what it runs on a matrix array has completed: nothing is left of it but the accesses that still have
to perform (log 56); `trap` and `bkpt` raise their cause
with the resume point PC + 8; `frq` returns a deferred snapshot of the pool.
Where the spec leaves the point open it is the model's choice: log 10, 56. -/
def Obligations.EndsAndTraps : Prop :=
  ∀ (h : Hdr) (code : BitVec 8) (dem : Fin 17) (d : Dst) s i A, Issues s i A h →
    (A.settling = false → (A.inHandler = true ∨ A.completions true = []) →
      let u := s.finishEntries i A.pend.mq.length
      exec (.exit h) s = .next ((u.endAgent i true).markSettle i h.settle) ∧
      ((∀ e, e ∈ A.pend.mq → e.array = none) → u = s) ∧
      tget (u.endAgent i true).agents i = A.late ∧
      (A.quiet = true → A.late = none) ∧
      ∀ b, A.late = some b → b.ended = true ∧ b.pend.ops ≠ [] ∧
        ∀ o, o ∈ b.pend.ops → ∃ o', o' ∈ A.pend.ops ∧ o'.id = o.id ∧ o'.acc = o.acc ∧ o'.st = o.st) ∧
    (A.settling = true →
      exec (.exit h) s = .next (s.setAgent i { A with sched := { A.sched with polled := true } })) ∧
    (A.arch.mac = none →
      exec (.trap h code) s = .next (s.raise i { cause := 0x13, pc := A.arch.pc, resume := some (A.arch.pc + 8), iword := s.run.word }) ∧
      exec (.bkpt h code) s = .next (s.raise i { cause := 0x14, pc := A.arch.pc, resume := some (A.arch.pc + 8), iword := s.run.word })) ∧
    (A.dstReady d 1 = .ok () →
      ∃ w : Word, exec (.frq h dem d) s = .next ((s.startReady i A [w] d []).advance i h.settle none) ∧
        let free := (s.freeGran (poolOf i A)).length
        (free < 128 → A.depth < 256 →
          w.toNat % 256 = free ∧ w.toNat / 256 % 256 = A.depth ∧ w.toNat / 2 ^ 17 = 0 ∧
          (w.toNat / 2 ^ 16 % 2 = 1 ↔ dem.val ≠ 0 ∧ (∀ x, x ∈ s.blockedIn (poolOf i A) → x.2.2.pool ≠ poolOf i A) ∧ (8 * dem.val + 15) / 16 ≤ free)))

/-- 11 R299 to R301: a `macro` whose microprogram has a first operation enters it, whichever way the guard falls, with its guard
and marker; an index of 64 or more, or an empty microprogram, faults with cause 0x18 when the guard is true and does nothing
otherwise. Inside, the program counter of an operation is tagged.
Where the spec leaves the point open it is the model's choice: log 10, 36. -/
def Obligations.Microprograms : Prop :=
  ∀ (h : Hdr) (idx : BitVec 8) (p q r : Src) s i A g, Stands s i A → A.guard h = .ok g → A.arch.mac = none →
    let ok := idx.toNat < 64 ∧ (s.core (s.teamCore A)).store.getD (32 * idx.toNat) 0 ≠ 0
    (ok → exec (.macroOp h idx p q r) s = .next (s.setAgent i { A with
      arch := { A.arch with mac := some ⟨idx.toNat, 0, h.gp, h.gn, h.settle, p.code, q.code, r.code, false⟩ }
      sched := { A.sched with polled := true } })) ∧
    (¬ ok → g = true → exec (.macroOp h idx p q r) s = .next (s.raise i (faultAt s A 0x18 idx.toNat))) ∧
    (¬ ok → g = false → exec (.macroOp h idx p q r) s = .next (s.advance i h.settle none)) ∧
    (∀ m : MacRun, m.j < 32 → A.arch.pc.toNat < 2 ^ 57 →
      ({ A with arch := { A.arch with mac := some m } } : Agent).curPc.toNat = 2 ^ 62 + m.j * 2 ^ 57 + A.arch.pc.toNat)

/-! Issue, traps and returns (07 R160 to R173, 08 R191, 11 R282, R290, R296). -/

/-- 11 R290, R296: an instruction of a class its agent may not execute raises cause 0x07, and one only for handlers outside
handler mode cause 0x0C, whether or not it is guarded off, with no effect of its own.
08 R191, 11 R282: a guarded-off instruction pushes as many words as it would have, from its first source, low words first
and zero words after them, or zero words without a source; it writes no frame register and no predicate; one that would push
nothing only goes on. -/
def Obligations.IssueAndGuards : Prop :=
  (∀ (ins : Instr) (w : Nat) (s : State) (i : Nat) (a : Agent), encodeNat ins = some w → Stands s i a →
     (a.id.seq = true → threadOp (opOf w) = true → exec ins s = .next (s.raise i (faultAt s a 0x07 0))) ∧
     (a.id.seq = false → seqOp (opOf w) = true → exec ins s = .next (s.raise i (faultAt s a 0x07 0))) ∧
     (handlerWord w = true → a.inHandler = false → a.sched.psaved = none → exec ins s = .next (s.raise i (faultAt s a 0x0C 0)))) ∧
  (∀ (ins : Instr) (g : RegShape) (s : State) (i : Nat) (a : Agent), regShape ins = some g → Stands s i a → g.c.forbids a = false → a.guard g.h = .ok false →
     (g.d = .nil ∨ (∃ p, g.d = .pred p) → exec ins s = .next (s.after i a g.h)) ∧
     (g.d = .push ∨ (∃ n, g.d = .reg n) → 0 < g.k →
       (g.os = [] → exec ins s = .next (s.after i (a.push (List.replicate g.k 0)) g.h)) ∧
       (∀ o os ws, g.os = o :: os → a.srcWords o = .ok ws →
         exec ins s = .next (s.after i (a.push ((ws ++ List.replicate g.k 0).take g.k)) g.h)) ∧
       (∀ o os c ad, g.os = o :: os → a.srcWords o = .fault c ad → exec ins s = .next (s.raise i (faultAt s a c ad)))))

/-- 08 R189, R190, R196, 11 R286, 12 R310: the frame of an instruction that computes a result from registers. Only its agent
differs, and of the agent only the queue entries pushed, the registers its DST names, the predicate its DST names and where it
stands in its program; no byte of memory or of a scratchpad does. Until a source can be read or the destination written it
faults, with no effect of its own, or waits. -/
def Obligations.RegisterFrame : Prop :=
  ∀ (ins : Instr) (g : RegShape) (s : State) (i : Nat) (a : Agent), regShape ins = some g → Issues s i a g.h → g.c.forbids a = false →
    (∀ xs, a.srcs g.os = .ok xs → a.dstReady g.d g.k = .ok () →
      ∃ (u : State) (b : Agent) (m : Bool), exec ins s = .next (u.markSettle i m) ∧ (a.arch.mac = none → m = g.h.settle) ∧
        u = { s with agents := u.agents, run := { s.run with nextId := u.run.nextId } } ∧
        (∀ j, j ≠ i → tget u.agents j = tget s.agents j) ∧ tget u.agents i = some b ∧ KeepsRegs a b g.d g.k ∧
        (g.later = false → b.pend = { a.pend with own := a.pend.own.filter (·.late) } ∧ u.run.nextId = s.run.nextId) ∧
        (g.later = true → ∃ o : Op, b.pend = { a.pend with own := a.pend.own.filter (·.late), ops := a.pend.ops ++ [o] } ∧
          b.arch.frames = a.arch.frames ∧ b.arch.preds = a.arch.preds)) ∧
    (∀ c ad, a.srcs g.os = .fault c ad → exec ins s = .next (s.raise i (faultAt s a c ad))) ∧
    (∀ xs c ad, a.srcs g.os = .ok xs → a.dstReady g.d g.k = .fault c ad →
      exec ins s = .next (s.raise i (faultAt s a c ad)))

/-- 05 R131, R134, 07 R173: where a fault of an agent goes. A grid without a trap vector ends with status 8 and INTCAUSE bit 3;
in a handler that has not declared its copy of the save area, and at a call depth of 255, the fault is a double fault, which
ends the grid with status 8 and the cause and PC of the trap it would enter; otherwise the agent leaves its waits and its trap is entered. Ending a grid
ends every agent of it and keeps the first failure.
Where the spec leaves the point open it is the model's choice: log 35. -/
def Obligations.FaultsAreTaken : Prop :=
  ∀ (s : State) (i : Nat) (a : Agent) (f : FaultInfo), tget s.agents i = some a →
    let g := a.id.grid
    ((s.grid g).vector = none → s.raise i f = (s.setCause a.id.vd 3).endGrid g 8 f.cause f.pc) ∧
    (∀ v, (s.grid g).vector = some v →
      (∀ e es, a.flt.entries = e :: es → e.declared = false → s.raise i f = s.endGrid g 8 f.cause f.pc) ∧
      ((∀ e es, a.flt.entries = e :: es → e.declared = true) →
        (255 ≤ a.depth → s.raise i f = s.endGrid g 8 f.cause f.pc) ∧
        (a.depth < 255 → ∃ (u : State) (b : Agent), s.raise i f = u.tryTrap i ∧ tget u.agents i = some b ∧
          b.flt = { a.flt with trapping := true, due := some f } ∧ b.arch = a.arch ∧
          b.pend = { a.pend with own := a.pend.own.filter (·.late), ct := none, freq := none, rejoin := none, fence := none, talloc := none, mig := none, wake := false } ∧
          u.mem = s.mem ∧ u.scr = s.scr))) ∧
    (∀ st c pc, (∀ j b, tget (s.endGrid g st c pc).agents j = some b → b.id.grid ≠ g) ∧
      (tget (s.endGrid g st c pc).grids g).map (·.failed) = some (some ((s.grid g).failed.getD (st, c, pc))))

/-- 07 R168, 05 R134: once nothing but parked accesses of the agent is outstanding, the record is written to its trap save area;
then the trap registers hold cause, resume point and address, a trap frame of HDEMAND zero registers is on the chain, the queue
is 16 zero words, the predicates are false, the loop stack is empty and the agent is at the handler. A failing write, and a
sequencer pool that cannot hold the frame, are double faults.
05 R133, 07 R169: the 256 bytes of the trap save area, field by field; outside a microprogram the guard field is that of the
fault, which is 7 unless an operation of a microprogram that has ended has failed (log 55). -/
def Obligations.TrapEntry : Prop :=
  (∀ (s s1 : State) (i : Nat) (a : Agent) (f : FaultInfo) (entry dem : Nat), tget s.agents i = some a → a.flt.trapping = true →
     a.flt.due = some f → a.quiet = true → a.pos.out = false → a.pend.freq = none → a.pend.ct = none → (s.grid a.id.grid).vector = some (entry, dem) →
     let area := s.ownOf i (s.spillBase a) 256 true (s.writeVa a.id.vd a.id.ctx (s.spillBase a) (trapArea s a f))
     let p := poolOf i a
     let want := (dem + 15) / 16
     (∀ c r ad, area = (.fail c r ad, s1) → exec (.trapEntry i) s = .next (s1.endGrid a.id.grid 8 f.cause f.pc)) ∧
     (area = (.ok (), s1) → a.id.seq = true → (s1.freeGran p).length < want →
       ∃ u : State, exec (.trapEntry i) s = .next (u.endGrid a.id.grid 8 f.cause f.pc) ∧ u.mem = s1.mem) ∧
     (area = (.ok (), s1) → s1.blockedIn p = [] → want ≤ (s1.freeGran p).length →
       ∃ (t : State) (b : Agent) (F : Frame), exec (.trapEntry i) s = .next t ∧ tget t.agents i = some b ∧
         t.mem = s1.mem ∧ t.scr = s1.scr ∧
         b.arch = { a.arch with
           pc := BitVec.ofNat 64 entry, queue := List.replicate 16 {}, frames := F :: a.arch.frames, preds := 0, loops := [], mac := none,
           trapcause := BitVec.ofNat 32 f.cause, trappc := f.resume.getD a.curPc, trapaddr := f.addr } ∧
         F.dem = dem ∧ F.regs = List.replicate dem 0 ∧ F.trf = true ∧ F.hf = false ∧ F.gran.length = want ∧
         b.inHandler = true ∧ b.flt.trapping = false ∧ b.flt.entries.tail = a.flt.entries ∧ b.flt.fails = a.flt.fails ∧
         b.pend = { a.pend with settle := false, own := ownDone a.pend.own (s.spillBase a) 256 true })) ∧
  (∀ (s : State) (a : Agent) (f : FaultInfo),
     let bs := trapArea s a f
     let q (n : Nat) : QEnt := a.arch.queue.getD n {}
     f.cause < 256 → a.pos.core < 2 ^ 11 → a.pos.lane < 16 → a.pos.slot < 32 → a.id.tid < 1024 → a.id.vd < 64 → a.id.ctx < 16 →
     s.teamN a.id.team < 2 ^ 32 → s.spillBase a + 64 < 2 ^ 64 → a.arch.loops.length ≤ 4 →
     bs.length = 256 ∧
     areaNat bs 0 4 = f.cause + (if f.repl then 256 else 0) + (if f.eng then 512 else 0) + (if a.pos.away then 1024 else 0)
       + (if a.id.seq then 2048 else 0) ∧
     areaNat bs 4 4 = s.teamN a.id.team ∧ areaNat bs 8 8 = f.pc.toNat ∧ areaNat bs 0x10 8 = f.addr.toNat ∧
     areaNat bs 0x18 8 = f.iword.toNat ∧
     areaNat bs 0x20 4 = a.pos.core + a.pos.lane * 2 ^ 11 + a.pos.slot * 2 ^ 15 + a.id.tid * 2 ^ 20 ∧
     areaNat bs 0x24 4 = a.id.vd + a.id.ctx * 2 ^ 8 ∧ areaNat bs 0x28 8 = s.spillBase a + 64 ∧
     (∀ k, k < 4 → areaNat bs (0x30 + 4 * k) 4 = f.index.getD k 0 % 2 ^ 32) ∧
     (∀ n, n < 16 → areaNat bs (0x40 + 4 * n) 4 = if (q n).pend.isSome then 0 else (q n).val.toNat) ∧
     areaNat bs 0x80 1 = a.arch.preds.toNat ∧ areaNat bs 0x81 1 = a.arch.loops.length ∧
     (∀ n, n < 16 → (areaNat bs 0x82 2).testBit n = (q n).pend.isSome) ∧ areaNat bs 0x84 4 = 0 ∧
     (a.arch.mac = none → areaNat bs 0x88 8 = f.guard % 2 ^ 64) ∧
     (∀ m, a.arch.mac = some m → areaNat bs 0x88 8 = m.gp.toNat + if m.gn then 8 else 0) ∧
     (∀ k l, a.arch.loops[k]? = some l → areaNat bs (0x90 + 16 * k) 8 = l.start.toNat % 2 ^ 57 ∧
       areaNat bs (0x98 + 16 * k) 4 = l.len % 2 ^ 32 ∧ areaNat bs (0x9C + 16 * k) 4 = l.count.toNat) ∧
     (∀ k, k < 4 → a.arch.loops[k]? = none → areaNat bs (0x90 + 16 * k) 16 = 0) ∧ areaNat bs 0xD0 48 = 0)

/-- 07 R171, 11 R301, 05 R134: `rtt` checks the address it resumes at, reads the whole save area, and restores the queue, the
predicates and the loop stack from it, with the trap frame and every frame above it released; it resumes at the tagged
operation of a microprogram where the address says so. An area that cannot be read is a double fault with the cause of the
trap returned from. (With no parked access of the agent.) -/
def Obligations.ReturnFromTrap : Prop :=
  ∀ (h : Hdr) (s s1 : State) (i : Nat) (A : Agent) (e : TrapEnt) (es : List TrapEnt), Issues s i A h → A.flt.entries = e :: es →
    let v := A.arch.trappc.toNat
    let rd := s.ownOf i (s.spillBase A) 256 false (s.readVa A.id.vd A.id.ctx (s.spillBase A) 256)
    (2 ^ 57 ≤ v → v / 2 ^ 62 ≠ 1 → exec (.rtt h) s = .next (s.raise i (faultAt s A 0x0B v))) ∧
    (v < 2 ^ 57 ∨ v / 2 ^ 62 = 1 → v % 8 ≠ 0 → exec (.rtt h) s = .next (s.raise i (faultAt s A 0x0A v))) ∧
    (v < 2 ^ 57 ∨ v / 2 ^ 62 = 1 → v % 8 = 0 → ∀ c r ad, rd = (.fail c r ad, s1) →
      exec (.rtt h) s = .next ((s1.endGrid A.id.grid 8 e.cause e.pc).markSettle i h.settle)) ∧
    (v < 2 ^ 57 ∨ v / 2 ^ 62 = 1 → v % 8 = 0 → ∀ bs xs g fs, rd = (.ok bs, s1) → (A.pend.ops.all fun o => !o.st.isParked) = true →
      A.pend.freq = none → e.settle = false → A.arch.frames = xs ++ g :: fs → (∀ x, x ∈ xs → x.trf = false) → g.trf = true →
      fs ≠ [] →
      ∃ (u : State) (B : Agent), exec (.rtt h) s = .next (u.markSettle i h.settle) ∧ tget u.agents i = some B ∧
        u.mem = s1.mem ∧ u.scr = s1.scr ∧ B.arch.frames = fs ∧
        B.arch.queue = ((List.range 16).map fun n => { val := BitVec.ofNat 32 (areaNat bs (0x40 + 4 * n) 4) }) ∧
        B.arch.preds = BitVec.ofNat 7 (areaNat bs 0x80 1) ∧
        B.flt = { A.flt with entries := es, fails := A.flt.fails.map fun x => { x with due := true } } ∧
        (v < 2 ^ 57 → areaNat bs 0x80 4 / 256 % 8 = 0 →
          B.arch.pc = A.arch.trappc ∧ B.arch.mac = none ∧ B.arch.loops = []) ∧
        (v / 2 ^ 62 = 1 → B.arch.pc.toNat = v % 2 ^ 57 ∧ B.arch.loops.length = min 4 (areaNat bs 0x80 4 / 256 % 8) ∧
          (∀ k, k < B.arch.loops.length → B.arch.loops[k]? = some
            ⟨BitVec.ofNat 64 (areaNat bs (0x90 + 16 * k) 8 % 2 ^ 57), areaNat bs (0x98 + 16 * k) 4,
              BitVec.ofNat 32 (areaNat bs (0x9C + 16 * k) 4)⟩) ∧
          ∃ m, B.arch.mac = some m ∧ m.j = v / 2 ^ 57 % 32 ∧ m.gp.toNat = areaNat bs 0x88 1 % 8 ∧
            m.gn = (areaNat bs 0x88 1).testBit 3 ∧ m.check = true))

/-! The step, the encoding, the invariant of memory, the memory model. -/

/-- The machine right after reset: no boot step has run (01 R34), no device is active (03 R71), every image entry is empty (04 R99),
the power cap is at its reset value (03 R87); no agent, grid, team, pod group, tile or copy request exists. The time 0, no exclusion,
every granule unavailable, rings at 0 and no die lost are the model's choice (log 3), and so is that memory lists nothing (log 4). -/
def Obligations.ResetState : Prop :=
  let s := State.reset
  s.now = 0 ∧ s.pkg.ready = false ∧ s.pkg.fatal = false ∧ s.pkg.steps = List.replicate 16 0 ∧ s.pkg.exDies = 0 ∧ s.pkg.exExp = 0 ∧
  s.pkg.pwrCap = 4600 ∧ s.mem = [] ∧ s.scr = [] ∧ s.faulty = [] ∧ s.agents = [] ∧ s.grids = [] ∧ s.teams = [] ∧ s.pods = [] ∧
  s.bufs = [] ∧ s.copies = [] ∧ s.sideCache = [] ∧ s.pkg.ckpt.valid = false ∧ s.pkg.ckptStage = 0 ∧ (∀ v, (s.vd v).st = .absent) ∧ (∀ g, s.ownerOf g = 0xFE) ∧ (∀ n, (s.image n).st = 0) ∧
  (∀ d, (s.die d).lost = false ∧ (s.die d).ringHead = 0 ∧ (s.die d).ringTail = 0) ∧ s.memInv

/-- 09 R256, 08 R217, 11 R290: the agent that issues next fetches the eight bytes at its program counter, and the step is the
meaning of the instruction they decode to, at the state of the fetch with that agent in focus, whether they come from memory or,
the same there, from the instruction cache; a word that does not decode raises cause 0x01 or 0x02. With no agent to issue, the step is the meaning of the input that is due, or of the part's next event.
Where the spec leaves the point open it is the model's choice: log 1, 13. -/
def Obligations.StepRunsDecoded : Prop :=
  (∀ (s s1 s2 s3 : State) (i : Nat) (q : List Nat) (a : Agent) (l : List (Loc × Nat)) (bs : List Byte), s.run.issueQ = i :: q → tget s.agents i = some a →
    a.canIssue = true → s.mayIssue a = true → a.arch.mac = none → a.arch.pc.toNat < 2 ^ 57 → inWindow a.arch.pc.toNat = false →
    s1 = { s with run := { s.run with issueQ := q, cur := some i } } →
    ownDead a.pend.own a.arch.pc.toNat 8 false = none →
    s1.resolve a.id.vd a.id.ctx a.arch.pc.toNat 8 .x = (.ok l, s2) →
    (s2.icGet a.pos.core a.id.vd a.id.ctx a.arch.pc.toNat = none ∧ ∃ u, s2.atHome a.id.vd false l = (none, u) ∧
      bs = u.readChunks l ∧ s3 = (u.icPut a.pos.core a.id.vd a.id.ctx a.arch.pc.toNat bs).setOwns i
        (ownDone a.pend.own a.arch.pc.toNat 8 false)) ∨
    (s2.icGet a.pos.core a.id.vd a.id.ctx a.arch.pc.toNat = some bs ∧ bs = s2.readChunks l ∧
      s3 = s2.setOwns i (ownDone a.pend.own a.arch.pc.toNat 8 false)) →
    let w : DWord := BitVec.ofNat 64 (ofBytes bs)
    let bad (c : Nat) : FaultInfo := { cause := c, pc := a.arch.pc, resume := some a.arch.pc, iword := w }
    (∀ ins, decode w = .ok ins → step s = exec ins { s3 with run := { s3.run with word := w } }) ∧
    (decode w = .illegal → step s = .next (s3.raise i (bad 0x01))) ∧
    (decode w = .operand → step s = .next (s3.raise i (bad 0x02)))) ∧
  (∀ (s : State), s.run.issueQ = [] →
    (∀ t e es, s.run.inputs = (t, e) :: es → t ≤ s.now → step s = exec e { s with run := { s.run with inputs := es } }) ∧
    (s.run.inputs = [] → step s = exec s.agenda s))

/-- 11 R292 and the worked encodings of 11, 12, 13, 14, 15, 16 and 17: words written out bit by bit there. -/
def Obligations.DecodeWords : Prop :=
  let h (st : Bool) (p : BitVec 3) (n : BitVec 4) : Hdr := ⟨st, false, p, n⟩
  decode 0x8111400C50000000 = .ok (.iadd (h true 1 0) .i32 false (.q 0) (.imm 5) (.reg 4)) ∧
  decode 0x38712180000250D0 = .ok (.ld (h false 7 0) .b64 2 3 true (.v 8) (.reg 2)) ∧
  decode 0x5070000FFFFFFF70 = .ok (.bra (h false 7 0) 0xFFFFFFF7) ∧
  decode 0x52709C2000000040 = .ok (.call (h false 7 0) 0 (some (.imm 2)) 4) ∧
  decode 0x5670100000000020 = .ok (.loop (h false 7 0) (.q 1) 2) ∧
  decode 0xB010014FF0032800 = .ok (.shfl (h true 1 0) .down .b32 3 (.v 4) (.imm 0x3F) (.q 0) .push) ∧
  decode 0x2970000000003410 = .ok (.cvts (h false 7 0) 3 .f32 .rne true (.q 0) none .push) ∧
  decode 0x4570018002000060 = .ok (.barArrive (h false 7 0) 1 (.v 8) .push) ∧
  decode 0x41700160048000C0 = .ok (.red (h false 7 0) (.bitop .or .b32) 3 false (.v 6) (.q 0)) ∧
  decode 0x4270012C10000120 = .ok (.ctadd (h false 7 0) 4 true (.v 2) (.imm 1)) ∧
  decode 0x0B71000000000100 = .ok (.getsr (h false 7 0) 16 (.reg 0)) ∧
  decode 0x037121000000210C = .ok (.lea (h false 7 0xC) 2 false (.v 0) (.q 0) (.reg 2)) ∧
  decode 0x6A70400001200000 = .ok (.thand (h false 7 0) 4 (.v 2)) ∧
  decode 0x6E70401020033000 = .ok (.mma (h false 7 0) 4 1 2 3 3 0 .rne) ∧
  decode 0x5870000000000000 = .ok (.exit (h false 7 0)) ∧
  decode 0x1070001000001400 = .illegal

/-- 11 R281 to R289: every well-formed instruction has a word, the word decodes to it, and a word that decodes to an instruction
is that instruction's word; no bit of a word is dropped. -/
def Obligations.DecodeEncode : Prop :=
  (∀ i : Instr, i.wf = true → i.isEvent = false → ∃ w, encode i = some w ∧ decode w = .ok i) ∧
  (∀ (w : DWord) (i : Instr), decode w = .ok i → i.wf = true ∧ i.isEvent = false ∧ encode i = some w)

/-- Every step keeps physical memory, in whose reserve a checkpoint lies, and the scratchpads in their canonical form: addresses
strictly rising, and none listed with the value an unlisted one reads as (log 4). -/
def Obligations.StepKeepsMemory : Prop := kept State.memInv

/-- 09 R237, R241: in every execution the memory model allows, coherence order agrees with happens-before.
The litmus examples of 09: message passing within a die, under scopes too small, under overlapping scopes, and through an
atomic of the release sequence.
Where the spec leaves the point open it is the model's choice: log 5. -/
def Obligations.AxiomsOfMemory : Prop :=
  (∀ (x : MM.Exec) (i j : Nat), x.allowed = true → Before x i j → (x.ev i).loc = (x.ev j).loc →
     i ≠ j ∧ ¬ Before x j i ∧
     ((x.ev i).writes = true → (x.ev j).writes = true → x.cob i j = true) ∧
     ((x.ev i).reads = true → (x.ev j).writes = true → x.rfBefore (x.src i) j = true ∧ x.src i ≠ some j) ∧
     ((x.ev i).writes = true → (x.ev j).reads = true → ∃ w, x.src j = some w ∧ (w = i ∨ x.cob i w = true)) ∧
     (∀ v, (x.ev i).reads = true → (x.ev j).reads = true → x.src i = some v →
       ∃ w, x.src j = some w ∧ (w = v ∨ x.cob v w = true))) ∧
  (let die0 := 2 ^ 96 - 1
   let mp (c k l : Nat) (acq : Bool) (f d : Nat) : Bool :=
     MM.outcomeAllowed [litStore 0 0 0 1 false 0, litStore 0 0 1 1 true k, litLoad 1 c 1 f acq l, litLoad 1 c 0 d false 0] []
   let mpOver (c : Nat) : Bool :=
     MM.outcomeAllowed [litStore 0 4 0 1 false 0, litStore 0 4 1 1 true 0xFF, litLoad 1 c 1 1 true 0xFF0, litLoad 1 c 0 0 false 0] []
   let far := 2 ^ 768 - 1
   let seq (mid : MM.Ev) : Bool :=
     MM.outcomeAllowed [litStore 0 0 0 1 false 0, litStore 0 0 1 1 true far, mid, litLoad 2 300 1 2 true far, litLoad 2 300 0 0 false 0] []
   mp 40 die0 die0 true 0 0 = true ∧ mp 40 die0 die0 true 0 1 = true ∧ mp 40 die0 die0 true 1 1 = true ∧
   mp 40 die0 die0 true 1 0 = false ∧ mp 40 die0 die0 false 1 0 = true ∧
   mp 5 0xF 0xF0 true 1 0 = true ∧ mp 5 die0 die0 true 1 0 = false ∧ mpOver 8 = true ∧ mpOver 6 = false ∧
   seq { agent := 1, thread := 1, core := some 100, kind := .rmw, loc := 1, rv := 1, wv := 2 } = false ∧
   seq { agent := 1, thread := 1, core := some 100, kind := .write, loc := 1, wv := 2 } = true)

/-! Tiles and the matrix queue (15 R407 to R429). -/

/-- 15 R409 to R418: `talloc` binds its name to a new buffer, all zero, in the state its control gives, or waits for granules, and
the part serves the oldest waiting one; `thand` counts a fill down or passes a tile on; `trel` unbinds; `twait` waits for READY
with an owner of its kind; `tq` reports; an unbound name faults with cause 0x05, and every use by a migrated thread with 0x06.
15 R410, R419: `twr` writes one word of a tile, `trd` returns one, `tzero` clears all of it; an index beyond the tile and a
tile of the other kind's fault with cause 0x06. No other buffer and no memory changes.
Where the spec leaves the point open it is the model's choice: log 10, 41. -/
def Obligations.Tiles : Prop :=
  (∀ (h : Hdr) (n : BitVec 8) (fa : Fin 16) (src : Src) (s : State) (i : Nat) (A : Agent) (P : Pod), Issues s i A h →
     tget s.pods A.id.pod = some P →
     let hd := n.toNat
     let kind := if A.id.seq then 0 else 1
     let seqd : Prop := (s.grid A.id.grid).lrec.seq = true
     (∀ c b, A.pos.away = false → A.src ⟨src, 32, .int⟩ = .ok c → s.tallocBuf A fa.val c = .ok b →
       ¬ (b.blk = true ∧ b.cw = 32) → (c.testBit 16 = true ∨ seqd) →
       let need := if c.testBit 17 then 2 else 1
       let q := (s.cob (cobOfCore A.pos.core)).tallocQ
       (b.data = 0 ∧ b.extra = 0x80000000 ∧ b.acc = c.testBit 17 ∧ b.cob = cobOfCore A.pos.core ∧
         b.st = (if c % 4096 = 0 then .ready (c / 2 ^ 16 % 2) else .filling (c % 4096) (c / 2 ^ 16 % 2))) ∧
       (need ≤ s.freeTiles (cobOfCore A.pos.core) → (q = [] ∨ ∃ t, q = i :: t) →
         ∃ (u : State) (id : Nat), exec (.talloc h n fa src) s = .next (u.advance i h.settle none) ∧ id = s.run.nextId ∧
           tget u.pods A.id.pod = some { P with names := tset P.names hd id } ∧ tget u.bufs id = some b ∧
           u.mem = s.mem ∧ u.scr = s.scr) ∧
       (s.freeTiles (cobOfCore A.pos.core) < need → q = [] →
         ∃ (u : State) (B : Agent), exec (.talloc h n fa src) s = .next u ∧ tget u.agents i = some B ∧
           B.pend.talloc = some (hd, fa.val, c, h.settle) ∧ B.arch = A.arch ∧
           (u.cob (cobOfCore A.pos.core)).tallocQ = [i] ∧ u.bufs = s.bufs ∧ u.pods = s.pods)) ∧
     (∀ c b cob q st, A.pend.talloc = some (hd, fa.val, c, st) → A.canIssue = true → s.tallocBuf A fa.val c = .ok b →
       ¬ (b.blk = true ∧ b.cw = 32) → (c.testBit 16 = true ∨ seqd) → b.granules ≤ s.freeTiles b.cob → cob = b.cob → (s.cob cob).tallocQ = i :: q →
       ∃ (u : State) (id : Nat), exec (.tileGranuleGrant cob) s = .next (u.advance i st none) ∧
         tget u.pods A.id.pod = some { P with names := tset P.names hd id } ∧ tget u.bufs id = some b) ∧
     (∀ b x c, NameAt s A hd b x → A.src ⟨src, 32, .int⟩ = .ok c → FreeOf s i A b true true true →
       (∀ k v, x.st = .filling k v → exec (.thand h n src) s =
         .next ((s.setBuf b { x with st := if k ≤ 1 then .ready v else .filling (k - 1) v }).advance i h.settle none)) ∧
       (x.st = .ready kind → (c.testBit 16 = true ∨ seqd) → exec (.thand h n src) s =
         .next ((s.setBuf b { x with st :=
           if c % 4096 = 0 then .ready (c / 2 ^ 16 % 2) else .filling (c % 4096) (c / 2 ^ 16 % 2) }).advance i h.settle none)) ∧
       (∀ k, x.st = .ready k → k ≠ kind → exec (.thand h n src) s = .next (s.raise i (faultAt s A 0x06 hd)))) ∧
     (∀ b x, NameAt s A hd b x → FreeOf s i A b true false false →
       ∃ u : State, exec (.trel h n) s = .next (u.advance i h.settle none) ∧
         tget u.pods A.id.pod = some { P with names := tdel P.names hd } ∧ u.agents = s.agents ∧ u.mem = s.mem ∧
         ∀ c, u.bufUsed c = true → tget u.bufs c = tget s.bufs c) ∧
     (∀ b x, NameAt s A hd b x → FreeOf s i A b true true false →
       (x.st = .ready kind → exec (.twait h n) s = .next (s.advance i h.settle none)) ∧
       (x.st ≠ .ready kind → exec (.twait h n) s = .next (s.setAgent i { A with sched := { A.sched with polled := true } }))) ∧
     (A.pos.away = false → (∀ b x, s.nameOf A hd = some (b, x) → FreeOf s i A b false true false) →
       ∃ w : Word, exec (.tq h n) s = .next ((s.startReady i A [w] .push []).advance i h.settle none) ∧
         (s.nameOf A hd = none → w.toNat = s.freeTiles (cobOfCore A.pos.core) * 2 ^ 20) ∧
         (∀ b x, s.nameOf A hd = some (b, x) →
           w.toNat % 4 = (match x.st with | .filling _ _ => 1 | .ready _ => 2 | .busy => 3) ∧ w.toNat.testBit 2 = x.acc ∧
           ∀ k v, x.st = .filling k v → k < 4096 → v ≤ 1 → x.acc = true →
             w.toNat.testBit 3 = decide (v = 1) ∧ w.toNat / 2 ^ 8 % 2 ^ 12 = k ∧
             w.toNat / 2 ^ 20 = s.freeTiles (cobOfCore A.pos.core))) ∧
     (A.pos.away = false → s.nameOf A hd = none →
       exec (.trel h n) s = .next (s.raise i (faultAt s A 0x05 hd)) ∧ exec (.twait h n) s = .next (s.raise i (faultAt s A 0x05 hd))) ∧
     (A.pos.away = true →
       exec (.trel h n) s = .next (s.raise i (faultAt s A 0x06 hd)) ∧ exec (.tq h n) s = .next (s.raise i (faultAt s A 0x06 hd)))) ∧
  (∀ (h : Hdr) (n : BitVec 8) (src : Src) (s : State) (i : Nat) (A : Agent) (b : Nat) (x : Buf), Issues s i A h →
     NameAt s A n.toNat b x →
     let kind := if A.id.seq then 0 else 1
     let words := if x.acc then 4096 else 2048
     let mayWrite := x.st = .ready kind ∨ ∃ k v, x.st = .filling k v
     (∀ v, A.src ⟨src, 64, .int⟩ = .ok v → v < 2 ^ 64 →
       (mayWrite → v / 2 ^ 32 < words → FreeOf s i A b false true true →
         ∃ D, exec (.twr h n src) s = .next ((s.setBuf b { x with data := D }).advance i h.settle none) ∧
           ∀ j, D.testBit j = if v / 2 ^ 32 * 32 ≤ j ∧ j < v / 2 ^ 32 * 32 + 32 then v.testBit (j - v / 2 ^ 32 * 32)
             else x.data.testBit j) ∧
       (mayWrite → words ≤ v / 2 ^ 32 → exec (.twr h n src) s = .next (s.raise i (faultAt s A 0x06 n.toNat))) ∧
       (∀ k, x.st = .ready k → k ≠ kind → exec (.twr h n src) s = .next (s.raise i (faultAt s A 0x06 n.toNat)))) ∧
     (∀ w, A.src ⟨src, 32, .int⟩ = .ok w → x.st = .ready kind →
       (w < words → FreeOf s i A b true true false → exec (.trd h n src) s =
         .next ((s.startReady i A [BitVec.ofNat 32 (x.data / 2 ^ (32 * w))] .push []).advance i h.settle none)) ∧
       (words ≤ w → exec (.trd h n src) s = .next (s.raise i (faultAt s A 0x06 n.toNat)))) ∧
     (mayWrite → FreeOf s i A b false true true →
       exec (.tzero h n) s = .next ((s.setBuf b { x with data := 0, extra := 0x80000000 }).advance i h.settle none)))

/-- 15 R414, R420 to R424: `tld` and `tst` read a legal iterator record, check their tile against it, and start the access that
moves its elements; `tldw` the same with a window record; a malformed record faults with cause 0x01, a tile that does not fit
with 0x06.
Where the spec leaves the point open it is the model's choice: log 24. -/
def Obligations.TileMemory : Prop :=
  ∀ (h : Hdr) (n : BitVec 8) (fa : Fin 16) (src : Src) (s s2 : State) (i : Nat) (A : Agent) (va img b : Nat) (x : Buf) (it : Iter),
    Issues s i A h → A.src ⟨src, 64, .int⟩ = .ok va → NameAt s A n.toNat b x → s.capture A fa.val = .ok img → A.memHeld = false →
    let kind := if A.id.seq then 0 else 1
    let f := (s2.image img).fmt
    let starts (ins : Instr) (acc : Acc) : Prop :=
      ∀ s3, s2.usePlanes (cobOfCore A.pos.core) i [img] = (true, s3) →
        exec ins s = .next ((s3.startOp i A acc 0 .nil false false none).advance i h.settle none)
    (IterAt s A va true it s2 → (s.image img).fmt = f → it.blockOk f = true → it.fits57 f = true →
      ((x.st = .ready kind ∨ ∃ k v, x.st = .filling k v) → x.fits it f = true → s2.rangeFault A (it.ranges f) = none →
        FreeOf s2 i A b false true true → starts (.tld h n fa src) (.tileLd it b img fa.val)) ∧
      (x.st = .ready kind → x.fits it f = true → s2.rangeFault A (it.ranges f) = none →
        FreeOf s2 i A b false true false → starts (.tst h n fa src) (.tileSt it b img fa.val x.data)) ∧
      (x.st = .ready kind → x.fits it f = false →
        exec (.tld h n fa src) s = .next (s.raise i (faultAt s2 A 0x06 n.toNat)) ∧
        exec (.tst h n fa src) s = .next (s.raise i (faultAt s2 A 0x06 n.toNat)))) ∧
    (va % 64 ≠ 0 → exec (.tld h n fa src) s = .next (s.raise i (faultAt s A 0x01 0)) ∧
      exec (.tst h n fa src) s = .next (s.raise i (faultAt s A 0x01 0)) ∧
      exec (.tldw h n fa src) s = .next (s.raise i (faultAt s A 0x01 0))) ∧
    (∀ w, WinAt s A va w s2 → (s.image img).fmt = f → f.kind ≠ 2 → (x.st = .ready kind ∨ ∃ k v, x.st = .filling k v) →
      x.acc = false → x.cw = containerOf f.w → x.blk = false →
      s2.rangeFault A (w.ranges f (tileK x.cw f)) = none → FreeOf s2 i A b false true true →
      starts (.tldw h n fa src) (.tileWin w b img fa.val))

/-- 15 R410, R425 to R429: the four matrix instructions of a sequencer make their checks and enter its queue of 8 with the
buffers, images and operands they found; a full queue holds the context at issue; and an entry starts on a free array, its
accumulator BUSY, and completes with its result, READY again. 03 R88: while its device is paused no entry starts or completes, and
while it is slowed no `mma` starts beside one of its own on the cob (log 63).
07 R175, 15 R429: an `mma` that starts on a tile with an uncorrectable error gives its context a fault of cause 0x16 with the number
of that handle, at its start, and leaves its accumulator with some value, READY.
10 R276 to R278, 15 R425 to R428: what an entry leaves in the tile it writes, element by element: an f32 accumulation
adds each group of 32 products, each cut at 35 bits below the greatest one, summed exactly and rounded once, and gives the canonical NaN
for a NaN anywhere; infinities of one sign make the sum that infinity, and of both, or ∞ × 0, a NaN. An i32 accumulation clamps after
each group. `thad` inverts the signs its seed names and makes five stages of butterflies; `tcvt` encodes each word, or each run of 32
as a block, and leaves the other elements; a transposition exchanges row and column, of accumulators or of 64 columns.
Where the spec leaves the point open it is the model's choice: log 6, 10, 41. -/
def Obligations.MatrixInstructions : Prop :=
  (∀ (h : Hdr) (nd na nb : BitVec 8) (fa fb fc : Fin 16) (rm : RM) (sat : Bool) (src : Src) (s : State) (i : Nat) (A : Agent)
     (d a b ia ib ic : Nat) (D X Y : Buf), Issues s i A h → A.id.seq = true → NameAt s A nd.toNat d D → NameAt s A na.toNat a X →
     NameAt s A nb.toNat b Y → s.capture A fa.val = .ok ia → s.capture A fb.val = .ok ib → s.capture A fc.val = .ok ic →
     let fmt (n : Nat) : Fmt := (s.image n).fmt
     let readable (x : Buf) := x.st = .ready 0 ∨ x.st = .busy ∨ ∃ k, x.st = .filling k 0
     let isAcc (f : Fmt) := f.isF32 = true ∨ f.isI32 = true
     let enters (ins : Instr) (e : MEnt) : Prop :=
       (A.pend.mq.length < 8 → exec ins s =
         .next (({ s with run := { s.run with nextId := s.run.nextId + 1 } }).after i { A with pend := { A.pend with
           mq := A.pend.mq ++ [{ e with id := s.run.nextId, pc := A.curPc, iword := s.run.word }] } } h)) ∧
       (8 ≤ A.pend.mq.length → exec ins s = .next (s.setAgent i { A with sched := { A.sched with polled := true } }))
     ((s.image ia).cls ≠ 0 → (s.image ib).cls ≠ 0 →
       ((fmt ic).isF32 = true ∨ ((fmt ic).isI32 = true ∧ (fmt ia).kind = 1 ∧ (fmt ib).kind = 1)) →
       readable D → readable X → readable Y → D.acc = true → X.matchesSlot (fmt ia) = true → Y.matchesSlot (fmt ib) = true →
       tileK X.cw (fmt ia) = tileK Y.cw (fmt ib) →
       enters (.mma h nd na nb fa fb fc rm)
         ⟨0, .mma, d, a, b, nd.toNat, na.toNat, nb.toNat, ia, ib, ic, [fa.val, fb.val, fc.val], rm, false, 0, 0, none, 0, 0, false⟩) ∧
     (∀ col, A.src ⟨src, 32, .int⟩ = .ok col → isAcc (fmt ia) → (readable D ∨ ∃ k v, D.st = .filling k v) → readable X → X.acc = true →
       D.matchesSlot (fmt ib) = true → col % 32 = 0 → col + 64 ≤ tileK D.cw (fmt ib) →
       enters (.tcvt h nd na fa fb rm sat src)
         ⟨0, .tcvt, d, a, a, nd.toNat, na.toNat, na.toNat, ia, ib, ia, [fa.val, fb.val], rm, sat, col, 0, none, 0, 0, false⟩) ∧
     (∀ seed, A.src ⟨src, 64, .int⟩ = .ok seed → readable D → D.acc = true →
       enters (.thad h nd src)
         ⟨0, .thad, d, d, d, nd.toNat, nd.toNat, nd.toNat, 0, 0, 0, [], .rne, false, 0, seed, none, 0, 0, false⟩) ∧
     (∀ col, A.src ⟨src, 32, .int⟩ = .ok col → (readable D ∨ ∃ k v, D.st = .filling k v) → readable X →
       ((D.acc = true ∧ X.acc = true ∧ col = 0) ∨ (D.acc = false ∧ X.acc = false ∧ D.cw = X.cw ∧ D.blk = false ∧ X.blk = false ∧
         col % 64 = 0 ∧ col + 64 ≤ 1024 / D.cw)) →
       enters (.ttr h nd na src)
         ⟨0, .ttr, d, a, a, nd.toNat, na.toNat, na.toNat, 0, 0, 0, [], .rne, false, col, 0, none, 0, 0, false⟩) ∧
     (∀ e array s2, A.nextEntry = some e → A.pos.out = false → s.atWork A.pos.core = true → array < 2 →
       s.arrayBusy (cobOfCore A.pos.core) array = false →
       (∀ u, u ∈ e.uses → s2.useAt u = .ok) → s.entryReady A e = true → s.olderEntry i (cobOfCore A.pos.core) e.id = false →
       s.shedsEntry A.id.vd (cobOfCore A.pos.core) e.kind = false →
       s.usePlanes (cobOfCore A.pos.core) e.id e.images = (true, s2) → e.hd = d → e.ha = a → e.hb = b → D.st = .ready 0 →
       tget s2.bufs d = some D → tget s2.bufs a = some X → tget s2.bufs b = some Y →
       let hurt : Option Nat := if e.kind ≠ .mma then none else if X.bad = true then some e.haN else if Y.bad = true then some e.hbN
         else if D.bad = true then some e.hdN else none
       let B := A.putEntry { e with array := some array, hurt := hurt.isSome }
       exec (.matrixEntryStart i array) s =
         .next ((s2.setAgent i { B with flt := { B.flt with fails := A.flt.fails ++
             (hurt.map fun n : Nat => (⟨e.id, true, { cause := 0x16, pc := e.pc, addr := BitVec.ofNat 64 n, iword := e.iword }⟩ : Fail)).toList } }).setBuf d
           { D with st := .busy })) ∧
     (∀ e array, A.nextEntry = some e → ((s.vd A.id.vd).shed = 2 ∨ ((s.vd A.id.vd).shed = 1 ∧ e.kind = .mma ∧
         ∃ g, g ∈ A.pend.mq ∧ g.array.isSome = true ∧ g.kind = .mma)) → A.pos.out = false →
       exec (.matrixEntryStart i array) s = .next s) ∧
     ((s.vd A.id.vd).shed = 2 → exec (.matrixEntryComplete i) s = .next s) ∧
     (∀ e es ar, A.pend.mq = e :: es → e.array = some ar → (∀ x, x ∈ es → x.id ≠ e.id) → e.hd = d → e.ha = a → e.hb = b →
       tget s.bufs d = some D → tget s.bufs a = some X → tget s.bufs b = some Y → D.st = .busy →
       s.atWork A.pos.core = true → (s.vd A.id.vd).shed ≠ 2 →
       let done (t : State) (x : Nat) : Prop :=
         exec (.matrixEntryComplete i) s =
           .next ((t.setAgent i { A with pend := { A.pend with mq := es } }).setBuf d { D with data := x, st := .ready 0 }).sweepBufs
       (e.hurt = false → done s (s.entryData e X Y D)) ∧
       (e.hurt = true → ∃ x, done { s with run := { s.run with free := s.run.free + 1 } } x))) ∧
  ((∀ (rm : RM) (ps : List Val),
     let finite := ∀ p, p ∈ ps → p.isNan = false ∧ p.isInf = false
     ((∃ p, p ∈ ps ∧ p.isNan = true) ∨ (Val.inf true ∈ ps ∧ Val.inf false ∈ ps) → groupSum rm ps = .nan) ∧
     (∀ σ, (∀ p, p ∈ ps → p.isNan = false) → Val.inf σ ∈ ps → Val.inf (!σ) ∉ ps → groupSum rm ps = .inf σ) ∧
     (finite → (∀ p, p ∈ ps → p.isZero = true) → groupSum rm ps = .fin (ps.all fun p => p.neg?) 0 0) ∧
     (∀ e q : Int, q ≤ e - 35 → (∀ s m x, Val.fin s m x ∈ ps → q ≤ x) →
       let mag (p : Val) : Nat := match p with | .fin _ m x => m * 2 ^ (x - q).toNat | _ => 0
       finite → (∀ p, p ∈ ps → mag p < 2 ^ (e + 1 - q).toNat) → (∃ p, p ∈ ps ∧ 2 ^ (e - q).toNat ≤ mag p) →
       let cut := 2 ^ (e - 35 - q).toNat
       let S : Int := (ps.map fun p => (if p.neg? = true then (-1 : Int) else 1) * ((mag p / cut * cut : Nat) : Int)).sum
       ∃ (s : Bool) (m : Nat) (x : Int), groupSum rm ps = .fin s m x ∧ q ≤ x ∧
         (if s = true then (-1 : Int) else 1) * ((m * 2 ^ (x - q).toNat : Nat) : Int) = S ∧
         (S = 0 → s = decide (rm = .rd)) ∧ (S ≠ 0 → s = decide (S < 0)))) ∧
   ∀ (s : State) (e : MEnt) (x y d : Buf) (i j : Nat), i < 64 → j < 64 →
     let fa := (s.image e.imgA).fmt
     let fb := (s.image e.imgB).fmt
     let fc := (s.image e.imgC).fmt
     let K := tileK x.cw fa
     let r := s.entryData e x y d / 2 ^ (32 * (64 * i + j)) % 2 ^ 32
     let c := d.data / 2 ^ (32 * (64 * i + j)) % 2 ^ 32
     let p (g k : Nat) : Val := vmul (x.val fa i (32 * g + k)) (y.val fb j (32 * g + k))
     let group (g : Nat) : List Val := (List.range 32).map (p g)
     (e.kind = .mma → fc.isF32 = true →
       ((∃ k, k < K ∧ ((x.val fa i k).isNan = true ∨ (y.val fb j k).isNan = true)) ∨ (f32F.decFloat c).isNan = true → r = 0x7FC00000) ∧
       (¬ (∃ k, k < K ∧ ((x.val fa i k).isNan = true ∨ (y.val fb j k).isNan = true)) → (f32F.decFloat c).isNan = false →
         r = (List.range (K / 32)).foldl
           (fun v g => f32F.encVal e.rm false (vadd e.rm (f32F.decFloat v) (groupSum e.rm (group g)))) c % 2 ^ 32)) ∧
     (e.kind = .mma → fc.isF32 = false →
       (BitVec.ofNat 32 r).toInt = (List.range (K / 32)).foldl
         (fun v g => max (-2 ^ 31) (min (v + ((group g).map valInt).sum) (2 ^ 31 - 1))) (BitVec.ofNat 32 c).toInt) ∧
     (e.kind = .thad →
       let gold := 0x9E3779B97F4A7C15
       let z0 := (e.seed ^^^ (i * gold + j / 32) % 2 ^ 64) + gold
       let z1 := (z0 % 2 ^ 64 ^^^ z0 % 2 ^ 64 / 2 ^ 30) * 0xBF58476D1CE4E5B9 % 2 ^ 64
       let z2 := (z1 ^^^ z1 / 2 ^ 27) * 0x94D049BB133111EB % 2 ^ 64
       let z := z2 ^^^ z2 / 2 ^ 31
       let c0 (k : Nat) := d.data / 2 ^ (32 * (64 * i + 32 * (j / 32) + k)) % 2 ^ 32
       let x0 (k : Nat) := if z.testBit k = true then c0 k ^^^ 2 ^ 31 else c0 k
       let V (n : Nat) : Val := f32F.decFloat n
       let stage (h : Nat) (u : Nat → Nat) (k : Nat) : Nat :=
         f32F.encVal .rne false (if k / h % 2 = 0 then vadd .rne (V (u k)) (V (u (k + h))) else vadd .rne (V (u (k - h))) (vneg (V (u k))))
       r = f32F.encVal .rne false
         (vmul (V (stage 16 (stage 8 (stage 4 (stage 2 (stage 1 x0)))) (j % 32))) (V 0x3E3504F3))) ∧
     (e.kind = .tcvt → d.matchesSlot fb = true → e.col % 32 = 0 → e.col + 64 ≤ tileK d.cw fb → (fb.kind = 2 → fb.nse = 1 ∨ fb.nse = 2) →
       let D : Buf := { d with data := s.entryData e x y d }
       let w (k : Nat) := x.data / 2 ^ (32 * (64 * i + k)) % 2 ^ 32
       let V (k : Nat) : Val := if fa.isF32 = true then f32F.decFloat (w k) else Val.ofInt (BitVec.ofNat 32 (w k)).toInt
       let P (k : Nat) : Option Nat := if fa.isF32 = true then some (w k) else f32Pattern (V k)
       let now := D.cont fb i (e.col + j)
       (∀ k, k < tileK d.cw fb → k < e.col ∨ e.col + 64 ≤ k → D.cont fb i k = d.cont fb i k) ∧
       (fb.kind ≠ 2 →
         (fb.isF32 = false → fb.nz = true → P j = some d.extra.toNat → now = fb.negZero % 2 ^ d.cw) ∧
         (fb.isF32 = false → fb.kind = 0 → (fb.nz = false ∨ P j ≠ some d.extra.toNat) → now = fb.encVal e.rm e.sat (V j) % 2 ^ d.cw) ∧
         (fb.kind = 1 → (fb.nz = false ∨ P j ≠ some d.extra.toNat) → now = encInt fb.w fb.sign e.rm (V j) % 2 ^ d.cw)) ∧
       (fb.kind = 2 →
         let q := fb.encBlock e.rm e.sat ((List.range 32).map fun k => V (32 * (j / 32) + k))
         now = q.2.2.getD (j % 32) 0 % 2 ^ d.cw ∧ (D.exps fb i (e.col + j)).1 = q.1 % 256 ∧
         (fb.nse = 2 → (D.exps fb i (e.col + j)).2 = q.2.1 % 256))) ∧
     (e.kind = .ttr → x.acc = true → r = x.data / 2 ^ (32 * (64 * j + i)) % 2 ^ 32) ∧
     (e.kind = .ttr → x.acc = false → 0 < d.cw → d.cw = x.cw → e.col + 64 ≤ 1024 / d.cw →
       let D := s.entryData e x y d
       D / 2 ^ (1024 * j + (e.col + i) * d.cw) % 2 ^ d.cw = x.data / 2 ^ (1024 * i + (e.col + j) * d.cw) % 2 ^ d.cw ∧
       ∀ k, k < 1024 / d.cw → k < e.col ∨ e.col + 64 ≤ k →
         D / 2 ^ (1024 * i + k * d.cw) % 2 ^ d.cw = d.data / 2 ^ (1024 * i + k * d.cw) % 2 ^ d.cw))

/-! Launches, copy requests, format slots, saves and moves of a thread (14 R404 to R406, 15 R431 to R445). -/

/-- 14 R405, R406, 05 R122: `launch` by the leader of a team reads a record once, writes PARENT into it before any other check, and
makes a child grid one deeper with the launching grid as its parent; a record with another magic is counted by INTCAUSE bit 1 and
makes no grid, one that cannot be read faults at the launch; a record that fails its checks makes a grid that ends in failure; the
limits on who may launch, on the address and, once the record can be reached, on the depth fault.
05 R122: the status with which the fetch checks of a launch record end it.
Where the spec leaves the point open it is the model's choice: log 46, 49. -/
def Obligations.Launches : Prop :=
  (∀ (h : Hdr) (src : Src) (s s1 s2 : State) (i : Nat) (A : Agent) (va : Nat), Issues s i A h → A.src ⟨src, 64, .int⟩ = .ok va →
     let vd := A.id.vd
     let cx := A.id.ctx
     let here : Prop := A.id.seq = false ∧ A.id.tid = 0
     let at_ : Prop := here ∧ va % 64 = 0 ∧ inWindow va = false
     let first : Prop := at_ ∧ A.pend.own.find? (Own.is va 256 false) = none
     let ok : Prop := first ∧ ∃ l, s.resolve vd cx va 256 .r = (.ok l, s1)
     let go : Prop := ok ∧ (s1.grid A.id.grid).depth < 10 ∧ A.hasParked = false ∧ A.memHeld = false ∧
       s1.childrenOn (dieOfCore A.pos.core) < 4096
     let o : Origin := ⟨vd, cx, none, some A.id.grid, A.id.team, A.pos.core, some (dieOfCore A.pos.core), (s1.grid A.id.grid).depth + 1⟩
     let rd := s1.takeRecord o va (s1.ownsOf i)
     (¬ here → exec (.launch h src) s = .next (s.raise i (faultAt s A 0x0C 0))) ∧
     (here → va % 64 ≠ 0 → exec (.launch h src) s = .next (s.raise i (faultAt s A 0x0A va))) ∧
     (∀ c r ad, first → s.resolve vd cx va 256 .r = (.fail c r ad, s1) →
       exec (.launch h src) s = .next (s.raise i (faultAt s1 A c ad r))) ∧
     (∀ l, first → s.resolve vd cx va 256 .r = (.remote l, s1) →
       exec (.launch h src) s = .next (s.raise i (faultAt s1 A 0x0C va))) ∧
     (ok → 10 ≤ (s1.grid A.id.grid).depth → exec (.launch h src) s = .next (s.raise i (faultAt s1 A 0x10 0))) ∧
     (∀ c r ad l, go → rd = (.fail c r ad, l, s2) →
       exec (.launch h src) s = .next (s.raise i (faultAt (s2.setOwns i l) A c ad r))) ∧
     (∀ l, go → rd = (.dropped, l, s2) →
       exec (.launch h src) s = .next (((s2.setOwns i l).setCause vd 1).advance i h.settle none)) ∧
     (∀ r l, go → rd = (.go r, l, s2) →
       let u := s2.setOwns i l
       let t := (u.admitLaunch o r).2
       exec (.launch h src) s = .next (t.advance i h.settle none) ∧
       ∃ G : Grid, tget t.grids (u.admitLaunch o r).1 = some G ∧ G.lrec = r ∧ G.vd = vd ∧ G.parent = some A.id.grid ∧
         G.depth = (s1.grid A.id.grid).depth + 1 ∧ G.stream = none ∧
         (∀ st, u.fetchStatus vd r = some st → G.failed = some (st, 0, 0) ∧ G.st = .ending)) ∧
     (s1.ownsOf i = [] →
       (∀ c r ad, s1.readVa vd cx va 256 = (.fail c r ad, s2) → rd = (.fail c r ad, [], s2)) ∧
       ∀ bs, s1.readVa vd cx va 256 = (.ok bs, s2) →
         let good := ofBytes bs % 2 ^ 16 = 0x6B52 ∧ ofBytes bs / 2 ^ 16 % 2 ^ 8 = 1
         (¬ good → rd = (.dropped, [], s2)) ∧
         (good → ∀ x s3, s2.writeVa vd cx (va + 0xC8) (bytesOf (s2.grid A.id.grid).lrec.va 8) = (x, s3) → (∀ st, x ≠ .wait st) →
           rd = (.go (recOf va (ofBytes bs)), [], s3)))) ∧
  (∀ (s : State) (vd : Nat) (r : LRec),
     let dims := [r.gx, r.gy, r.gz, r.tx, r.ty, r.tz]
     (r.reserved = false ∨ 7 < r.prio ∨ (s.vd vd).desc.nctx ≤ r.ctx ∨ 0 ∈ dims ∨ 1024 < r.tx * r.ty * r.tz ∨
       2 ^ 32 ≤ r.gx * r.gy * r.gz ∨ r.demand < 8 ∨ 128 < r.demand ∨ r.demand % 8 ≠ 0 ∨ (r.pod = false ∧ r.podsz ≠ 0) ∨
       (r.pod = true ∧ (r.podsz = 0 ∨ 4 < r.podsz)) ∨ 4096 < r.argb ∨ 1152 < r.ncores ∨ (∃ a, a ∈ r.counters ∧ a % 8 ≠ 0) ∨
       r.argp % 8 ≠ 0 ∨ r.spill % 256 ≠ 0 ∨ r.done % 32 ≠ 0 ↔ s.fetchStatus vd r = some 2) ∧
     (s.fetchStatus vd r ≠ some 2 →
       ((∀ o, o ∈ (s.vd vd).objs → o.2.va ≠ r.code) → s.fetchStatus vd r = some 3) ∧
       (∀ n o, s.objAt vd r.code = some (n, o) →
         let codeOk := r.entry % 8 = 0 ∧ r.entry < o.secLen.getD 0 0 ∧ (r.seq = true → r.sentry % 8 = 0 ∧ r.sentry < o.secLen.getD 1 0)
         let sizes := r.scratch ≤ 458752 ∧ r.spillb % 256 = 0 ∧ 256 ≤ r.spillb
         (¬ codeOk → s.fetchStatus vd r = some 3) ∧ (codeOk → ¬ sizes → s.fetchStatus vd r = some 6) ∧
         (codeOk → sizes → s.fetchStatus vd r = none))))

/-- 15 R431 to R435: `cpyk` with a legal record activates the request, with STATUS 1 in its record; 16 active requests, or one with
the same record, hold the thread at issue; its SCOPE must pass the check of a scope index; a wrong byte count is a malformed record; and
`cprepl` replays the parked elements of the request with that record, in iteration order. The address must name a record in the thread's own scratchpad area.
15 R433 to R438, 07 R165: the engine moves the next element of a request, here of an element-by-element copy, from its source
address to its destination address; when every element has moved, has failed or has been discarded the request completes: STATUS
holds DONE or FAILED, the first cause and the counts, and the request is no longer active. The engine of a paused device moves
nothing (03 R88), nor does one of an island that does not work (01 R24, R30).
Where the spec leaves the point open it is the model's choice: log 10, 42. -/
def Obligations.CopyRequests : Prop :=
  (∀ (h : Hdr) (src : Src) (s s2 : State) (i : Nat) (A : Agent) (va : Nat), Issues s i A h → A.src ⟨src, 64, .int⟩ = .ok va →
     let off := va % 2 ^ 40
     let core := A.pos.core
     let at_ : Prop := va % 64 = 0 ∧ A.id.seq = false ∧ A.pos.away = false ∧ inWindow va = true ∧ s.inArea A off 64 = true
     let x := s.getNat (.scr core off) 64
     let mine (c : Copy) : Prop := c.core = core ∧ c.saved = false
     let room : Prop := (s.copies.filter fun c => c.2.core == core && !c.2.saved).length < 16 ∧
       ∀ c, c ∈ s.copies → mine c.2 → c.2.recAt ≠ off
     let both (f : FaultInfo) : Prop :=
       exec (.cpyk h src) s = .next (s.raise i f) ∧ exec (.cprepl h src) s = .next (s.raise i f)
     (va % 64 ≠ 0 → both (faultAt s A 0x0A va)) ∧
     (va % 64 = 0 → A.id.seq = true → both (faultAt s A 0x0C va)) ∧
     (va % 64 = 0 → A.id.seq = false → A.pos.away = true → both (faultAt s A 0x19 va)) ∧
     (va % 64 = 0 → A.id.seq = false → A.pos.away = false → (inWindow va = false ∨ s.inArea A off 64 = false) →
       both (faultAt s A 0x0C va)) ∧
     (at_ → A.hasParked = false → A.memHeld = false → ¬ room →
       exec (.cpyk h src) s = .next (s.setAgent i { A with sched := { A.sched with polled := true } })) ∧
     (∀ kind r ms buf, at_ → A.hasParked = false → A.memHeld = false → room → copyKindOf (x % 256) = some kind →
       RecsAt s A kind x r s2 → s2.scopeCheck A (x / 2 ^ 16 % 64) = .ok () →
       s2.captures A (copySlots kind x r) = .ok ms →
       let fs := (s2.image (ms.getD 0 0)).fmt
       let fd := (s2.image (ms.getLastD 0)).fmt
       (if kind.tile then ∃ b t, buf = some (b, t) ∧ NameAt s2 A (x / 2 ^ 128 % 256) b t ∧
           useOf 1 (if kind = .tileStore then .read else .write) t.st = .ok ∧
           (if kind = .window then t.matchesSlot fs = true else t.fits r.src fs = true) ∧
           FreeOf s2 i A b false true (decide (kind ≠ .tileStore))
         else buf = none) →
       let c := copyOf i A kind x off r (copySlots kind x r) (ms.getD 0 0) (ms.getLastD 0) buf fs fd A.curPc s2.run.word
       recordBad kind x = false → pairBad kind r fs fd = false → s2.barBad A c = false →
       (x / 2 ^ 256 % 2 ^ 64 = c.bytes → exec (.cpyk h src) s =
         .next (((({ s2 with run := { s2.run with nextId := s2.run.nextId + 1 } } : State).write
           (.scr core (off + 0x28)) (bytesOf 1 8)).setCopy s2.run.nextId c).advance i h.settle none)) ∧
       (x / 2 ^ 256 % 2 ^ 64 ≠ c.bytes → exec (.cpyk h src) s = .next (s.raise i (faultAt s2 A 0x01 0)))) ∧
     (at_ → ∃ u : State, exec (.cprepl h src) s = .next (u.advance i h.settle none) ∧ u = { s with copies := u.copies } ∧
       ∀ n c, tget s.copies n = some c → ∃ q : List Nat, q.Perm (c.redo ++ c.parked) ∧ q.Pairwise (· ≤ ·) ∧
         tget u.copies n = some (if c.core = core ∧ c.saved = false ∧ c.recAt = off ∧ c.parked ≠ [] then
           { c with redo := q, parked := [], trapOut := false } else c))) ∧
  (∀ (s s1 s2 s3 : State) (n : Nat) (c : Copy), tget s.copies n = some c → c.saved = false →
     (2 ≤ (s.vd c.vd).shed → exec (.copyElement n) s = .next s) ∧
     (s.atWork c.core = false → exec (.copyElement n) s = .next s ∧ exec (.copyRequestComplete n) s = .next s) ∧
     (∀ l1 l2, (s.vd c.vd).shed < 2 → s.atWork c.core = true → c.kind = .copy → c.bar = none → c.parked = [] → c.redo = [] → c.asking = none → c.next < c.total → s.parkedOn c.core < 64 →
       s.usePlanes (cobOfCore c.core) n [c.imgS, c.imgD] = (true, s1) → tget s1.copies n = some c →
       let u := c.next
       let s0 := s1.setCopy n { c with next := u + 1 }
       let fs := s0.fmtS c
       let fd := s0.fmtD c
       let a := c.src.unitAddr fs u
       let b := c.dst.unitAddr fd u
       s0.copyTouch { c with next := u + 1 } (a / 8) (elemBytes a fs.unitBits) .r = (.ok l1, s2) →
       s2.copyTouch { c with next := u + 1 } (b / 8) (elemBytes b fd.unitBits) .w = (.ok l2, s3) →
       tget s3.copies n = some { c with next := u + 1 } →
       exec (.copyElement n) s = .next
         ((s3.writeChunks l2 (putBits (s3.readChunks l2) (b % 8) fd.unitBits
           (bitsAt (s2.readChunks l1) (a % 8) fs.unitBits))).setCopy n
           { c with next := u + 1, finished := c.finished + 1, asking := none, answers := [], wait := none })) ∧
     (s.atWork c.core = true → c.total ≤ c.next → c.redo = [] → c.parked = [] → c.asking = none → c.wait = none → c.ctr = 0 → c.bar = none → c.rel = false →
       (c.kind ≠ .tileLoad ∧ c.kind ≠ .window) → c.failed < 2 ^ 24 → c.discard < 2 ^ 24 →
       ∃ st, st < 2 ^ 64 ∧ st % 256 = (if c.failed = 0 then 2 else 3) ∧ st / 2 ^ 16 % 2 ^ 24 = c.failed ∧ st / 2 ^ 40 = c.discard ∧
         (∀ u k, c.firstFail = some (u, k) → k < 256 → st / 256 % 256 = k) ∧
         let t := s.write (.scr c.core (c.recAt + 0x28)) (bytesOf st 8)
         exec (.copyRequestComplete n) s =
           .next (((({ t with copies := tdel t.copies n } : State).leaveQueues n).sweepBufs).teamCheck c.team)) ∧
     (c.next < c.total ∨ c.redo ≠ [] ∨ c.parked ≠ [] ∨ c.asking ≠ none → exec (.copyRequestComplete n) s = .next s))

/-- 04 R101, R102, 15 R441 to R444: `fmtbind` pushes 0 and starts the bind, or the reason it refuses; a bind of a slot's own image
changes nothing; another one makes the slot REBINDING and counts a binding of the image; `fmtq` pushes the word of a slot;
`fmtfence` goes on when no rebind accepted before it is pending and waits otherwise.
04 R102 to R104: the drain of a rebind ends when no operation holds the old binding, or by force after 1,000,000 ticks, and the
slot is released once every cob of its context holds the new image; a waited-for image is loaded into a free plane, that of the
rebind's old image first, or else the one used longest ago, and the load ends.
Where the spec leaves the point open it is the model's choice: log 10, 38, 50, 62. -/
def Obligations.FormatSlotsAndPlanes : Prop :=
  (∀ (h : Hdr) (slot : Fin 16) (src : Src) (d : Dst) (s : State) (i : Nat) (A : Agent), Issues s i A h → A.dstReady d 1 = .ok () →
     let vd := A.id.vd
     let cx := A.id.ctx
     let b := s.slot vd cx slot.val
     (∀ m, A.src ⟨src, 32, .int⟩ = .ok m →
       let im := s.image m
       let key := (s.vd vd).keys.find? fun k => k.1 == im.keyid
       let r := if 1024 ≤ m ∨ im.st ≠ 1 then 1 else match key with | none => 2 | some k => if im.leaf < k.2 then 3 else 0
       (r ≠ 0 → exec (.fmtbind h slot src d) s = .next (s.after i (A.putResult d 1 r) h)) ∧
       (r = 0 → b.st = 1 → b.img = m → exec (.fmtbind h slot src d) s = .next (s.after i (A.putResult d 1 0) h)) ∧
       (r = 0 → b.st = 0 ∨ (b.st = 1 ∧ b.img ≠ m) →
         ∃ u : State, exec (.fmtbind h slot src d) s = .next (u.after i (A.putResult d 1 0) h) ∧ u.agents = s.agents ∧ u.mem = s.mem ∧
           u.slot vd cx slot.val = { st := 2, img := m, old := if b.st = 1 then some b.img else none, since := s.now, stamp := s.run.nextId } ∧
           (u.image m).binds = im.binds + 1)) ∧
     (b.st = 0 → exec (.fmtq h slot d) s = .next (s.after i (A.putResult d 1 0) h)) ∧
     (b.st ≠ 0 → exec (.fmtq h slot d) s = .next (s.after i (A.putResult d 1
       (b.img + 2 ^ 16 * b.st + 2 ^ 18 * (s.image b.img).cls + 2 ^ 24 * (s.image b.img).fmt.w + 2 ^ 30 * (s.image b.img).fmt.kind)) h)) ∧
     (A.pend.fence = none →
       (s.rebindsBefore vd cx s.run.nextId = false → exec (.fmtfence h) s = .next (s.after i A h)) ∧
       (s.rebindsBefore vd cx s.run.nextId = true → exec (.fmtfence h) s = .next (s.setAgent i
         { A with pend := { A.pend with fence := some s.run.nextId }, sched := { A.sched with polled := true } })))) ∧
  (∀ (s : State) (vd ctx n : Nat),
     let b := s.slot vd ctx n
     let t := s.setSlot vd ctx n { b with drained := true }
     (b.st = 2 → s.slotHeld vd ctx n = false → exec (.drainComplete vd ctx n) s = .next (t.tryRelease vd ctx n)) ∧
     (b.st ≠ 2 → exec (.drainComplete vd ctx n) s = .next s) ∧
     (b.st = 2 → b.more = [] →
       ((∀ c, c ∈ s.cobsOf vd ctx → (s.cob c).holds b.img = true) → (t.tryRelease vd ctx n).slot vd ctx n = { st := 1, img := b.img } ∧
         ∀ m, b.old = some m → m ≠ b.img → (s.image m).st = 1 →
           ((t.tryRelease vd ctx n).image m).binds = (s.image m).binds - 1) ∧
       ((∃ c, c ∈ s.cobsOf vd ctx ∧ (s.cob c).holds b.img = false) → t.tryRelease vd ctx n = t)) ∧
     (b.st = 2 → b.drained = false → b.since + 1000000 ≤ s.now → ∃ is cs : List Nat,
       (∀ i, i ∈ is ↔ ∃ a, (i, a) ∈ s.agents ∧ a.id.vd = vd ∧ a.id.ctx = ctx) ∧
       (∀ k, k ∈ cs ↔ ∃ c, (k, c) ∈ s.copies ∧ c.vd = vd ∧ c.ctx = ctx ∧ n ∈ c.slots) ∧
       exec (.drainTimeout vd ctx n) s = .next (((((s.failHolders n is).failCopies n cs).setSlot vd ctx n
         { b with drained := true }).sweepBufs).tryRelease vd ctx n)) ∧
     (s.now < b.since + 1000000 → exec (.drainTimeout vd ctx n) s = .next s) ∧
     (∀ cob image r k, s.wantsPlane cob image = some r → s.planeFor cob image r.isNone = some k → exec (.planeLoad cob image) s =
       let p : Plane := { img := some image, used := (s.cob cob).clockUse, loading := true, reserved := r }
       .next (s.setCob cob { s.cob cob with planes := (s.cob cob).planes.set k p })) ∧
     (∀ cob m re k, (s.cob cob).planes.length = 16 → s.planeFor cob m re = some k → k < 16 ∧
       (let old (j : Nat) : Prop := ∃ o, ((s.cob cob).planes.getD j {}).img = some o ∧ s.replaces cob m o = true
        re = true → (∃ j, j < 16 ∧ s.planeFree cob ((s.cob cob).planes.getD j {}) = true ∧ old j) → old k) ∧
       s.planePinned cob ((s.cob cob).planes.getD k {}) = false ∧
       ((∃ j, j < 16 ∧ s.planeFree cob ((s.cob cob).planes.getD j {}) = true) →
         s.planeFree cob ((s.cob cob).planes.getD k {}) = true) ∧
       ((∀ j, j < 16 → s.planeFree cob ((s.cob cob).planes.getD j {}) = false) → ∀ j, j < 16 →
         s.planePinned cob ((s.cob cob).planes.getD j {}) = false →
         ((s.cob cob).planes.getD k {}).used ≤ ((s.cob cob).planes.getD j {}).used)) ∧
     (∀ cob image, (∃ p, p ∈ (s.cob cob).planes ∧ p.img = some image ∧ p.loading = true) →
       ∃ u : State, exec (.planeLoadComplete cob image) s = .next u.releaseAll.retryHeld ∧ u = { s with cobs := u.cobs } ∧
         (u.cob cob).holds image = true ∧ ∀ c, c ≠ cob → u.cob c = s.cob c))

/-- 14 R404, 08 R207 to R209, 15 R445, 07 R172, R179: `migrate` to the thread's own die goes on at once; to another die it waits there
settled, and the transfer puts the thread in the landing slot of its lane and pip on a core of that die with its frames, at the next
instruction. `psave` in the handler of a pre-emption stops the thread with its skip mask, outside one it faults.
Where the spec leaves the point open it is the model's choice: log 10, 18. -/
def Obligations.MovesAndSaves : Prop :=
  ∀ (h : Hdr) (src : Src) (s s1 : State) (i : Nat) (A : Agent), Issues s i A h →
    (∀ va pa d, A.id.seq = false → A.src ⟨src, 64, .int⟩ = .ok va → A.pend.mig = none → inWindow va = false → ownDead A.pend.own va 1 false = none →
      s.translate A.id.vd A.id.ctx va .r = (.ok pa none, s1) → s1.homeDie pa = some d → (s1.die d).lost = false →
      (granuleOf pa).map s1.ownerOf = some A.id.vd → A.quiet = true → A.settling = false → A.hasParked = false →
      (A.inHandler = true ∨ A.completions true = []) →
      (d = dieOfCore A.pos.core → exec (.migrate h src) s = .next (s1.advance i h.settle none)) ∧
      (d ≠ dieOfCore A.pos.core → tget s1.agents i = some A → exec (.migrate h src) s = .next (s1.setAgent i
        { A with pend := { A.pend with mig := some (d, va) }, sched := { A.sched with polled := true } }))) ∧
    (∀ d va c t, A.pend.mig = some (d, va) → A.flt.trapping = false → A.pos.out = false →
      A.sched.page = none → (s.die d).lost = false → (s.die d).gate = .on → tget s.teams A.id.team = some t → dieOfCore t.core ≠ d →
      A.residentRegs ≤ 128 → s.landingCore A d = some c → A.arch.mac = none → A.arch.loops = [] →
      ∃ (u : State) (B : Agent), exec (.migrateTransfer i) s = .next u ∧ tget u.agents i = some B ∧
        B.pos = { core := c, pip := A.pos.pip, lane := A.pos.lane, slot := 16, away := true } ∧ B.pend.mig = none ∧
        B.arch.pc = A.arch.pc + 8 ∧ B.arch.queue = A.arch.queue ∧ B.arch.preds = A.arch.preds ∧
        (B.arch.frames.map fun f => (f.dem, f.ret, f.regs)) = (A.arch.frames.map fun f => (f.dem, f.ret, f.regs)) ∧
        u.mem = s.mem ∧ u.scr = s.scr) ∧
    (∀ m, A.src ⟨src, 32, .int⟩ = .ok m → A.sched.psaved = none →
      (A.inHandler = true → A.inPreHandler = false → exec (.psave h src) s = .next (s.raise i (faultAt s A 0x0C 0))) ∧
      (A.inPreHandler = true → A.quiet = true → A.settling = false →
        (A.sched.covered = false → exec (.psave h src) s = .next (s.advance i h.settle none)) ∧
        (A.sched.covered = true → exec (.psave h src) s =
          .next ((s.after i { A with sched := { A.sched with psaved := some (m % 4) } } h).coopCheck A.id.vd A.id.ctx (s.homeCob A)))))

/-! Clocks, power, gating, boot and the checkpoint (01 R23 to R41, 03 R76, R87 to R89). -/

/-- 01 R23 to R25, 03 R76: a synchronisation pulse ends 1,000 ticks in which every clocked island has all its clocks, and counts
the pulses each die has missed in a row; a lost die is told by PF vector 4 and what waited is attempted
again, whether it is an access of a program or one of the part's own; a legal frequency other than the present one starts a relock of at most 2 µs, which ends with the island at that frequency, its
clocks so far counted; and at a window of the regulators every budget is whole again, what waited is attempted again, and HELDW counts
a device that has had a request held in it.
01 R12, R16, R32 to R41: a cold boot in which no unit fails and without a valid checkpoint leaves every step DONE, the package
ready, the home map over the eight N-dies, the link at its full width, every die ON and memory zero outside the reserve; a boot that
is cut short leaves its step RUNNING; one that needs a unit that fails halts with the step FATAL; a checkpoint that matches puts the
grids and what runs of them back, one that does not ends step 8 with 0x0C11. A checkpoint, from the power-fail input or by command,
stops the package, or waits for a relock or a gating to end; then it goes on by its steps, writing nothing but the reserve and what the moves it ends write, and its header is valid after the
last.
Where the spec leaves the point open it is the model's choice: log 1, 18, 20, 30, 31. -/
def Obligations.ClocksAndBoot : Prop :=
  (∀ (s : State) (d i : Nat), d < 12 → i < 2 →
     let x := s.isl d i
     let elsewhere (u : State) : Prop := u.mem = s.mem ∧ u.scr = s.scr ∧ ∀ e j, (e, j) ≠ (d, i) → j < 2 → u.isl e j = s.isl e j
     let waits (p : OpSt → Bool) (snoops : Prop) : Prop :=
       ∀ o, p o = true ↔ ((∃ k b, o = .regul k b) ∨ o = .held ∨ (snoops ∧ ∃ l, o = .snoop l))
     (∀ missed, (∀ e, e < 12 → missed.testBit e = true → (s.die e).missed < 9) →
       ∃ u : State, exec (.syncPulse missed) s = .next u ∧ u.now = max s.now u.run.pulse ∧ u.run.pulse = s.run.pulse + 1000 ∧ u.mem = s.mem ∧
         u.scr = s.scr ∧ (u.isl d i).mhz = x.mhz ∧ (u.isl d i).done = 0 ∧
         (x.relock = false ∨ s.run.pulse + 1000 ≤ x.till → (u.isl d i).cyc = x.cyc + s.clocksLeft d i ∧ (u.isl d i).relock = x.relock) ∧
         (x.relock = true → x.till < s.run.pulse + 1000 → (u.isl d i).relock = false) ∧
         (u.die d).missed = (if missed.testBit d then (s.die d).missed + 1 else 0) ∧ (u.die d).lost = (s.die d).lost) ∧
     (x.relock = true → s.clocksLeft d i = 0) ∧
     (s.pkg.exDies.testBit d = false → (s.die d).lost = false →
       ∃ p, exec (.dieLost d) s = .next (((s.setDie d { s.die d with lost := true }).send (.pfMsix 4)).retry p) ∧ waits p True) ∧
     (∀ f, 600 ≤ f → f ≤ 2400 → f % 100 = 0 → f ≠ x.mhz → x.relock = false → ∃ u : State,
       exec (.frequencyStep d i f) s = .next u ∧ elsewhere u ∧ (u.isl d i).mhz = f ∧ (u.isl d i).relock = true ∧ (u.isl d i).full = 0 ∧
       (u.isl d i).cyc = x.cyc + min ((s.sincePulse - x.done) / x.period) (s.clocksLeft d i) ∧
       s.now ≤ (u.isl d i).till ∧ (u.isl d i).till ≤ s.now + 200) ∧
     (∀ f, (f < 600 ∨ 2400 < f ∨ f % 100 ≠ 0) → exec (.frequencyStep d i f) s = .next s) ∧
     (x.relock = true → x.till < s.run.pulse + 1000 → ∃ u : State, exec (.pllRelockEnd d i) s = .next u ∧ (u.isl d i).relock = false ∧
       (u.isl d i).mhz = x.mhz ∧ (u.isl d i).cyc = x.cyc ∧ (u.isl d i).ncyc = x.ncyc ∧ u.now = max s.now x.till ∧ elsewhere u) ∧
     (s.run.window = true → ∃ (t : State) (p : OpSt → Bool), exec .regulatorWindow s = .next ((t.freeHeld.takeHeldIn OpSt.isRegul).retry p) ∧ waits p False ∧
       t = { s with run := { s.run with window := false }, vds := t.vds } ∧
       ∀ n, tget t.vds n = (tget s.vds n).map fun v =>
         { v with
           regs := [], windowHeld := false
           heldw := if v.windowHeld = true ∨ s.isHeld n = true then (v.heldw + 1) % 2 ^ 32 else v.heldw })) ∧
  (∀ s : State,
     let good : BootPlan := { cold := true, prim := List.replicate 10 0, alt := List.replicate 10 0 }
     let made (u : State) : Prop := u.pkg.ready = true ∧ u.pkg.fatal = false ∧ u.pkg.exDies = 0 ∧ u.pkg.home = upFrom 0 8 ∧
       u.pkg.routes = u.routeTables ∧ u.link.st = 2 ∧ (∀ d, d < 12 → (u.die d).gate = .on) ∧
       ∀ k, 1 ≤ k → k ≤ 10 → (u.stepRec k).st = 2 ∧ (u.stepRec k).step = k ∧ (u.stepRec k).tries = 1
     let near (t u : State) : Prop := ∀ c, (c.1 < 0x010000000000 ∨ 3 ≤ t.exps.length ∧ t.inReserve c.1 = false) → (c ∈ u.mem ↔ c ∈ t.mem)
     let zeroed (u : State) : Prop := u.agents = [] ∧ u.vds = [] ∧
       ∀ c, c ∈ u.mem ↔ c ∈ s.mem ∧ 0x010000000000 ≤ c.1 ∧ u.inReserve c.1 = true
     (s.pkg.ckpt.valid = false → ∃ u : State, exec (.boot good) s = .next u ∧ made u ∧ zeroed u ∧ (u.stepRec 8).result = 0) ∧
     (s.pkg.ckpt.valid = true → ∃ u : State, exec (.boot good) s = .next u ∧ made u ∧
       (s.pkg.ckpt.config ≠ (0, 0, 0) → zeroed u ∧ (u.stepRec 8).result = 0x0C11 ∧ u.pkg.ckpt = s.pkg.ckpt) ∧
       (s.pkg.ckpt.config = (0, 0, 0) → (u.stepRec 8).result = 0 ∧ u.pkg.ckpt.valid = false ∧
         u.grids = s.pkg.ckpt.grids ∧ u.teams = s.pkg.ckpt.teams ∧ u.pods = s.pkg.ckpt.pods)) ∧
     (∀ k, 1 ≤ k → k ≤ 10 → ∃ u : State, exec (.boot { good with cut := k }) s = .next u ∧
       u.pkg.ready = false ∧ u.pkg.fatal = false ∧ (u.stepRec k).st = 1 ∧ (u.stepRec k).tries = 1) ∧
     (∀ k, 1 ≤ k → k ≤ 10 → k ≠ 4 → k ≠ 5 → k ≠ 6 → s.pkg.ckpt.valid = false →
       let f := if k = 1 ∨ k = 3 then 2 ^ 12 else 1
       let fs := (List.replicate 10 0).set (k - 1) f
       ∃ u : State, exec (.boot { cold := true, prim := fs, alt := fs }) s = .next u ∧
         u.pkg.ready = false ∧ u.pkg.fatal = true ∧ (u.stepRec k).st = 5) ∧
     (s.pkg.ready = true → s.pkg.stopped = false →
       (s.pkg.ckptStage = 0 → exec .managementCheckpointCommand s = exec .powerFailInput s) ∧
       ((∃ d x, (d, x) ∈ s.dies ∧ (x.gate = .gating ∨ x.islA.relock = true ∨ x.islB.relock = true)) →
         exec .powerFailInput s = .next { s with pkg := { s.pkg with ckptDue := true } }) ∧
       ((∀ d x, (d, x) ∈ s.dies → x.gate ≠ .gating ∧ x.islA.relock = false ∧ x.islB.relock = false) →
         ∃ u : State, exec .powerFailInput s = .next u ∧ u.pkg.stopped = true ∧ u.pkg.ckpt.valid = false ∧ u.pkg.ckptStage = 1 ∧
           u.run.issueQ = [] ∧ u.run.cur = none ∧ u = { s with pkg := u.pkg, run := u.run, mem := u.mem } ∧ near s u)) ∧
     (s.pkg.ready = false ∨ s.pkg.stopped = true →
       exec .powerFailInput s = .next s ∧ (s.pkg.ckptStage = 0 ∨ 6 ≤ s.pkg.ckptStage → exec .managementCheckpointCommand s = .next s)) ∧
     (s.pkg.ckptStage = 1 → ∃ u : State, exec .managementCheckpointCommand s = .next u ∧ u.pkg.ckptStage = 2) ∧
     (s.pkg.ckptStage = 2 →
       let t := s.settleAll
       (t.inFlight = true → exec .managementCheckpointCommand s = .next t) ∧
       (t.inFlight = false → ∃ u : State, exec .managementCheckpointCommand s = .next u ∧
         u = { t with pkg := { t.pkg with ckptStage := 3 }, run := u.run, mem := u.mem } ∧ near t u)) ∧
     (s.pkg.ckptStage = 3 →
       let t := s.endMoves s.moves
       (t.moves ≠ [] → exec .managementCheckpointCommand s = .next t) ∧
       (t.moves = [] → ∃ u : State, exec .managementCheckpointCommand s = .next u ∧ u.pkg.ckptStage = 4 ∧ u.mem = t.mem ∧
         u.pkg.ckpt.vds = t.vds ∧ u.pkg.ckpt.agents = t.agents ∧ u.pkg.ckpt.images = t.x.images ∧ u.pkg.ckpt.valid = t.pkg.ckpt.valid ∧
         ∀ d, (tget t.dies d).isSome = true → (u.die d).gate = .gated)) ∧
     (s.pkg.ckptStage = 4 → ∃ u : State, exec .managementCheckpointCommand s = .next u ∧ u.pkg.ckptStage = 5 ∧
       u.pkg.ckpt.cache = s.sideCache ∧ near s u) ∧
     (s.pkg.ckptStage = 5 → ∃ u : State, exec .managementCheckpointCommand s = .next u ∧ u.pkg.ckptStage = 6 ∧
       u.pkg.ckpt.valid = true ∧ u.pkg.ckpt.config = s.config ∧ u.pkg.ckpt.time = s.now ∧ u.pkg.ckpt.owner = s.x.owner ∧ near s u))

/-- 03 R87 to R89: the effective cap is the lower of PWR_CAP, held between 1200 and 4600, and the tray's; the action for a device
is the most severe over the enabled steps in force, told by INTCAUSE bit 5: slow goes on, pause holds the device, a lesser action
activates a paused one that no command descheduled; PF vector 3 tells of steps entered or left. A window above the cap lowers every
island by 100 MHz, or, at the lowest, sets PWR_UNMET with PF vector 3; frequencies are restored when the cap rises.
01 R28 to R31: the transitions of a compute die: an ON die on which nothing is resident can start gating, a gating die completes
and everything its core islands held reads zero, or is given up; a gated die wakes on a request, and is ON again afterwards.
Where the spec leaves the point open it is the model's choice: log 18. -/
def Obligations.PowerAndGating : Prop :=
  (∀ (s : State) (w : Nat),
     let t := { s with pkg := { s.pkg with pwrCap := w % 2 ^ 16 } }
     let r := { s with pkg := { s.pkg with trayCap := w } }
     let quiet (u : State) : Prop := ∀ v, v < 64 → (s.vd v).st = .absent ∨ (s.vd v).st = .destroying ∨ u.actionOf v = (s.vd v).shed
     let told (u : State) (x : State) : State := if u.stepsOn = s.stepsOn then x else x.send (.pfMsix 3)
     let up (u : State) : State := if s.pwrEff < u.pwrEff then u.restoreAll u.islands else u
     t.pwrEff = min (max 1200 (min 4600 (w % 2 ^ 16))) s.pkg.trayCap ∧
     r.pwrEff = min (max 1200 (min 4600 s.pkg.pwrCap)) w ∧
     (∀ i, i ∈ s.stepsOn ↔ i < 8 ∧ (s.shedStep i).en = true ∧ s.pwrEff ≤ (s.shedStep i).thresh) ∧
     (∀ v, (∀ i, i ∈ s.stepsOn → (s.shedStep i).act / 2 ^ (2 * v) % 4 ≤ s.actionOf v) ∧
       (s.actionOf v = 0 ∨ ∃ i, i ∈ s.stepsOn ∧ (s.shedStep i).act / 2 ^ (2 * v) % 4 = s.actionOf v)) ∧
     (quiet t → exec (.pwrCapWrite w) s = .next (told t (up t))) ∧
     (quiet r → exec (.trayPowerCap w) s = .next (told r (up r))) ∧
     (∀ v, v < 64 → (s.vd v).st = .active ∨ (s.vd v).st = .held →
       let n := s.actionOf v
       let m := ((s.setVd v { s.vd v with shed := n }).setCause v 5)
       (n = (s.vd v).shed → s.shedDevice v = s) ∧
       (n ≠ (s.vd v).shed →
         (n = 3 → s.shedDevice v = m.evict v) ∧
         (n = 2 → s.shedDevice v = if (s.vd v).st = .active then m.hold v else m) ∧
         (n < 2 → s.shedDevice v = if (s.vd v).cmd = true ∨ (s.vd v).st = .active then m else m.activate v))) ∧
     ((∃ d i, (d, i) ∈ s.islands ∧ 600 < (s.isl d i).mhz) → ∃ u : State, exec .powerWindowOverCap s = .next u ∧
       u.mem = s.mem ∧ u.scr = s.scr ∧ ∀ d i, (d, i) ∈ s.islands →
         (u.isl d i).mhz = (if 600 < (s.isl d i).mhz then (s.isl d i).mhz - 100 else (s.isl d i).mhz) ∧
         (600 < (s.isl d i).mhz → (u.isl d i).relock = true)) ∧
     ((∀ d i, (d, i) ∈ s.islands → (s.isl d i).mhz ≤ 600) → s.pkg.pwrUnmet = false →
       exec .powerWindowOverCap s = .next ({ s with pkg := { s.pkg with pwrUnmet := true } }.send (.pfMsix 3)))) ∧
  (∀ (s : State) (d : Nat), d < 12 →
     let others (u : State) : Prop := ∀ e, e ≠ d → u.die e = s.die e
     (s.pkg.ready = true → (s.die d).gate = .on →
       (∀ n t, (n, t) ∈ s.teams → t.holds = true → dieOfCore t.core ≠ d) →
       (∀ n a, (n, a) ∈ s.agents → a.pos.out = false → dieOfCore a.pos.core ≠ d) →
       (∀ n c, (n, c) ∈ s.copies → c.saved = false → dieOfCore c.core ≠ d) →
       exec (.dieGatingStart d) s = .next (s.setDie d { s.die d with gate := .gating })) ∧
     ((s.die d).gate = .gating →
       (∃ u : State, exec (.gatingComplete d) s = .next u ∧ (u.die d).gate = .gated ∧ (u.die d).l2pins = [] ∧ others u ∧
         (∀ core off, core < 1152 → off < 2 ^ 20 → dieOfCore core = d → u.getByte (.scr core off) = 0) ∧
         (∀ core off, core < 1152 → off < 2 ^ 20 → dieOfCore core ≠ d → u.getByte (.scr core off) = s.getByte (.scr core off)) ∧
         (∀ core, core < 1152 → dieOfCore core = d → u.core core = {}) ∧
         (∀ cob, cob < 288 → dieOfCob cob = d → (u.cob cob).planes = List.replicate 16 {}) ∧ u.mem = s.mem ∧ u.agents = s.agents ∧
         ∀ c, c ∈ u.sideCache ↔ c ∈ s.sideCache ∧ c.die ≠ d) ∧
       exec (.gatingAbandon d) s = .next (s.setDie d { s.die d with gate := .on })) ∧
     ((s.die d).gate = .gated → exec (.dieWakeRequest d) s = .next (s.setDie d { s.die d with gate := .waking })) ∧
     ((s.die d).gate = .waking → ∃ u : State, exec (.wakeComplete d) s = .next (u.retry fun o => o == .held) ∧ (u.die d).gate = .on ∧ others u ∧
       u = { s with dies := u.dies, agents := u.agents } ∧
       ∀ n, tget u.agents n = (tget s.agents n).map fun a =>
         if a.pend.mig.map (·.1) = some d then { a with pend := { a.pend with wake := false } } else a) ∧
     ((s.die d).gate ≠ .gating → exec (.gatingComplete d) s = .next s ∧ exec (.gatingAbandon d) s = .next s) ∧
     ((s.die d).gate ≠ .gated → exec (.dieWakeRequest d) s = .next s) ∧
     ((s.die d).gate ≠ .waking → exec (.wakeComplete d) s = .next s))

/-! The host link, host coherence and the scale-up ports (02). -/

/-- 02 R42 to R50: a link that goes down, management commands, health flits and reserved classes; a host read returns the bytes of
device memory and the tracker comes to hold the lines it takes, a host write is performed and acknowledged, a locked operation
updates its word and returns the old one; an access that the HDM range does not reach is rejected, its address kept.
02 R48, R52: the answer to a back-invalidation returns what the host had modified, ends the host's copy or leaves it clean, and
what waited for the line is attempted again; one without an answer for 100,000 ticks is sent once more, and after 200,000 the
link is FAILED with BIFAIL, the tracker is discarded, coherence with the host is off and what waited for the line fails.
Where the spec leaves the point open it is the model's choice: log 15, 58. -/
def Obligations.HostAccess : Prop :=
  (∀ (s : State) (off : Nat),
     let up : Prop := s.link.st = 2 ∨ s.link.st = 3
     let reach : Prop := up ∧ s.pkg.ready = true ∧ s.pkg.stopped = false
     let freeLines (n : Nat) : Prop := s.link.incoherent = false ∧ ∀ x, x ∈ s.link.snoops → x.line ∉ hostLines off n
     let room (n : Nat) : Prop := freeLines n ∧ s.link.tracker.length + (hostLines off n).length ≤ 8388608
     let viaCache (t : State) : Prop := t = { s with sideCache := t.sideCache, run := { s.run with free := t.run.free } }
     let erred : State := { s with link := { s.link with erraddr := off % 2 ^ 52 } }.send (.pfMsix 0)
     (up → exec .olkLinkDown s = .next ({ s with link := { s.link with st := 0 } }.send (.pfMsix 1)) ∧
       ∀ c, ∃ f, exec (.managementCommandFlit c) s =
         .next ({ s with run := { s.run with free := s.run.free + 1 } }.send (.sideband 1 f))) ∧
     (∀ r m, let t := { s with link := { s.link with replays := min (s.link.replays + r) (2 ^ 24 - 1), margins := m } }
       exec (.linkHealthFlit ⟨false, r, m⟩) s = .next t ∧
       (up → exec (.linkHealthFlit ⟨true, r, m⟩) s = .next (t.send (.sideband 3 (t.link.replays + 2 ^ 24 * m))))) ∧
     (∀ c, 4 ≤ c → c < 16 → exec (.reservedSidebandFlit c) s =
       .next { s with link := { s.link with badsb := min (s.link.badsb + 1) 0xFFFF } }) ∧
     (∀ n, reach → s.hostSees off n = true → freeLines n → s.isFaulty off n = false →
       ∃ t, viaCache t ∧ exec (.hostRead .hdm off n .none) s = .next (t.send (.hostData off (s.getBytes (.mem off) n)))) ∧
     (∀ n m, reach → s.hostSees off n = true → room n → s.isFaulty off n = false → ∃ u : State,
       exec (.hostRead .hdm off n (if m then .modified else .clean)) s = .next (u.send (.hostData off (s.getBytes (.mem off) n))) ∧
       viaCache { u with link := s.link } ∧ u.link = { s.link with tracker := u.link.tracker } ∧
       ∀ l b, (l, b) ∈ u.link.tracker ↔ if l ∈ hostLines off n then b = m else (l, b) ∈ s.link.tracker) ∧
     (∀ n hold, reach → s.hostSees off n = false →
       exec (.hostRead .hdm off n hold) s = .next (erred.send (.hostData off (List.replicate n 0xFF)))) ∧
     (∀ bs, reach → bs ≠ [] →
       (s.hostSees off bs.length = true → freeLines bs.length →
         ∃ t, viaCache t ∧ exec (.hostWrite .hdm off bs) s = .next ((t.write (.mem off) bs).send (.hostDone off))) ∧
       (s.hostSees off bs.length = false → exec (.hostWrite .hdm off bs) s = .next erred)) ∧
     (∀ f v c, reach → s.hostSees off (f.width / 8) = true → room (f.width / 8) → v < 2 ^ f.width → c < 2 ^ f.width →
       let old := s.getNat (.mem off) (f.width / 8)
       ∃ r, viaCache r ∧
         let t := match atomicNew f old v c with
           | some x => r.write (.mem off) (bytesOf x (f.width / 8))
           | none => r
         exec (.hostLockedOperation off f v c) s =
           .next ((t.hostHolds off (f.width / 8) .modified).send (.hostOld off old))) ∧
     (¬ reach → ∀ w n hold, exec (.hostRead w off n hold) s = .next s)) ∧
  (∀ (s : State) (line : Nat) (x : Snoop), (s.link.snoops.find? fun y => y.line == line) = some x →
     (∀ data, ∃ (t : State) (p : OpSt → Bool),
       exec (.bisnpResponse line data) s = .next (({ t with link := { s.link with
         snoops := s.link.snoops.filter fun y => y.line != line
         tracker := t.link.tracker } } : State).takeHeldIn p |>.retry p) ∧
       (∀ o, p o = true ↔ o = .snoop line) ∧
       (∀ e, e ∈ t.link.tracker ↔ (e.1 ≠ line ∧ e ∈ s.link.tracker) ∨
         (x.inval = false ∧ e = (line, false) ∧ ∃ b, (line, b) ∈ s.link.tracker)) ∧
       (data = none ∨ (line, true) ∉ s.link.tracker ∨ x.whole = true → t = { s with link := t.link }) ∧
       (∀ bs, data = some bs → (line, true) ∈ s.link.tracker → x.whole = false →
         t = { s.write (.mem line) (bs.take 128) with link := t.link })) ∧
     (x.resent = false → x.sent + 100000 ≤ s.now → ∃ u : State,
       exec (.bisnpResend line) s = .next (u.send (.bisnp line)) ∧
       u = { s with link := { s.link with snoops := u.link.snoops } } ∧
       ∀ y, y ∈ u.link.snoops ↔ (y.line ≠ line ∧ y ∈ s.link.snoops) ∨
         (y.line = line ∧ ∃ z, z ∈ s.link.snoops ∧ y = { z with resent := true })) ∧
     (x.sent + 200000 ≤ s.now → ∃ (t : State) (p : OpSt → Bool) (q : Own → Bool),
       t = { s with link := { s.link with st := 4, bifail := true, tracker := [], snoops := [], incoherent := true } } ∧
       exec (.bisnpTimeout line) s = .next
         ((((((((t.failLines line (t.agents.map (·.1))).failSnooped line (t.copies.map (·.1))).killOwns q).failHeldIn line).failCommands
           line).send (.pfMsix 1)).takeHeldIn p).retry p) ∧
       (∀ o, q o = true ↔ o.st = .snoop line) ∧ ∀ o, p o = true ↔ ∃ l, o = .snoop l) ∧
     (let lost := s.link.heldIn.filter fun h => h.st == .snoop line
      let kept := s.link.heldIn.filter fun h => h.st != .snoop line
      s.failHeldIn line = lost.foldl (fun t h => t.send (.peerReply (peerOf h.acc) false 0x16 []))
        { s with link := { s.link with heldIn := kept } }) ∧
     (let hit (m n : Mbox) : Prop := (m.wait.map (·.1) = some line → n = { m with dead := true }) ∧ (m.wait.map (·.1) ≠ some line → n = m)
      let u := s.failCommands line
      hit s.x.pcmd u.x.pcmd ∧ hit s.x.img u.x.img ∧ hit s.x.att u.x.att ∧ hit s.x.code u.x.code ∧
        (∀ d i, tget (u.die d).migs i = (tget (s.die d).migs i).map fun m => if m.wait = some line then { m with dead := true } else m) ∧
        ∀ d, (u.die d).ringDead = ((s.die d).ringDead || (s.die d).ringWait == some line)) ∧
     (s.now < x.sent + 100000 → (∀ y, y ∈ s.link.snoops → y.line = line → y = x) →
       exec (.bisnpResend line) s = .next s ∧ exec (.bisnpTimeout line) s = .next s))

/-- 02 R53 to R58, 01 R26: a port is trained with the number the switch gives it, unless the part has another, which leaves it
untrained; a port that goes down or fails is told, what it carried is replayed on another and counted there, and when none is left
what was sent to peers fails; where port 0 takes another number the ports with the old one are untrained; requests to a device that
has left the domain fail; an access of a peer is checked for its device and performed,
and answered; a sparse-reduce pair updates its element; a request without an answer for 500,000 ticks is counted at the port that
carried it and fails with cause 0x16 at its address, and so does one that has waited 200,000 at the home of another die; an
access held while its page moves does not fail so.
Where the spec leaves the point open it is the model's choice: log 15, 29, 60. -/
def Obligations.PortsAndPeers : Prop :=
  ∀ s : State,
    let reg (t : State) (q : Nat) : Nat := (t.link.ports.getD q 0).toNat
    let quiet : Prop := s.spanWaits = false ∧ ∀ st, st ∈ s.farOut → st.isRemote = false
    (∀ port dev, 0 < port → port < 36 → dev < 256 → s.link.ports.length = 36 → (s.link.number = none ∨ s.link.number = some dev) →
      ∃ (t : State) (f r : Nat),
        exec (.portTrained port dev) s = .next (t.failPeers fun st far => t.peerGone st far) ∧
        (quiet → exec (.portTrained port dev) s = .next t) ∧
        t = ({ s with
          link := { s.link with peers := (upFrom 0 256).filter fun d => f.testBit d, ports := t.link.ports }
          run := { s.run with free := s.run.free + 2 } } : State).send (.pfMsix 1) ∧
        reg t port % 4 = 2 ∧ reg t port / 4 % 256 = dev ∧ reg t port / 2 ^ 32 = reg s port / 2 ^ 32 ∧
        reg t port / 2 ^ 10 % 2 ^ 22 = min (reg s port / 2 ^ 10 % 2 ^ 22 + r) (2 ^ 22 - 1) ∧
        ∀ q, q ≠ port → reg t q = reg s q) ∧
    (∀ dev, dev < 256 → s.link.ports.length = 36 → ∃ t : State,
      exec (.portTrained 0 dev) s = .next (t.failPeers fun st far => t.peerGone st far) ∧ t.mem = s.mem ∧ t.scr = s.scr ∧
      t.link.number = some dev ∧ reg t 0 % 4 = 2 ∧ reg t 0 / 4 % 256 = dev ∧ ∀ q, 0 < q → q < 36 →
        reg t q / 4 % 256 = reg s q / 4 % 256 ∧
        reg t q % 4 = (if reg s q % 4 = 2 ∧ reg s q / 4 % 256 ≠ dev then 0 else reg s q % 4)) ∧
    (∀ port dev d, port ≠ 0 → port < 36 → dev < 256 → s.link.number = some d → d ≠ dev → exec (.portTrained port dev) s =
      .next (if port ∈ s.trained then (s.portOut port 0).send (.pfMsix 1) else s)) ∧
    (∀ port st, port < 36 → (st = 0 ∨ st = 1 ∨ st = 3) → ∃ r,
      exec (.portStateChange port st) s =
        .next (((({ s with run := { s.run with free := s.run.free + 1 } } : State).addReplays port r).portOut port st).send (.pfMsix 1))) ∧
    (∀ port r, port < 36 → s.link.ports.length = 36 → ∃ u : State, s.addReplays port r = u ∧
      u = { s with link := { s.link with ports := u.link.ports } } ∧ (∀ q, q ≠ port → reg u q = reg s q) ∧
      reg u port % 2 ^ 10 = reg s port % 2 ^ 10 ∧ reg u port / 2 ^ 32 = reg s port / 2 ^ 32 ∧
      reg u port / 2 ^ 10 % 2 ^ 22 = min (reg s port / 2 ^ 10 % 2 ^ 22 + r) (2 ^ 22 - 1)) ∧
    (∀ port st, port < 36 → st < 4 → st ≠ 2 →
      let t := s.setPort port st (reg s port / 4 % 256)
      (s.trained = [] → s.portOut port st = t) ∧
      (s.trained ≠ [] → t.trained = [] → s.portOut port st = t.failPeers fun w _ => w.toPeer) ∧
      (t.trained ≠ [] → s.link.ports.length = 36 → ∃ u : State, s.portOut port st = u ∧ u.mem = s.mem ∧ u.scr = s.scr ∧
        let heir := t.trained.getD (port % t.trained.length) 0
        let carried := s.farOut.countP fun w => match w with | .remote _ k => k == port | _ => false
        u.farOut = s.farOut.map (fun w => match w with | .remote d k => .remote d (if k = port then heir else k) | _ => w) ∧
        ∀ q, q < 36 → reg u q % 2 ^ 10 = reg t q % 2 ^ 10 ∧ reg u q / 2 ^ 32 = reg t q / 2 ^ 32 ∧
          reg u q / 2 ^ 10 % 2 ^ 22 = if q = heir then min (reg t q / 2 ^ 10 % 2 ^ 22 + carried) (2 ^ 22 - 1) else reg t q / 2 ^ 10 % 2 ^ 22)) ∧
    (∀ dev vd acc, s.pkg.ready = true → (peerRange acc).2.1 ≠ 0 →
      let pa := (peerRange acc).1
      let n := (peerRange acc).2.1
      (dev ∉ s.link.peers → exec (.remoteAccessArrival dev vd acc) s =
        exec (.remoteAccessArrival dev vd acc) { s with link := { s.link with peers := dev :: s.link.peers } }) ∧
      (dev ∈ s.link.peers → ∀ c, s.physFail vd pa n = some c →
        exec (.remoteAccessArrival dev vd acc) s = .next (s.send (.peerReply dev false c []))) ∧
      (dev ∈ s.link.peers → s.physFail vd pa n = none → ∀ (w : OpSt) (l : State), s.atHome vd (peerRange acc).2.2 [(.mem pa, n)] = (some w, l) →
        exec (.remoteAccessArrival dev vd acc) s =
          .next { l with link := { l.link with heldIn := l.link.heldIn ++ [⟨w, vd, .remoteAccessArrival dev vd acc⟩] } }) ∧
      (dev ∈ s.link.peers → s.physFail vd pa n = none → ∀ l : State, s.atHome vd (peerRange acc).2.2 [(.mem pa, n)] = (none, l) →
        let answers (t : State) (bs : List Byte) : Prop :=
          exec (.remoteAccessArrival dev vd acc) s = .next (t.send (.peerReply dev true 0 bs))
        l.mem = s.mem ∧
        (∀ a k, acc = .load a k → answers l (s.getBytes (.mem a) k)) ∧
        (∀ a bs r, acc = .store a bs r → answers (l.write (.mem a) bs) []) ∧
        (∀ a k lo w code r, acc = .bits a k lo w code r →
          answers (l.write (.mem a) (putBits (s.getBytes (.mem a) k) lo w code)) []) ∧
        (∀ f a v c r, acc = .rmw f a v c r → v < 2 ^ f.width → c < 2 ^ f.width →
          answers (match atomicNew f (s.getNat (.mem a) (f.width / 8)) v c with
            | some x => l.write (.mem a) (bytesOf x (f.width / 8))
            | none => l) (bytesOf (s.getNat (.mem a) (f.width / 8)) (f.width / 8))) ∧
        (∀ a v r, acc = .ctadd a v r →
          answers (l.write (.mem a) (bytesOf (min (s.getNat (.mem a) 8 + v) (2 ^ 64 - 1)) 8)) []))) ∧
    (∀ dev vd pa n op idx val, s.pkg.ready = true → dev ∈ s.link.peers → n ≤ idx →
      exec (.sparseReducePairArrival ⟨dev, vd⟩ pa n op idx val) s = .next (s.send (.peerReply dev true 0 []))) ∧
    (∀ dev vd pa n op idx val l, s.pkg.ready = true → dev ∈ s.link.peers → idx < n → s.physFail vd pa 4 = none →
      s.atHome vd true [(.mem pa, 4)] = (none, l) →
      let old := s.getNat (.mem pa) 4
      let v := val.toNat
      let new := match op with
        | .iadd => (old + v) % 2 ^ 32
        | .imax => if (BitVec.ofNat 32 old).toInt < (BitVec.ofNat 32 v).toInt then v else old
        | .fadd => f32F.encVal .rne false (vadd .rne (f32F.decFloat old) (f32F.decFloat v))
        | .fmax => fPick f32F true old v
      exec (.sparseReducePairArrival ⟨dev, vd⟩ pa n op idx val) s =
        .next ((l.write (.mem pa) (bytesOf new 4)).send (.peerReply dev true 0 []))) ∧
    ((∀ l, s.waitsAt (.snoop l) = s.homeDie l) ∧ (∀ k b, k < 12 → s.waitsAt (.regul k b) = some k) ∧ s.waitsAt .held = none) ∧
    (∀ i op A o, tget s.copies i = none → tget s.agents i = some A → op ≠ 0 → A.op op = some o → A.live o = true →
      (∀ d p, o.st = .remote d p → o.since + 500000 ≤ s.now → exec (.remoteRequestTimeout i op) s = .next
        (((s.countLostOn p 1).failOp i o 0x16 o.va).afterReturn i).retrySpans) ∧
      (∀ b, o.st = .regul 12 b → o.since + 500000 ≤ s.now → exec (.remoteRequestTimeout i op) s = .next
        ((s.failOp i o 0x16 o.va).afterReturn i).retrySpans) ∧
      (∀ d, s.waitsAt o.st = some d → d ≠ dieOfCore A.pos.core → o.since + 200000 ≤ s.now →
        exec (.crossDieTimeout i op) s = .next ((s.failOp i o 0x16 o.va).afterReturn i)) ∧
      (s.waitsAt o.st = none ∨ s.waitsAt o.st = some (dieOfCore A.pos.core) → exec (.crossDieTimeout i op) s = .next s)) ∧
    (∀ n u c w, tget s.copies n = some c → c.asking = some u → c.saved = false → c.wait = some w →
      (∀ d p, w = .remote d p → c.askAt + 500000 ≤ s.now → exec (.remoteRequestTimeout n u) s =
        .next ((s.countLostOn p 1).unitTimeout n u c).retrySpans) ∧
      (∀ d, s.waitsAt w = some d → d ≠ dieOfCore c.core → c.askAt + 200000 ≤ s.now →
        exec (.crossDieTimeout n u) s = .next (s.unitTimeout n u c)) ∧
      (s.waitsAt w = none ∨ s.waitsAt w = some (dieOfCore c.core) → exec (.crossDieTimeout n u) s = .next s))

/-! Partitions, streams and lending (03). -/

/-- 03 R66, R68, R77, 04 R96: what a partition command is checked for, in order: its own fields end it with status 3, the state of the
device with 4, the place of the descriptor with 3; then the descriptor with its key list: 3, a cob not to be had 5, a granule 6, a
way 7, a sum of guarantees 8, a ceiling 9, the place of the FIFO area 10, no guaranteed cob 11. A GO while a command runs sets
BUSYREJ. A command so ended changes nothing else.
03 R67 to R71, R77, 04 R102: CREATE gives the device what its descriptor names, granules zeroed and ways empty, and enters ACTIVE, where a shedding step in force acts on it; SETREG changes the regulators
alone; RESIZE and DESTROY start their work, which completes when no cob is being revoked and no granule zeroed; DESCHEDULE holds
the device at once and completes when everything is saved; SCHEDULE makes it ACTIVE again; a zeroed granule reads zero and is free.
Where the spec leaves the point open it is the model's choice: log 44, 45, 46, 58, 66. -/
def Obligations.Partitions : Prop :=
  ((∀ (s : State) (op : Nat) (ins : Instr),
     (op, ins) ∈ [(1, Instr.create), (2, .resize), (3, .destroy), (4, .deschedule), (5, .schedule), (6, .setreg)] →
     s.x.pcmd.w0 % 2 ^ 8 = op → s.x.pcmd.wait = none →
     let vd := s.x.pcmd.w0 / 2 ^ 8 % 2 ^ 8
     let st := (s.vd vd).st
     let m (c : Nat) : Mbox := { s.x.pcmd with code := c, start := s.now, time := 0, dead := false }
     let ended (c : Nat) : Prop :=
       exec ins s = .next (({ s with x := { s.x with pcmdRun := none, pcmd := m c } } : State).send (.pfMsix 2))
     let fields : Prop := s.x.pcmd.w0 / 2 ^ 16 = 0 ∧ vd < 64
     let accepts : Prop :=
       if op = 1 then st = .absent else if op = 4 then st = .active
       else if op = 5 then (st = .held ∨ st = .saved) ∧ (s.vd vd).shed < 2
       else st = .active ∨ st = .held ∨ st = .saved
     (s.x.pcmd.code = 1 → exec ins s = .next { s with x := { s.x with pcmd := { s.x.pcmd with busyrej := true } } }) ∧
     (s.x.pcmd.code ≠ 1 → ¬ fields → ended 3) ∧
     (s.x.pcmd.code ≠ 1 → fields → ¬ accepts → ended 4) ∧
     (s.x.pcmd.code ≠ 1 → fields → accepts → (op = 1 ∨ op = 2 ∨ op = 6) →
       (s.x.pcmd.w1 % 512 ≠ 0 ∨ s.nearBacked s.x.pcmd.w1 512 = false ∨ s.physGone s.x.pcmd.w1 512 = true) → ended 3) ∧
     (s.x.pcmd.w0 % 2 ^ 8 ≠ 1 → exec .create s = .next s)) ∧
   ∀ (s : State) (vd x : Nat),
     let d := descOf x
     let f (o lo w : Nat) : Nat := x / 2 ^ (8 * o + lo) % 2 ^ w
     let first (l : List (Prop × Nat)) (r : Option Nat) : Prop :=
       (∀ (i : Nat) p c, l[i]? = some (p, c) → p → (∀ (j : Nat) q e, j < i → l[j]? = some (q, e) → ¬ q) → r = some c) ∧
       ((∀ (i : Nat) p c, l[i]? = some (p, c) → ¬ p) → r = none)
     let zero : List (Nat × Nat × Nat) := [(0x24, 0, 96), (0x54, 0, 96), (0x70, 5, 59), (0x78, 0, 64), (0xBC, 0, 32), (0xC0, 52, 12),
       (0xC8, 52, 12), (0xF0, 0, 128), (0x1C0, 0, 512)]
     let reserved : Prop := (∃ e, e ∈ zero ∧ f e.1 e.2.1 e.2.2 ≠ 0) ∨ (∃ i, i < 8 ∧ f (0x80 + 4 * i) 20 12 ≠ 0) ∨
       (∃ i, 8 ≤ i ∧ i < 12 ∧ f (0x80 + 4 * i) 8 24 ≠ 0) ∨ ∃ i, i < 16 ∧ (f (0x180 + 4 * i) 14 2 ≠ 0 ∨ f (0x180 + 4 * i) 30 2 ≠ 0)
     let y := s.getNat (.mem d.keysAt) 2048
     let keys : Prop := y / 2 ^ 4 % 2 ^ 60 ≠ 0 ∨ y / 2 ^ 64 % 2 ^ 960 ≠ 0 ∨ ∃ i, i < 15 ∧
       let e := y / 2 ^ (8 * (0x80 + 0x80 * i)) % 2 ^ 1024
       if i < y % 2 ^ 4 then e / 2 ^ (8 * 0x44 + 20) % 2 ^ 12 ≠ 0 ∨ e / 2 ^ (8 * 0x48) ≠ 0 ∨
         bytesOf (e % 2 ^ 32) 4 ≠ (bytesOf Config.xmssOid.toNat 4).reverse
       else e ≠ (0 : Nat)
     let malformed : Prop := reserved ∨ (∃ c, d.gset.testBit c = true ∧ d.mset.testBit c = true) ∨ d.nctx = 0 ∨ 16 < d.nctx ∨
       d.sfifo % 16384 ≠ 0 ∨ (∃ n, n < 64 ∧ d.nctx ≤ d.sctx / 2 ^ (4 * n) % 2 ^ 4) ∨ (∃ e, e ∈ d.far ∧ e.2 ≠ 0 ∧ 9216 < e.1 + e.2) ∨
       d.keysAt % 2048 ≠ 0 ∨ s.nearBacked d.keysAt 2048 = false ∨ s.physGone d.keysAt 2048 = true ∨ keys
     let other (p : Vd → Prop) : Prop := ∃ n v, (n, v) ∈ s.vds ∧ n ≠ vd ∧ v.st ≠ .absent ∧ p v
     let has (e : Desc) (c : Nat) : Prop := e.gset.testBit c = true ∨ e.mset.testBit c = true
     let granule (g : Nat) : Prop := (g < 1024 ∧ d.near.testBit g = true) ∨ ∃ e k, e ∈ d.far ∧ k < e.2 ∧ g = 1024 + e.1 + k
     let sum (g : Desc → Nat) : Nat := ((s.vds.filter fun v => v.1 != vd && v.2.st != .absent).map fun v => g v.2.desc).sum + g d
     let ceil (g c t : Nat) : Prop := c ≠ 0 ∧ (c < 4 ∨ c < g ∨ t < c)
     (d.gset = f 0 0 288 ∧ d.mset = f 0x30 0 288 ∧ d.lend = f 0x60 0 64 ∧ d.streams = f 0x68 0 64 ∧ d.nctx = f 0x70 0 5 ∧
       d.ways = (List.range 12).map (fun i => f (0x80 + 4 * i) 0 20) ∧ d.nearg = f 0xB0 0 16 ∧ d.nearc = f 0xB2 0 16 ∧
       d.farg = f 0xB4 0 16 ∧ d.farc = f 0xB6 0 16 ∧ d.fabg = f 0xB8 0 16 ∧ d.fabc = f 0xBA 0 16 ∧ d.sfifo = f 0xC0 0 52 ∧
       d.keysAt = f 0xC8 0 52 ∧ d.sctx = f 0xD0 0 256 ∧ d.near = f 0x100 0 1024 ∧
       d.far = (List.range 16).map fun i => (f (0x180 + 4 * i) 0 14, f (0x180 + 4 * i) 16 14)) ∧
     first [(malformed, 3),
       (∃ c, c < 288 ∧ has d c ∧ (s.pkg.harvest.testBit c = true ∨ s.pkg.exDies.testBit (dieOfCob c) = true ∨ other fun v => has v.desc c), 5),
       (∃ g, granule g ∧ s.ownerOf g ≠ 0xFF ∧ s.ownerOf g ≠ vd, 6),
       (other fun v => ∃ i w, i < 12 ∧ (v.desc.ways.getD i 0).testBit w = true ∧ (d.ways.getD i 0).testBit w = true, 7),
       (9 * 51200 < 10 * sum Desc.nearg ∨ 9 * 3072 < 10 * sum Desc.farg ∨ 9 * 4032 < 10 * sum Desc.fabg, 8),
       (ceil d.nearg d.nearc 51200 ∨ ceil d.farg d.farc 3072 ∨ ceil d.fabg d.fabc 4032, 9),
       (¬ (d.sfifo < 2 ^ 40 ∧ d.near.testBit (d.sfifo / 2 ^ 30) = true), 10), (d.gset = 0, 11)] (s.descStatus vd d) ∧
     first [(9 * 51200 < 10 * sum Desc.nearg ∨ 9 * 3072 < 10 * sum Desc.farg ∨ 9 * 4032 < 10 * sum Desc.fabg, 8),
       (ceil d.nearg d.nearc 51200 ∨ ceil d.farg d.farc 3072 ∨ ceil d.fabg d.fabc 4032, 9)] (s.ratesStatus vd d)) ∧
  (∀ (s : State) (vd : Nat), vd < 64 →
     let go (op : Nat) : Prop := s.x.pcmd.w0 = op + 2 ^ 8 * vd ∧ s.x.pcmd.wait = none ∧ s.x.pcmd.dead = false ∧ s.x.pcmd.code ≠ 1
     let v := s.vd vd
     let t : State := { s with x := { s.x with pcmd := { s.x.pcmd with start := s.now, code := 1 } } }
     let x := s.getNat (.mem s.x.pcmd.w1) 512
     let d := descOf x
     let noSnoop (l : List (Nat × Nat)) (w : Bool) : Prop := ∀ e, e ∈ l → s.snoopNeeded [(.mem e.1, e.2)] w = none
     let placed : Prop := s.x.pcmd.w1 % 512 = 0 ∧ s.nearBacked s.x.pcmd.w1 512 = true ∧ s.physGone s.x.pcmd.w1 512 = false
     let via (a b : State) : Prop := b = { a with sideCache := b.sideCache, run := { a.run with free := b.run.free } }
     let desc : Prop := placed ∧ noSnoop [(s.x.pcmd.w1, 512), (x / 2 ^ (8 * 0xC8) % 2 ^ 52, 2048)] false
     (go 1 → v.st = .absent → desc → s.descStatus vd d = none → ∃ u : State,
       exec .create s = .next ((u.shedDevice vd).pcmdEnd 2) ∧ ((u.shedDevice vd).pcmdEnd 2).x.pcmd.code = 2 ∧
       (s.actionOf vd = 0 → u.shedDevice vd = u) ∧ (u.vd vd).st = .active ∧ (u.vd vd).shed = 0 ∧ (u.vd vd).desc = d ∧
       (u.vd vd).pending = 0 ∧ (∀ g, g ∈ d.granules → u.ownerOf g = vd) ∧
       (∀ g, g ∉ d.granules → u.ownerOf g = s.ownerOf g) ∧
       (∀ g a, g ∈ d.granules → s.ownerOf g ≠ vd → granuleBase g ≤ a → a < granuleBase g + 2 ^ 30 → u.getByte (.mem a) = 0) ∧
       ((∀ k, (s.ctx vd k).slots = []) → ∀ a,
         (∀ g, g ∈ d.granules → s.ownerOf g ≠ vd → a < granuleBase g ∨ granuleBase g + 2 ^ 30 ≤ a) →
         u.getByte (.mem a) = s.getByte (.mem a)) ∧
       (∀ c, c ∈ u.sideCache → (d.ways.getD c.die 0).testBit c.way = false) ∧ (∀ n, n ≠ vd → u.vd n = s.vd n) ∧
       (∀ k, k < d.nctx → (u.ctx vd k).scopew = false ∧ (u.ctx vd k).scopes = [] ∧
         (∀ n, n < 12 → u.slot vd k n = { st := 1, img := n }) ∧ ∀ n, 12 ≤ n → u.slot vd k n = {}) ∧
       (∀ n y, tget v.streams n = some y → tget (u.vd vd).streams n = some { last := y.last })) ∧
     (go 1 → v.st = .absent → desc → ∀ c, s.descStatus vd d = some c →
       let m : Mbox := { s.x.pcmd with code := c, start := s.now, time := 0 }
       ∃ r : State, via s r ∧ exec .create s = .next (({ r with x := { s.x with pcmdRun := none, pcmd := m } } : State).send (.pfMsix 2))) ∧
     (go 6 → v.st = .active ∨ v.st = .held ∨ v.st = .saved → placed → noSnoop [(s.x.pcmd.w1, 512)] false →
       s.ratesStatus vd d = none → ∃ u : State, exec .setreg s = .next (u.send (.pfMsix 2)) ∧ u.x.pcmd.code = 2 ∧ u.mem = s.mem ∧
         (∃ e : Desc, u.vd vd = { v with desc := e } ∧
           e = { v.desc with nearg := e.nearg, nearc := e.nearc, farg := e.farg, farc := e.farc, fabg := e.fabg, fabc := e.fabc } ∧
           (e.nearg, e.nearc, e.farg, e.farc, e.fabg, e.fabc) = (d.nearg, d.nearc, d.farg, d.farc, d.fabg, d.fabc)) ∧
         ∀ n, n ≠ vd → u.vd n = s.vd n) ∧
     (go 2 → v.st = .active ∨ v.st = .held ∨ v.st = .saved → desc → noSnoop [(v.desc.sfifo, 16384)] false → s.descStatus vd d = none →
       ∃ r : State, via t r ∧ exec .resize s = .next ((r.resizeVd vd d).pcmdBusy 2 vd)) ∧
     (go 3 → v.st = .active ∨ v.st = .held ∨ v.st = .saved → exec .destroy s = .next ((t.destroyVd vd).pcmdBusy 3 vd)) ∧
     (go 4 → v.st = .active →
       let h := t.hold vd
       let u := h.setVd vd { h.vd vd with cmd := true }
       (h.vd vd).st = .held ∧ exec .deschedule s = .next (if u.unsaved vd then u.pcmdBusy 4 vd else u.allSaved vd)) ∧
     (go 5 → v.st = .held ∨ v.st = .saved → v.shed < 2 →
       exec .schedule s = .next (((t.setVd vd { v with cmd := false }).activate vd).pcmdEnd 2)) ∧
     (s.x.pcmdRun = some (2, vd) → s.zeroing = false → s.revoking vd = false →
       exec (.resizeComplete vd) s = .next ((s.pcmdEnd 2).setCause vd 7)) ∧
     (s.x.pcmdRun = some (3, vd) → s.zeroing = false → s.revoking vd = false → ∃ u : State,
       exec (.destroyComplete vd) s = .next (u.send (.pfMsix 2)) ∧ u.x.pcmd.code = 2 ∧ (u.vd vd).st = .absent ∧
       (u.vd vd).desc = {} ∧ u.mem = s.mem ∧ ∀ n, n ≠ vd → u.vd n = s.vd n) ∧
     (s.x.pcmdRun = some (4, vd) → s.unsaved vd = false → ∃ u : State, exec (.descheduleSaved vd) s = .next (u.send (.pfMsix 2)) ∧
       u.x.pcmd.code = 2 ∧ u.vd vd = { v with st := .saved } ∧ u.mem = s.mem) ∧
     (s.x.pcmdRun ≠ some (2, vd) → exec (.resizeComplete vd) s = .next s) ∧
     (∀ g, s.ownerOf g = 0xFD → ∃ u : State, exec (.granuleZeroed g) s = .next u ∧ u.ownerOf g = 0xFF ∧
       (∀ a, granuleBase g ≤ a → a < granuleBase g + 2 ^ 30 → u.getByte (.mem a) = 0) ∧
       (∀ a, a < granuleBase g ∨ granuleBase g + 2 ^ 30 ≤ a → u.getByte (.mem a) = s.getByte (.mem a)) ∧
       ∀ k, k ≠ g → u.ownerOf k = s.ownerOf k))

/-- 03 R79 to R86: a kick is decided on arrival: rejected for a disabled stream, a malformed address or a full queue, with INTCAUSE bit
0, otherwise accepted behind the others of its stream, into memory too while the device is descheduled; other writes to the page;
an entry that stands in memory is reloaded before it is fetched; and the head of an enabled stream is fetched into its empty slot, or dropped with INTCAUSE bit 1 where it cannot be read or has
another magic.
03 R73, R74: an idle margin cob is lent to the device that qualifies with the highest priority, ties going to the lowest number,
and the owner is told by INTCAUSE bit 4; one its owner wants is taken back, its borrower told, what it had there saved; then it is
scrubbed, all its scratchpad reading zero, and its owner's again.
Where the spec leaves the point open it is the model's choice: log 18, 25, 49, 61. -/
def Obligations.StreamsAndLending : Prop :=
  (∀ (s s1 : State) (vd n : Nat), vd < 64 → n < 64 → (s.vd vd).st ≠ .absent → (s.vd vd).st ≠ .destroying →
     let v := s.vd vd
     let x := v.stream n
     let hostUp : Prop := (s.link.st = 2 ∨ s.link.st = 3) ∧ s.pkg.ready = true ∧ s.pkg.stopped = false
     let legal (a : Nat) : Prop := a < 2 ^ 57 ∧ a % 64 = 0
     let rejected (a why : Nat) : Prop := exec (.kick vd (8 * n) 8 a) s =
       .next ((s.setStream vd n { x with last := why, rejected := min (x.rejected + 1) 0xFFFF }).setCause vd 0)
     (hostUp → ∀ a, a < 2 ^ 64 →
       (v.desc.streams.testBit n = false → rejected a 5) ∧
       (v.desc.streams.testBit n = true → ¬ legal a → rejected a 4) ∧
       (v.desc.streams.testBit n = true → legal a → 32 ≤ x.fifo.length → rejected a 3) ∧
       (v.desc.streams.testBit n = true → legal a → x.fifo.length < 32 → ∃ u : State,
         exec (.kick vd (8 * n) 8 a) s = .next u ∧
         ((u.vd vd).stream n).fifo = x.fifo ++ [BitVec.ofNat 64 a] ∧ ((u.vd vd).stream n).accepted = (x.accepted + 1) % 2 ^ 16 ∧
         ((u.vd vd).stream n).last = (if v.st = .active then 1 else 2) ∧
         (u.vd vd).pending.testBit n = (v.pending.testBit n || decide (v.st ≠ .active)) ∧
         (v.st = .active → u.mem = s.mem) ∧
         (v.st ≠ .active → x.toPut = [] → s.snoopNeeded [(.mem (v.desc.sfifo + 256 * n + 8 * (x.accepted % 32)), 8)] true = none →
           s.physGone (v.desc.sfifo + 256 * n + 8 * (x.accepted % 32)) 8 = false → (∀ o, o ∈ x.own → o.dead = none) →
           ((u.vd vd).stream n).toPut = [] ∧ u.getNat (.mem (v.desc.sfifo + 256 * n + 8 * (x.accepted % 32))) 8 = a))) ∧
     (hostUp → ∀ off size a, off < 4096 → (size ≠ 8 ∨ off % 8 ≠ 0) →
       exec (.kick vd off size a) s = .next (s.setVd vd { v with badwr := min (v.badwr + 1) 0xFFFF })) ∧
     (hostUp → ∀ a, exec (.kick vd 0x410 8 a) s = .next (s.setVd vd { v with intcause := v.intcause &&& (255 - a % 256) }) ∧
       exec (.kick vd 0x418 8 a) s = .next (s.setVd vd { v with inten := a % 256 })) ∧
     (x.toPut = [] → 0 < x.reload → (∀ k, k < x.reload → s.snoopNeeded [(.mem (s.fifoAt vd n k), 8)] false = none) →
       (∀ o, o ∈ x.own → o.dead = none) →
       ((s.moveFifo vd n).vd vd).stream n = { x with reload := 0, lost := [], own := x.own.filter (fun o => decide (o.va < 2 ^ 60)), fifo :=
         ((upFrom 0 x.reload).map fun k => if k ∈ x.lost ∨ s.physGone (s.fifoAt vd n k) 8 = true then BitVec.allOnes 64
           else BitVec.ofNat 64 (s.getNat (.mem (s.fifoAt vd n k)) 8)) ++ x.fifo.drop x.reload }) ∧
     (x.toPut = [] → x.reload = 0 → s.schedules vd = true → v.desc.streams.testBit n = true →
       ∀ va rest, x.fifo = va :: rest → x.slot = none →
       let o : Origin := { vd, fctx := v.desc.sctx / 2 ^ (4 * n) % 16, stream := some n }
       let dropped (t : State) : Prop := exec (.streamFetch vd n) s = .next ((t.setStream vd n { (t.vd vd).stream n with
         own := [], fifo := ((t.vd vd).stream n).fifo.drop 1, badrec := min (((t.vd vd).stream n).badrec + 1) 0xFFFF }).setCause vd 1)
       (∀ l, s.takeRecord o va.toNat x.own = (.wait, l, s1) →
         exec (.streamFetch vd n) s = .next (s1.setStream vd n { (s1.vd vd).stream n with own := l })) ∧
       (x.own = [] → ∀ c r ad, s.readVa vd o.fctx va.toNat 256 = (.fail c r ad, s1) → dropped s1) ∧
       (x.own = [] → ∀ bs, s.readVa vd o.fctx va.toNat 256 = (.ok bs, s1) →
         (ofBytes bs % 2 ^ 16 ≠ 0x6B52 ∨ ofBytes bs / 2 ^ 16 % 2 ^ 8 ≠ 1 → dropped s1) ∧
         (ofBytes bs % 2 ^ 16 = 0x6B52 → ofBytes bs / 2 ^ 16 % 2 ^ 8 = 1 → ∀ st2 s2,
           s1.writeVa vd o.fctx (va.toNat + 0xC8) (bytesOf (s1.parentVa o) 8) = (st2, s2) → (∀ w, st2 ≠ .wait w) →
           let r := s2.admitLaunch o (recOf va.toNat (ofBytes bs))
           exec (.streamFetch vd n) s =
             .next (r.2.setStream vd n { (r.2.vd vd).stream n with fifo := rest, slot := some r.1, own := [] })))) ∧
     (x.toPut = [] → x.reload = 0 → x.slot ≠ none → exec (.streamFetch vd n) s = .next s)) ∧
  (∀ (s : State) (cob vd n : Nat), cob < 288 → s.marginOf cob = some n →
     (∀ p, s.qualifies cob vd = some p → s.idle cob = true → s.pkg.stopped = false →
       (∀ v q, v ∈ s.vds.map (·.1) → s.qualifies cob v = some q → q < p ∨ (q = p ∧ vd ≤ v)) →
       exec (.marginCobLend cob vd) s = .next ((s.setCob cob { s.cob cob with lend := .lent vd }).setCause n 4)) ∧
     (s.qualifies cob vd ≠ none → vd ≠ n ∧ (s.vd n).desc.lend.testBit vd = true ∧ (s.vd vd).st = .active) ∧
     (s.qualifies cob vd = none ∨ s.idle cob = false → exec (.marginCobLend cob vd) s = .next s) ∧
     (s.idle cob = true → (s.cob cob).lend = .own ∧ (s.cob cob).idleSince + 5000 ≤ s.now ∧
       ∀ k, k < 16 → s.workOn n k cob = false) ∧
     ((s.cob cob).lend = .lent vd →
       (s.wanted cob vd n = true → exec (.revocation cob) s = .next
         (let t := s.clearCob vd cob
          (t.setCob cob { t.cob cob with lend := .revoking vd t.now }).setCause vd 4)) ∧
       (s.wanted cob vd n = false → exec (.revocation cob) s = .next s)) ∧
     (∀ t0, (s.cob cob).lend = .revoking vd t0 → ∃ u : State, exec (.revocationReturn cob) s = .next (u.setCause n 4) ∧
       (u.cob cob).lend = .own ∧ (u.cob cob).idleSince = s.now ∧ (u.cob cob).planes = List.replicate 16 {} ∧
       (∀ core off, 4 * cob ≤ core → core < 4 * cob + 4 → off < 2 ^ 20 → u.getByte (.scr core off) = 0) ∧
       (∀ core off, (core < 4 * cob ∨ 4 * cob + 4 ≤ core) → off < 2 ^ 20 →
         u.getByte (.scr core off) = s.getByte (.scr core off)) ∧ u.mem = s.mem))

/-! Format images, code objects and page moves (04, 05, 01 R18 to R21). -/

/-- 04 R91 to R94, R97 to R100, R106 to R108: REGISTER reads a container, checks its header (3), its descriptor (4), its build hash
(5) and its signature (6), and makes its entry VALID with the image's format, class and
hashes, its container in the image store; RETIRE frees an entry without bindings, its store zeroed, and leaves another RETIRING; each ends with the first status it breaks, changing
nothing. An attestation request writes its report and uses up a leaf; the next key takes over when few leaves are left.
05 R111 to R120: LOAD reads a container in the device's granules, checks its header, its sections, its relocation and export records
(3), whether it is admitted (4), resolves its imports among the loaded objects (6),
writes it with its relocations applied and enters the object; UNLOAD removes one that no grid and no admitted launch names. Each
ends with the status it breaks first, changing nothing.
Where the spec leaves the point open it is the model's choice: log 26, 27, 46, 52, 62. -/
def Obligations.ImagesAndObjects : Prop :=
  (∀ s : State, s.x.img.wait = none → s.x.att.wait = none → s.x.img.dead = false → s.x.att.dead = false →
     let op := s.x.img.w0 % 2 ^ 8
     let n := s.x.img.w0 / 2 ^ 16 % 2 ^ 10
     let pa := s.x.img.w1
     let c := s.contAt pa
     let at_ (o k : Nat) : Nat := s.getNat (.mem (pa + o)) k
     let dlen := at_ 4 4
     let blen := at_ 8 4
     let lens : Prop := (dlen = 64 ∨ dlen = 1088) ∧ blen % 64 = 0 ∧ 64 ≤ blen ∧ blen ≤ 131072
     let len := if lens then 128 + dlen + blen + 2820 else 128
     let x := at_ 0x80 dlen
     let f (b w : Nat) : Nat := x / 2 ^ b % 2 ^ w
     let bias := (BitVec.ofNat 16 (f 48 16)).toInt
     let plain : Prop := f 32 5 = 0 ∧ f 28 2 = 0 ∧ f 30 2 = 0 ∧ f 27 1 = 0 ∧ f 64 1 = 0
     let valid : Prop := f 0 16 = 1 ∧ f 22 2 = 0 ∧ f 37 3 = 0 ∧ f 45 3 = 0 ∧ f 65 7 = 0 ∧ f 82 46 = 0 ∧ 2 ≤ f 16 6 ∧ f 16 6 ≤ 32 ∧
       (f 24 2 = 0 → 1 ≤ f 32 5 ∧ f 32 5 ≤ 8 ∧ f 40 5 ≤ 23 ∧ f 16 6 = f 26 1 + f 32 5 + f 40 5 ∧ -255 ≤ bias ∧ bias ≤ 255 ∧ f 28 2 ≤ 1 ∧
         f 30 2 ≤ 2 ∧ (f 28 2 = 1 → 2 ≤ f 32 5) ∧ (f 64 1 = 1 → f 26 1 = 1 ∧ f 16 6 ≤ 8) ∧ f 72 8 = 0 ∧ f 80 2 = 0 ∧ dlen = 64) ∧
       (f 24 2 = 1 → plain ∧ f 40 5 = 0 ∧ bias = 0 ∧ f 72 8 = 0 ∧ f 80 2 = 0 ∧ dlen = 64) ∧
       (f 24 2 = 2 → plain ∧ f 26 1 = 1 ∧ f 72 8 = 32 ∧ (f 80 2 = 1 ∨ f 80 2 = 2) ∧ 1 ≤ f 40 5 ∧ f 16 6 = 1 + (f 80 2 - 1) + f 40 5 ∧
         bias = 127 ∧ dlen = 64) ∧
       (f 24 2 = 3 → plain ∧ f 16 6 ≤ 8 ∧ f 26 1 = 0 ∧ f 40 5 = 0 ∧ bias = 0 ∧ f 72 8 = 0 ∧ f 80 2 = 0 ∧ dlen = 1088 ∧
         ∀ e, 2 ^ f 16 6 ≤ e → e < 256 → f (8 * (0x40 + 4 * e)) 32 = 0)
     let first (l : List (Prop × Nat)) (r : Option Nat) : Prop :=
       (∀ (i : Nat) p d, l[i]? = some (p, d) → p → (∀ (j : Nat) q e, j < i → l[j]? = some (q, e) → ¬ q) → r = some d) ∧
       ((∀ (i : Nat) p d, l[i]? = some (p, d) → ¬ p) → r = none)
     let ended (t : State) (code : Nat) : State :=
       let m : Mbox := { s.x.img with code, start := s.now, time := 0 }
       ({ t with x := { t.x with img := m } } : State).send (.pfMsix 2)
     let via (a : State) : Prop := a = { s with sideCache := a.sideCache, run := { s.run with free := a.run.free } }
     let reserved : Prop := s.x.img.w0 / 2 ^ 8 % 2 ^ 8 ≠ 0 ∨ s.x.img.w0 / 2 ^ 26 % 2 ^ 38 ≠ 0
     let go : Prop := s.x.img.code ≠ 1 ∧ ¬ reserved ∧ 12 ≤ n
     let ins := if op = 1 then Instr.register else .retire
     first [(at_ 0 2 ≠ 0x4946 ∨ at_ 2 1 ≠ 1 ∨ at_ 3 1 ≠ 0 ∨ at_ 0xC 4 ≠ 0 ∨ at_ 0x54 44 ≠ 0 ∨ ¬ lens ∨
         s.getBytes (.mem (pa + 0x10)) 4 ≠ (bytesOf Config.xmssOid.toNat 4).reverse, 3),
       (¬ valid, 4), (at_ 0x90 32 ≠ ofBytes (shake256 (s.getBytes (.mem (pa + 0x80 + dlen)) blen)), 5),
       (xmssVerify (s.getBytes (.mem (pa + 0x10)) 68) (s.getBytes (.mem pa) (0x80 + dlen))
         (s.getBytes (.mem (pa + 0x80 + dlen + blen)) 2820) = false, 6)] (contStatus c) ∧
     ((op = 1 ∨ op = 2) → s.x.img.code = 1 → exec ins s = .next s) ∧
     ((op = 1 ∨ op = 2) → s.x.img.code ≠ 1 →
       (reserved → exec ins s = .next (ended s 3)) ∧ (¬ reserved → n < 12 → exec ins s = .next (ended s 9))) ∧
     (op = 1 → go →
       ((s.image n).st ≠ 0 → exec .register s = .next (ended s 7)) ∧
       ((s.image n).st = 0 → pa % 64 ≠ 0 ∨ s.nearBacked pa 0x80 = false → exec .register s = .next (ended s 3)) ∧
       ((s.image n).st = 0 → pa % 64 = 0 → s.nearBacked pa 0x80 = true → s.snoopNeeded [(.mem pa, 135108)] false = none →
         ∃ r : State, via r ∧
         (s.nearBacked pa len = false → exec .register s = .next (ended r 3)) ∧
         (s.nearBacked pa len = true → s.unreadable pa len = true → exec .register s = .next (ended r 10)) ∧
         (s.nearBacked pa len = true → s.unreadable pa len = false →
           (∀ code, contStatus c = some code → exec .register s = .next (ended r code)) ∧
           (contStatus c = none → s.unreadable (s.imageStore n) 163840 = true → exec .register s = .next (ended r 10)) ∧
           (contStatus c = none → s.unreadable (s.imageStore n) 163840 = false → ∃ (i : Image) (q : State), via q ∧
             exec .register s = .next (ended ((q.putBytes (.mem (s.imageStore n)) (c.head ++ c.bitstream)).setImage n i) 2) ∧
             c.head = s.getBytes (.mem pa) (0x80 + dlen) ∧ c.bitstream = s.getBytes (.mem (pa + 0x80 + dlen)) blen ∧
             i.st = 1 ∧ i.binds = 0 ∧ i.fmt = fmtOf x ∧ i.cls = i.fmt.clsCode ∧ i.ihash = ofBytes (shake256 c.head) ∧
             i.keyid = ofBytes (shake256 (s.getBytes (.mem (pa + 0x10)) 68)))))) ∧
     (op = 2 → go →
       ((s.image n).st = 0 → exec .retire s = .next (ended s 8)) ∧
       ((s.image n).st ≠ 0 → (s.image n).binds = 0 → ∃ u : State, exec .retire s = .next (u.send (.pfMsix 2)) ∧
         u.x.img.code = 2 ∧ u.image n = {} ∧ (∀ k, k < 1024 → k ≠ n → u.image k = s.image k) ∧
         (∀ a, s.imageStore n ≤ a → a < s.imageStore n + 163840 → u.getByte (.mem a) = 0) ∧
         ∀ a, a < s.imageStore n ∨ s.imageStore n + 163840 ≤ a → u.getByte (.mem a) = s.getByte (.mem a)) ∧
       ((s.image n).st ≠ 0 → (s.image n).binds ≠ 0 →
         exec .retire s = .next (ended (s.setImage n { s.image n with st := 2 }) 2))) ∧
     (let m := s.x.att
      let vd := m.w0 % 64
      let att (t : State) (code : Nat) : State :=
        let k : Mbox := { m with code, start := s.now }
        ({ t with x := { t.x with att := k } } : State).send (.pfMsix 2)
      let ok : Prop := m.w0 < 64 ∧ s.nearBacked m.w1 32 = true ∧ m.w2 % 16384 = 0 ∧ s.nearBacked m.w2 16384 = true
      let exists_ : Prop := (s.vd vd).st ≠ .absent ∧ (s.vd vd).st ≠ .destroying
      m.code ≠ 1 →
       (¬ ok → exec .attestationRequest s = .next (att s 3)) ∧
       (ok → ¬ exists_ → exec .attestationRequest s = .next (att s 4)) ∧
       (ok → exists_ → 2 ^ 20 ≤ s.x.attLeaf → exec .attestationRequest s = .next (att s 5)) ∧
       (ok → exists_ → s.x.attLeaf < 2 ^ 20 → s.unreadable m.w1 32 = true ∨ s.unreadable m.w2 16384 = true →
         exec .attestationRequest s = .next (att s 6)) ∧
       (ok → exists_ → s.x.attLeaf < 2 ^ 20 → s.unreadable m.w1 32 = false → s.unreadable m.w2 16384 = false →
         s.snoopNeeded [(.mem m.w1, 32)] false = none → s.snoopNeeded [(.mem m.w2, 16384)] true = none →
         ∃ r q, via q ∧ r = s.report vd (s.getBytes (.mem m.w1) 32) ∧ exec .attestationRequest s =
           .next (att (({ q with x := { s.x with attLeaf := s.x.attLeaf + 1 } } : State).write (.mem m.w2) r) 2))) ∧
     (2 ^ 20 < s.x.attLeaf + 4096 → s.x.idLeaf < 2 ^ 20 → exec .attestationKeyGeneration s =
       .next { s with x := { s.x with attGen := s.x.attGen + 1, attLeaf := 0, idLeaf := s.x.idLeaf + 1 } })) ∧
  ((∀ x : Nat,
     let f (o lo w : Nat) : Nat := x / 2 ^ (8 * o + lo) % 2 ^ w
     let off (i : Nat) : Nat := f (0x10 + 8 * i) 0 32
     let len (i : Nat) : Nat := f (0x14 + 8 * i) 0 32
     let header : Prop := f 0 0 16 ≠ 0x4F43 ∨ f 2 0 8 ≠ 1 ∨ f 3 0 8 ≠ 0 ∨ f 4 18 14 ≠ 0 ∨ f 0x4C 8 24 ≠ 0 ∨ f 0x70 0 128 ≠ 0 ∨
       (f 4 16 1 = 1 ∧ f 4 0 8 = 0)
     let sections : Prop := len 0 = 0 ∨ (∃ i, i < 7 ∧ len i ≠ 0 ∧ off i % 64 ≠ 0) ∨ len 0 % 8 ≠ 0 ∨ len 1 % 8 ≠ 0 ∨ 16384 < len 3 ∨
       len 4 % 16 ≠ 0 ∨ len 5 % 32 ≠ 0 ∨ len 6 % 16 ≠ 0 ∨
       ∃ i j, i < 7 ∧ j < 7 ∧ i ≠ j ∧ len i ≠ 0 ∧ len j ≠ 0 ∧ off i < off j + len j ∧ off j < off i + len i
     let demand (d : Nat) : Prop := 8 ≤ d ∧ d ≤ 128 ∧ d % 8 = 0
     let handler : Prop :=
       if f 0x48 0 32 = 0xFFFFFFFF then f 0x4C 0 8 ≠ 0
       else f 0x48 0 32 % 8 ≠ 0 ∨ len 0 ≤ f 0x48 0 32 ∨ ¬ demand (f 0x4C 0 8)
     let reloc : Prop := ∃ k, k < len 4 / 16 ∧
       let p := off 4 + 16 * k
       let add := f (p + 8) 0 64
       f (p + 2) 0 16 ≠ 0 ∨ f (p + 4) 0 32 % 8 ≠ 0 ∨ len 2 < f (p + 4) 0 32 + 8 ∨ (f p 0 8 ≠ 1 ∧ f p 0 8 ≠ 2) ∨
         (f p 0 8 = 1 ∧ (3 < f (p + 1) 0 8 ∨ len (f (p + 1) 0 8) = 0 ∨ len (f (p + 1) 0 8) < add)) ∨
         (f p 0 8 = 2 ∧ (f (p + 1) 0 8 ≠ 0 ∨ len 6 / 16 ≤ add))
     let export_ : Prop := ∃ k, k < len 5 / 32 ∧
       let p := off 5 + 32 * k
       let sec := f (p + 0x10) 0 8
       f (p + 0x10) 8 24 ≠ 0 ∨ f (p + 0x18) 8 56 ≠ 0 ∨ 3 < sec ∨ len sec = 0 ∨ len sec < f (p + 0x14) 0 32 ∨
         (f (p + 0x18) 0 8 ≠ 0 ∧ ¬ demand (f (p + 0x18) 0 8))
     (codeBad x = true ↔ header ∨ sections ∨ handler ∨ reloc ∨ export_) ∧
     (admitted x = true ↔ f 8 0 64 = ofBytes (shake256 (bytesOf (2 ^ 13 - 1) 32)) % 2 ^ 64 ∨
       (f 4 16 1 = 1 ∧ f 4 17 1 = 1 ∧ f 4 0 8 = 1 ∧ f 5 0 8 = 0)) ∧
     (∀ m, m = codeBytes x → 128 ≤ m ∧ (∀ i, i < 7 → len i ≠ 0 → off i + len i ≤ m) ∧
       (m = 128 ∨ ∃ i, i < 7 ∧ len i ≠ 0 ∧ m = off i + len i))) ∧
   ∀ s : State, s.x.code.wait = none → s.x.code.dead = false → s.x.code.code ≠ 1 →
     let m := s.x.code
     let op := m.w0 % 2 ^ 8
     let vd := m.w0 / 2 ^ 8 % 2 ^ 6
     let num := m.w0 / 2 ^ 16 % 2 ^ 8
     let objs := (s.vd vd).objs
     let ended (t : State) (code : Nat) : State :=
       let k : Mbox := { m with code, start := s.now }
       ({ t with x := { t.x with code := k } } : State).send (.pfMsix 2)
     let via (a : State) : Prop := a = { s with sideCache := a.sideCache, run := { s.run with free := a.run.free } }
     let here : Prop := (s.vd vd).st ≠ .absent ∧ (s.vd vd).st ≠ .destroying
     let fields : Prop := m.w0 / 2 ^ 14 % 2 ^ 2 = 0 ∧ m.w0 / 2 ^ 24 % 2 ^ 40 = 0
     let n := codeBytes (s.getNat (.mem m.w1) 128)
     let b := s.getBytes (.mem m.w1) n
     let x := ofBytes b
     (op = 1 →
       (¬ here → exec .load s = .next (ended s 9)) ∧
       (here → ¬ fields ∨ m.w1 % 64 ≠ 0 ∨ m.w2 % 65536 ≠ 0 ∨ m.w3 % 65536 ≠ 0 → exec .load s = .next (ended s 3)) ∧
       (here → fields → m.w1 % 64 = 0 → m.w2 % 65536 = 0 → m.w3 % 65536 = 0 →
         (tget objs num ≠ none → exec .load s = .next (ended s 7)) ∧
         (tget objs num = none → s.snoopNeeded [(.mem m.w1, n)] false = none → s.snoopNeeded [(.mem m.w2, n)] true = none →
           ∃ r : State, via r ∧
           (s.ownsRange vd m.w1 128 = false ∨ s.ownsRange vd m.w1 n = false ∨ s.ownsRange vd m.w2 n = false →
             exec .load s = .next (ended r 5)) ∧
           (s.ownsRange vd m.w1 128 = true → s.ownsRange vd m.w1 n = true → s.ownsRange vd m.w2 n = true →
             (s.unreadable m.w1 n = true → exec .load s = .next (ended r 10)) ∧
             (s.unreadable m.w1 n = false →
             (codeBad x = true → exec .load s = .next (ended r 3)) ∧
             (codeBad x = false → admitted x = false → exec .load s = .next (ended r 4)) ∧
             (codeBad x = false → admitted x = true →
               ((∃ k, k < secLen x 6 / 16 ∧ resolveName objs (importName x k) = none) → exec .load s = .next (ended r 6)) ∧
               ((∀ k, k < secLen x 6 / 16 → resolveName objs (importName x k) ≠ none) →
                 (s.unreadable m.w2 n = true → exec .load s = .next (ended r 10)) ∧
                 (s.unreadable m.w2 n = false → ∃ u : State,
                   exec .load s = .next (u.send (.pfMsix 2)) ∧ u.x.code.code = 2 ∧
                   (∀ j, j < n → u.getByte (.mem (m.w2 + j)) =
                     (relocate x m.w3 objs (upFrom 0 (secLen x 4 / 16)) b).getD j 0) ∧
                   (∃ o, (u.vd vd).objs = tset objs num o ∧ o.base = m.w2 ∧ o.va = m.w3 ∧ o.bytes = n ∧
                     o.exports = exportsOf x m.w3 ∧ (∀ k y, tget objs k = some y → y.order < o.order) ∧
                     ∀ i, i < 7 → o.secOff.getD i 0 = secOff x i ∧ o.secLen.getD i 0 = secLen x i) ∧
                   ∀ w, w ≠ vd → u.vd w = s.vd w)))))))) ∧
     (op = 2 → here → fields →
       (tget objs num = none → exec .unload s = .next (ended s 7)) ∧
       (tget objs num ≠ none →
         (s.objNamed vd num = true → exec .unload s = .next (ended s 8)) ∧
         (s.objNamed vd num = false →
           exec .unload s = .next (ended (s.setVd vd { s.vd vd with objs := tdel objs num }) 2)))) ∧
     (op = 2 → ¬ here → exec .unload s = .next (ended s 9)) ∧
     (op = 2 → here → ¬ fields → exec .unload s = .next (ended s 3)))

/-- 01 R18 to R21: the engine of an F-die takes the next record of its ring; a legal move copies SRC to DST and enters phase 1, an
illegal one is kept with its status, one that cannot be read as malformed; phase 2 holds the page with its held translations dropped, or
ends the move where LEAF does not map SRC or the device does not own its pages; one whose SRC cannot be read ends with status 6, in either phase; and the completion copies the logged blocks again,
rewrites LEAF to name DST, leaves STATUS in
the record, adds 1 to the counter and tells the vector of its die.
Where the spec leaves the point open it is the model's choice: log 6, 28. -/
def Obligations.PageMoves : Prop :=
  ∀ (s : State) (die : Nat), 8 ≤ die → die < 12 →
    let d := s.die die
    let head := d.ringHead % 256
    let at_ := d.ringBase + 64 * head
    let r := movRecOf (s.getNat (.mem at_) 64)
    let n := pageBytes r.pgsz
    let free (i : Nat) (r : MovRec) : Prop := d.freeSlot = some i ∧ head ≠ d.ringTail % 256 ∧ s.pkg.stopped = false ∧ d.ringDead = false ∧
      ∀ k m, (k, m) ∈ d.migs → sharesPage r m = false
    let ready (i : Nat) : Prop := free i r ∧ s.physGone at_ 64 = false ∧ s.snoopNeeded [(.mem at_, 64)] false = none
    let taken (u : State) (i phase status : Nat) : Prop := (u.die die).ringHead = (head + 1) % 256 ∧
      ∃ m, tget (u.die die).migs i = some m ∧ m.phase = phase ∧ m.status = status ∧ m.recAt = at_ ∧ m.src = r.src ∧ m.dst = r.dst ∧
        m.leaf = r.leaf ∧ m.ctr = r.ctr ∧ m.vd = r.vd ∧ m.pgsz = r.pgsz
    let leaves (m : Mig) : Nat := if m.pgsz = 1 then 16 else 1
    let here (m : Mig) : Prop := (s.vd m.vd).st ≠ .absent ∧ (s.vd m.vd).st ≠ .destroying
    let owned (m : Mig) : Prop := s.pageOk m.vd m.src = true ∧ s.pageOk m.vd m.dst = true
    let maps (m : Mig) (k : Nat) : Prop :=
      let e := s.getNat (.mem (m.leaf + 8 * k)) 8
      s.physFail m.vd (m.leaf + 8 * k) 8 = none ∧ e.testBit 0 = true ∧ e.testBit 3 = true ∧ e.testBit 5 = false ∧
        e / 2 ^ 12 % 2 ^ 40 * 4096 = m.src + 4096 * k ∧ (m.pgsz = 1 → e.testBit 4 = true)
    let free1 (pa k : Nat) (w : Bool) : Prop := s.snoopNeeded [(.mem pa, k)] w = none
    (∀ i st, ready i → s.movStatus r = some st → ∃ u : State, exec (.move die) s = .next u ∧ taken u i 3 st ∧ u.mem = s.mem) ∧
    (∀ i, free i (movRecOf 0) → s.physGone at_ 64 = true → ∃ u : State, exec (.move die) s = .next u ∧ u.mem = s.mem ∧
      (u.die die).ringHead = (head + 1) % 256 ∧ ∃ m, tget (u.die die).migs i = some m ∧ m.phase = 3 ∧ m.status = 2) ∧
    (∀ i, ready i → s.movStatus r = none → free1 r.src n false → free1 r.dst n true → ∃ u : State,
      exec (.move die) s = .next u ∧ taken u i 1 0 ∧
        (Memory.wf s.mem = true → (∀ j, j < n → u.getByte (.mem (r.dst + j)) = s.getByte (.mem (r.src + j))) ∧
          ∀ a, a < r.dst ∨ r.dst + n ≤ a → u.getByte (.mem a) = s.getByte (.mem a))) ∧
    (head = d.ringTail % 256 ∨ d.freeSlot = none → exec (.move die) s = .next s) ∧
    (∀ i m, tget d.migs i = some m → m.phase = 1 → here m → s.moveBroken m = false →
      (¬ owned m → exec (.migrationPhase2 die i) s = .next (s.setMig die i { m with phase := 3, status := 4 })) ∧
      (owned m → m.dead = false → free1 m.leaf (8 * leaves m) false →
        ((∀ k, k < leaves m → maps m k) → ∃ u : State,
          exec (.migrationPhase2 die i) s = .next u ∧ tget (u.die die).migs i = some { m with phase := 2 } ∧ u.mem = s.mem ∧
          ∀ e, e ∈ u.tlb ↔ e ∈ s.tlb ∧ ¬ (e.rmt = none ∧ m.src < e.pa + 2 ^ e.lg ∧ e.pa < m.src + pageBytes m.pgsz)) ∧
        ((∃ k, k < leaves m ∧ ¬ maps m k) → ∃ u : State, exec (.migrationPhase2 die i) s = .next u ∧ u.mem = s.mem ∧
          tget (u.die die).migs i = some { m with phase := 3, status := 5 }))) ∧
    (∀ i m, tget d.migs i = some m → m.phase = 1 → ¬ here m →
      exec (.migrationPhase2 die i) s = .next (s.setMig die i { m with phase := 3, status := 7 })) ∧
    (∀ i m ins, tget d.migs i = some m →
      (m.phase = 1 ∧ ins = Instr.migrationPhase2 die i ∧ here m) ∨
        (m.phase = 2 ∧ ins = .migrationComplete die i) → s.moveBroken m = true → ∃ u : State, exec ins s = .next u ∧
        tget (u.die die).migs i = some { m with phase := 3, status := 6 } ∧ (Memory.wf s.mem = true →
          ∀ a, a < m.dst ∨ m.dst + pageBytes m.pgsz ≤ a → u.getByte (.mem a) = s.getByte (.mem a))) ∧
    (∀ i m, tget d.migs i = some m → m.phase = 2 → s.moveBroken m = false → m.dead = false →
      (¬ owned m → exec (.migrationComplete die i) s = .next (s.setMig die i { m with phase := 3, status := 4 })) ∧
      (owned m → (∃ k, k < leaves m ∧ s.physFail m.vd (m.leaf + 8 * k) 8 ≠ none) →
        exec (.migrationComplete die i) s = .next (s.setMig die i { m with phase := 3, status := 5 }))) ∧
    (∀ i m, tget d.migs i = some m → m.dead = false →
      (m.phase = 2 ∧ s.moveBroken m = false ∧ owned m ∧ (∀ k, k < leaves m → s.physFail m.vd (m.leaf + 8 * k) 8 = none) ∧
        free1 m.src (pageBytes m.pgsz) false ∧ free1 m.dst (pageBytes m.pgsz) true ∧ free1 m.leaf (8 * leaves m) true) ∨ m.phase = 3 →
      free1 (m.recAt + 40) 1 true → free1 m.ctr 8 true → ∃ (t u : State) (p : OpSt → Bool),
      exec (.migrationComplete die i) s = .next ((t.send (.pfMsix (die - 3))).retry p) ∧ (∀ o, p o = true ↔ o = .held) ∧
      tget (t.die die).migs i = none ∧ (u = if m.phase = 2 then s.finishMove m else s) ∧
      (let st := if m.phase = 2 then 1 else m.status
       let w := if s.physGone (m.recAt + 40) 1 = true then u else u.putBytes (.mem (m.recAt + 40)) (bytesOf st 1)
       t.mem = (if m.status = 2 ∨ s.physGone m.ctr 8 = true then w
         else w.putBytes (.mem m.ctr) (bytesOf (min (w.getNat (.mem m.ctr) 8 + 1) (2 ^ 64 - 1)) 8)).mem)) ∧
    (∀ m : Mig, Memory.wf s.mem = true →
      let k := pageBytes m.pgsz
      let u := s.finishMove m
      let leaf (a : Nat) : Prop := m.leaf ≤ a ∧ a < m.leaf + 8 * leaves m
      m.src + k ≤ m.dst ∨ m.dst + k ≤ m.src → m.leaf + 8 * leaves m ≤ m.dst ∨ m.dst + k ≤ m.leaf →
      (∀ j, j < k → u.getByte (.mem (m.dst + j)) = s.getByte (.mem (if j / 4096 ∈ m.log then m.src + j else m.dst + j))) ∧
      (∀ j, j < leaves m → ∀ e, s.getNat (.mem (m.leaf + 8 * j)) 8 = e →
        u.getNat (.mem (m.leaf + 8 * j)) 8 = e % 2 ^ 12 + (m.dst / 4096 + j) % 2 ^ 40 * 2 ^ 12 + e / 2 ^ 52 * 2 ^ 52) ∧
      ∀ a, a < m.dst ∨ m.dst + k ≤ a → ¬ leaf a → u.getByte (.mem a) = s.getByte (.mem a))

/-! Issue, slices, the watchdog, placement, saves, results and registers (05 to 09). -/

/-- 06 R147 to R151, 08 R222, 15 R430: a clock of an island counts and changes no register and no memory; a group holds threads of one
program counter, one for a lane, with the thread that has waited longest among them; and a sequencer issues for its one issuable
context, once a clock, in the eighth clock in which it is issuable.
Where the spec leaves the point open it is the model's choice: log 1, 10, 57, 65. -/
def Obligations.IssueOfGroups : Prop :=
  ∀ (s : State) (d k : Nat), d < 12 → k < 2 →
    let x := s.isl d k
    (s.clocksLeft d k = 0 → exec (.issueCycle d k) s = .next s) ∧
    (0 < s.clocksLeft d k → ∃ u : State, exec (.issueCycle d k) s = .next u ∧ x.cyc < (u.isl d k).cyc ∧
      (u.isl d k).cyc ≤ x.cyc + s.clocksLeft d k ∧ (u.isl d k).done = x.done + ((u.isl d k).cyc - x.cyc) * x.period ∧
      (u.isl d k).mhz = x.mhz ∧ s.now ≤ u.now ∧ u.mem = s.mem ∧ u.scr = s.scr ∧
      ∀ n, (tget u.agents n).map (·.arch) = (tget s.agents n).map (·.arch)) ∧
    (∀ l : List (Nat × Agent), (∀ y, y ∈ l → y.2.sched.age < 2 ^ 64 ∧ y.2.pos.lane < 16) → l ≠ [] → ∃ b, b ∈ l ∧ b ∈ groupOf l ∧
      (∀ y, y ∈ l → y.2.sched.age ≤ b.2.sched.age) ∧ (∀ y, y ∈ groupOf l → y ∈ l ∧ y.2.curPc = b.2.curPc) ∧
      (∀ y, y ∈ l → y.2.curPc = b.2.curPc → ∃ z, z ∈ groupOf l ∧ z.2.pos.lane = y.2.pos.lane) ∧
      ((groupOf l).map fun y => y.2.pos.lane).Nodup) ∧
    (∀ (cob i : Nat) (A : Agent),
      let cyc := (s.isl (dieOfCob cob) (islandOfCob cob)).cyc
      let mine (e : Nat × Agent) : Prop :=
        e.2.id.seq = true ∧ e.2.pos.out = false ∧ cobOfCore e.2.pos.core = cob ∧ s.issuable e.1 e.2 = true
      (i, A) ∈ s.agents → mine (i, A) → (s.vd A.id.vd).shed ≠ 1 → (∀ e, e ∈ s.agents → mine e → e = (i, A)) →
      (A.sched.age < 7 → exec (.sequencerIssue cob) s = .next s) ∧
      (7 ≤ A.sched.age → (s.cob cob).seqAt ≠ some cyc → exec (.sequencerIssue cob) s =
        let t := (s.setCob cob { s.cob cob with seqAt := some cyc }).setAgent i
          { A with sched := { A.sched with age := 0, polled := false } }
        .next { t with run := { t.run with issueQ := s.run.issueQ ++ [i] } })) ∧
    (∀ cob, (∀ e, e ∈ s.agents → e.2.id.seq = true → s.issuable e.1 e.2 = false) → exec (.sequencerIssue cob) s = .next s)

/-- 06 R154 to R159, 07 R177: a slice, with the SLICE of its start, ends after SLICE × 1,800 clocks, or after SLICE × 200 ticks with what is not counted forfeited: with
a pre-emption request where it is contended, with a new slice otherwise; and a grid whose count reaches WDOG × 1,000 tells INTCAUSE
bit 6, and its running threads fault, and those of a save under way, or, without a trap vector, it ends in failure.
07 R177 to R179, R182, R185: a pre-emption request to work with a trap vector covers its agents, each of which takes cause 0x20
at its next boundary; when the last has executed `psave` the save is cooperative, and after 50,000 clocks it is forced; once a
save is written its units are ready again from now.
Where the spec leaves the point open it is the model's choice: log 20, 33. -/
def Obligations.SlicesAndSaves : Prop :=
  (∀ (s : State) (vd ctx cob : Nat),
     let key := cobKey vd ctx cob
     let v := s.vd vd
     (∀ x, tget s.slices key = some x → x.len ≠ 0 → s.workOn vd ctx cob = true →
       (1800 * x.len ≤ x.clocks → exec (.sliceCycleLimit vd ctx cob) s = .next (s.endSlice vd ctx cob)) ∧
       (x.clocks < 1800 * x.len → exec (.sliceCycleLimit vd ctx cob) s = .next s) ∧
       (x.clocks < 1800 * x.len → x.start + 200 * x.len ≤ s.now → ∃ f, f = v.forfeit + (1800 * x.len - x.clocks) / 1800 ∧
         exec (.sliceWallLimit vd ctx cob) s = .next ((s.setVd vd { v with
           forfeit := min f (2 ^ 32 - 1), slices := (v.slices + 1) % 2 ^ 32 }).endSlice vd ctx cob))) ∧
     (s.contended vd ctx cob = false → s.endSlice vd ctx cob = { s with slices := tset s.slices key ⟨0, s.now, v.slice⟩ }) ∧
     (s.contended vd ctx cob = true → tget s.preReqs key = none → s.endSlice vd ctx cob =
       { (s.preempt vd ctx cob false) with slices := tdel s.slices key }) ∧
     (∀ g G, tget s.grids g = some G → (s.vd G.vd).wdog ≠ 0 →
       (G.wdog / 65536 < 1000 * (s.vd G.vd).wdog → exec (.watchdogExpiry g) s = .next s) ∧
       (1000 * (s.vd G.vd).wdog ≤ G.wdog / 65536 →
         let t := (s.setGrid g { G with wdog := 0 }).setCause G.vd 6
         (G.vector = none → exec (.watchdogExpiry g) s = .next ((t.setCause G.vd 3).endGrid g 8 0x15 0)) ∧
         (G.vector ≠ none → ∃ u : State, exec (.watchdogExpiry g) s = .next u ∧ u = { t with agents := u.agents } ∧
           ∀ n, tget u.agents n = (tget s.agents n).map fun a =>
             if a.id.grid = g ∧ (a.pos.out = false ∨ ((tget s.pods a.id.pod).any fun x => s.saving a.id.pod x) = true)
             then { a with flt := { a.flt with wdog := true } } else a))) ∧
     (tget s.slices key = none → (s.startSlice vd ctx cob).slices = tset s.slices key ⟨0, s.now, v.slice⟩)) ∧
  (∀ (s : State) (vd ctx cob : Nat),
     let key := cobKey vd ctx cob
     let cyc := (s.isl (dieOfCob cob) (islandOfCob cob)).cyc
     ((s.vd vd).st = .held → (s.vd vd).cmd = true → (∃ e, e ∈ s.pods ∧ e.2.vd = vd ∧ e.2.ctx = ctx ∧ e.2.cob = cob ∧ e.2.out = false) →
       exec (.preemptionRequest vd ctx cob) s = .next (s.preempt vd ctx cob true)) ∧
     ((s.vd vd).st ≠ .held ∨ (s.vd vd).cmd = false → exec (.preemptionRequest vd ctx cob) s = .next s) ∧
     (∀ whole, tget s.preReqs key = none → (∀ p x, tget s.pods p = some x → (s.grid x.grid).vector ≠ none) →
       let u := s.preempt vd ctx cob whole
       u = { s with preReqs := tset s.preReqs key ⟨cyc, whole, false, []⟩, agents := u.agents } ∧
       ∀ n, tget u.agents n = (tget s.agents n).map fun a =>
         if n ∈ (s.coveredBy vd ctx cob).map (·.1) then
           { a with sched := { a.sched with covered := true }, flt := { a.flt with pre := true } }
         else a) ∧
     (∀ e, e ∈ s.coveredBy vd ctx cob ↔ e ∈ s.agents ∧ e.2.id.vd = vd ∧ e.2.id.ctx = ctx ∧ e.2.pos.out = false ∧
       (e.2.id.seq = true → cobOfCore e.2.pos.core = cob) ∧
       (e.2.id.seq = false → ∃ t, tget s.teams e.2.id.team = some t ∧ t.holds = true ∧ cobOfCore t.core = cob)) ∧
     (∀ q, tget s.preReqs key = some q →
       let done : Prop := ∀ e, e ∈ s.coveredBy vd ctx cob → e.2.sched.psaved ≠ none
       (q.saving = false → done → exec (.preemptionBudgetEnd vd ctx cob) s = .next (s.saveCob vd ctx cob false)) ∧
       (q.saving = false → ¬ done → q.start + 50000 ≤ cyc →
         exec (.preemptionBudgetEnd vd ctx cob) s = .next (s.saveCob vd ctx cob true)) ∧
       (q.saving = false → ¬ done → cyc < q.start + 50000 → exec (.preemptionBudgetEnd vd ctx cob) s = .next s) ∧
       (q.saving = true → exec (.preemptionBudgetEnd vd ctx cob) s = .next s) ∧
       (q.saving = false → exec (.saveComplete vd ctx cob) s = .next s) ∧
       (q.saving = true → ∃ u : State, exec (.saveComplete vd ctx cob) s =
           .next (if u.workOn vd ctx cob then u.startSlice vd ctx cob else u) ∧
         u = { s with preReqs := tdel s.preReqs key, slices := tdel s.slices key, teams := u.teams, pods := u.pods } ∧
         (∀ n, tget u.pods n = (tget s.pods n).map fun x =>
           if n ∈ q.pods ∧ (s.pods.any fun e => e.1 == n && e.2.out) = true then { x with since := s.now } else x) ∧
         ∀ n, tget u.teams n = (tget s.teams n).map fun t =>
           if t.place = .saved ∧ t.pod ∈ q.pods ∧ (s.pods.any fun e => e.1 == t.pod && e.2.out) = true
           then { t with since := s.now } else t)))

/-- 06 R138, R139, R146: the scheduler tries the ready units in the order of priority, ready time, kicked before child, stream or
core; fresh grids and saved units alike; the first that fits is placed, and none behind a blocking grid; a grid not placed for 10,000 ticks becomes blocking; and the
team longest in child wait is swapped out for a blocking child grid it would make room for; no unit of a launch issues while its
acquire waits.
05 R126 to R128: a launch ends once its units and its children have: its completion record is written where DONE names one, with
its status, cause, time, PC and teams; its SIG counters, or after a failure its FAIL counter with INTCAUSE bit 2, are added to.
Where the spec leaves the point open it is the model's choice: log 6, 49, 53. -/
def Obligations.PlacementAndEnd : Prop :=
  (∀ (s t : State) (vd : Nat),
     (s.schedules vd = true → exec (.placementPass vd) s =
       let u := (s.lookGrids (s.unlooked vd)).sweepRows
       .next (u.placeFirst (u.readyOrder vd))) ∧
     (s.schedules vd = false → exec (.placementPass vd) s = .next s) ∧
     (s.readyOrder vd).Pairwise (fun a b => lexLt b.1 a.1 = false) ∧
     (∀ k g, (k, Entry.fresh g) ∈ s.readyOrder vd ↔ ∃ G, (g, G) ∈ s.grids ∧ G.vd = vd ∧ G.placed = false ∧
       (G.st = .ready ∨ G.st = .running) ∧
       k = [7 - G.lrec.prio, G.readyAt, if G.stream.isSome then 0 else 1, G.stream.getD G.parentCore]) ∧
     (∀ k e es, s.placeEntry e = some t → s.placeFirst ((k, e) :: es) = t) ∧
     (∀ k e es, s.placeEntry e = none →
       let g := s.gridAt e
       ((s.grid g).blocking = true → s.placeFirst ((k, e) :: es) = s.noteTried g) ∧
       ((s.grid g).blocking = false → s.placeFirst ((k, e) :: es) = (s.noteTried g).placeFirst es)) ∧
     (∀ g G, tget s.grids g = some G → G.tried = none → s.noteTried g = s.setGrid g { G with tried := some s.now }) ∧
     (∀ i a, (s.grid a.id.grid).acqWait = true → s.issuable i a = false) ∧
     (∀ g, s.gridAt (.fresh g) = g) ∧ (∀ n x, tget s.pods n = some x → s.gridAt (.back n) = x.grid) ∧
     (∀ n x, tget s.pods n = some x → x.vd = vd → s.mayReturn n x = true →
       ∃ k, (gridKey (s.grid x.grid) k, Entry.back n) ∈ s.readyOrder vd) ∧
     (∀ g G t0, tget s.grids g = some G → (∃ e, e ∈ s.readyOrder G.vd ∧ s.gridAt e.2 = g) → G.tried = some t0 →
       (t0 + 10000 ≤ s.now → exec (.blockingGridTimeout g) s = .next (s.setGrid g { G with blocking := true })) ∧
       (s.now < t0 + 10000 → exec (.blockingGridTimeout g) s = .next s)) ∧
     (∀ n x, tget s.teams n = some x →
       (s.childWait n x = true → s.helps n x = true → (∀ i a, (i, a) ∈ s.teamAgents n → a.pend.ops = []) →
         (∀ e, e ∈ s.copies → e.2.team ≠ n) →
         (∀ e, e ∈ s.teams → s.childWait e.1 e.2 = true → s.helps e.1 e.2 = true → e.1 = n ∨ s.childWaitFrom n ≤ s.childWaitFrom e.1) →
         s.swapTeam n x = some t → exec (.childWaitSwap n) s = .next t) ∧
       (s.childWait n x = true → x.holds = true ∧ (∃ e, e ∈ s.grids ∧ e.2.parent = some x.grid ∧ e.2.pteam = n) ∧
         ∀ e, e ∈ s.teamAgents n → ∃ c, e.2.pend.ct = some c ∧ c.hit = none) ∧
       ((∀ e, e ∈ s.teams → e.1 = n → s.childWait e.1 e.2 = false) → exec (.childWaitSwap n) s = .next s))) ∧
  (∀ (s s1 : State) (g : Nat) (G : Grid), tget s.grids g = some G → G.st = .ending →
     let r := G.lrec
     let isOver : Prop := (∀ e, e ∈ s.grids → e.2.parent ≠ some g) ∧ (∀ e, e ∈ s.pods → e.2.grid ≠ g) ∧
       (r.rel = true → ∀ e, e ∈ s.agents → e.2.id.grid ≠ g) ∧ s.releaseWaits G = false
     let ok : Prop := G.failed = none ∧ ¬ (r.rel = true ∧ 6 ≤ r.rscope ∧ (s.scope G.vd r.ctx r.rscope).st = .invalid)
     let adds := if (s.endOf G).1 = 1 then r.sigs else [r.fail]
     (ok → s.endOf G = (1, 0, 0)) ∧
     (∀ st c pc, G.failed = some (st, c, pc) → s.endOf G = if st = 8 then (8, c, pc) else (st, 0, 0)) ∧
     (G.failed = none → ¬ ok → s.endOf G = (7, 0, 0)) ∧
     (∀ e time teams, ofBytes (completionBytes e time teams) =
       (e.1 + 256 * (e.2.1 % 256)) % 2 ^ 64 + 2 ^ 64 * (time % 2 ^ 64) + 2 ^ 128 * e.2.2.toNat + 2 ^ 192 * (teams % 2 ^ 32)) ∧
     (∀ p, isOver → s.placesFor G.vd r.ctx G.own ((r.done, 32) :: adds.map fun a => (a.1, 8)) = (p, s1) → p.waits = false →
       let ls := p.at_
       let t1 := s1.leaveSlot g
       let t2 := match ls.head? with
         | some (some l) => t1.writeChunks l (completionBytes (s.endOf G) t1.now G.good)
         | _ => t1
       let t3 := t2.addAt ((ls.drop 1).zip (adds.map (·.2)))
       let t4 := if (s.endOf G).1 ≠ 1 ∧ ls.getD 1 none ≠ none then t3.setCause G.vd 2 else t3
       exec (.launchEnd g) s = .next { t4 with grids := tdel t4.grids g }) ∧
     (∀ p, isOver → s.placesFor G.vd r.ctx G.own ((r.done, 32) :: adds.map fun a => (a.1, 8)) = (p, s1) → p.waits = true →
       exec (.launchEnd g) s = .next (s1.setGrid g { s1.grid g with own := p.own })) ∧
     (¬ isOver → exec (.launchEnd g) s = .next s))

/-- 08 R192, R193, R198, R202, 02 R55, 13 R372, 14 R392: a result returns: every queue entry that waits for it takes its word, its
predicates and registers are written, and nothing is outstanding any more; a peer's failure is a completion fault; the oldest frame
request takes granules that have become free, and after 1,024 clocks frames are evicted for it; while the island relocks what comes to
it waits; a `ctwait` whose timeout has passed
faults with cause 0x17, and a `rejoin` goes on after 4,096 clocks.
Where the spec leaves the point open it is the model's choice: log 20, 48. -/
def Obligations.ReturnsAndTimeouts : Prop :=
  ∀ (s s1 : State) (i : Nat) (A : Agent), tget s.agents i = some A → tget s.copies i = none →
    let relock := (s.islOfCore A.pos.core).relock
    (relock = true → ∀ op, exec (.deferredResultReturn i op .fixed) s = .next s ∧
      ∀ r, r ≠ .fixed → exec (.deferredResultReturn i op r) s = .next (s.later (.deferredResultReturn i op r))) ∧
    (∀ op o, relock = false → op ≠ 0 → A.op op = some o →
      (∀ ws, o.st = .ready ws → ∃ u : State, exec (.deferredResultReturn i op .fixed) s = .next (u.afterReturn i) ∧
        (o.regw = none → ∃ B : Agent, u = s.setAgent i B ∧ B.pend = { A.pend with ops := A.pend.ops.filter fun x => x.id != op } ∧
          B.arch.pc = A.arch.pc ∧ B.arch.frames = A.arch.frames ∧
          B.arch.queue = A.arch.queue.map (fun e => match e.pend with
            | some (n, k) => if n = op then { val := ws.getD k 0 } else e
            | none => e) ∧
          (o.preds = [] → B.arch.preds = A.arch.preds) ∧
          ∀ p b, o.preds = [(p, b)] → p < 7 → ∀ q, q < 7 →
            B.arch.preds.getLsbD q = if q = p then b else A.arch.preds.getLsbD q)) ∧
      (∀ d p c, o.st = .remote d p → exec (.deferredResultReturn i op (.failed c)) s =
        .next ((s.failOp i o c.toNat o.va).afterReturn i).retrySpans) ∧
      (∀ d p bs, o.st = .remote d p → exec (.deferredResultReturn i op (.data bs)) s =
        .next (((s.tryOp i op (some bs)).landIfReady i op).afterReturn i).retrySpans) ∧
      (∀ d va, o.st = .walker d va → exec (.deferredResultReturn i op .fixed) s =
        .next (if s.bufferRoom d then ((s.tryOp i op none).landIfReady i op).afterReturn i else s)) ∧
      (∀ d, o.st = .parked d 0 → exec (.deferredResultReturn i op .fixed) s = .next s)) ∧
    (∀ r, A.pend.freq = some r →
      let n := r.want - (r.held.length + r.ownGran A)
      ((s.oldestBlocked r.pool).map (·.1) = some i →
        (n ≤ (s.freeGran r.pool).length → ∃ (u : State) (gs : List Nat), exec (.frameGrant i) s = .next (u.tryTrap i) ∧
          gs.length = n ∧ gs.Nodup ∧ (∀ g, g ∈ gs → g ∈ s.freeGran r.pool) ∧ (u.run.free = s.run.free + n) ∧
          tget u.agents i = some { A with pend := { A.pend with freq := some { r with held := r.held ++ gs } } }) ∧
        (∀ c p l b, r.pool = .lane c p l b → 1024 ≤ r.cycles →
          (∀ t, evictFor i (s.victims r.pool) s = .served t → exec (.frameSpillEscape i) s = .next (t.tryTrap i)) ∧
          (∀ t, evictFor i (s.victims r.pool) s = .wait t → exec (.frameSpillEscape i) s = .next t) ∧
          (∀ c t, evictFor i (s.victims r.pool) s = .fail c t → exec (.frameSpillEscape i) s = .next (t.noFrames i c)) ∧
          (∀ t, evictFor i (s.victims r.pool) s = .short t → exec (.frameSpillEscape i) s = .next (t.noFrames i 0x12))) ∧
        (r.cycles < 1024 → exec (.frameSpillEscape i) s = .next s)) ∧
      (∀ j, j ≠ i → (s.oldestBlocked r.pool).map (·.1) = some j →
        exec (.frameGrant i) s = .next s ∧ exec (.frameSpillEscape i) s = .next s)) ∧
    (∀ c, A.pend.ct = some c → A.pos.out = false →
      (∀ l w, c.limit = some l → c.hit = none → c.since + l ≤ s.now → s.nextWord i A = (w, s1) →
        exec (.ctwaitTimeout i) s = .next (s1.raise i { cause := 0x17, pc := A.curPc, resume := some A.curPc, addr := BitVec.ofNat 64 c.va, iword := w })) ∧
      (c.hit ≠ none ∨ c.limit = none → exec (.ctwaitTimeout i) s = .next s)) ∧
    (∀ j t st, A.pend.rejoin = some (j, t, st) →
      (t + 4096 ≤ (s.islOfCore A.pos.core).cyc → exec (.rejoinTimeout i) s = .next ((s.setAgent i
        { A with pend := { A.pend with rejoin := none }, arch := { A.arch with joins := A.arch.joins.set j 0 } }).advance i st none)) ∧
      ((s.islOfCore A.pos.core).cyc < t + 4096 → exec (.rejoinTimeout i) s = .next s))

/-- 03 R66, R87, 06 R154, 07 R180, 08 R201, R219, 09 R232, 01 R18: what a write of a device register leaves it to read, with the bits
that have no storage reading zero; INV_GO starts a shoot-down, which ends with every translation it names dropped; and a debug read
tells the thread, frame and register that hold a physical register.
Where the spec leaves the point open it is the model's choice: log 13, 14, 46. -/
def Obligations.DeviceRegisters : Prop :=
  ∀ (s : State) (v : Nat), v < 2 ^ 64 →
    let reads (off val : Nat) : Prop := ∃ u : State, exec (.registerWrite (.xdie off) v) s = .next u ∧ u.regRead off = val ∧
      u.agents = s.agents ∧ u.mem = s.mem
    reads 0x3008 (v % 2 ^ 52) ∧ reads 0x8008 (v % 2 ^ 52) ∧ reads 0x8108 (v % 2 ^ 52) ∧ reads 0x8110 (v % 2 ^ 52) ∧
    reads 0x8208 (v % 2 ^ 52) ∧ reads 0x8210 (v % 2 ^ 52) ∧ reads 0x8218 (v % 2 ^ 57) ∧ reads 0xC410 (v % 2 ^ 32) ∧
    reads 0xC408 (v / 2 ^ 12 % 2 ^ 45 * 2 ^ 12) ∧
    (∀ n, n < 64 → reads (0x9000 + 16 * n) (v % 2 ^ 16 + v / 2 ^ 32 * 2 ^ 32) ∧
      reads (0xC000 + 16 * n) (v % 2 + v / 2 ^ 12 % 2 ^ 40 * 2 ^ 12)) ∧
    (∀ n k, n < 64 → k < 16 →
      reads (0x34000 + 0x100 * n + 0x10 * k) (v / 2 ^ 12 % 2 ^ 40 * 2 ^ 12) ∧
      (v < 2 → reads (0x38000 + 0x100 * n + 0x10 * k) v) ∧
      (2 ≤ v → exec (.registerWrite (.xdie (0x38000 + 0x100 * n + 0x10 * k)) v) s = .next s) ∧
      (s.used n k = 0 → reads (0x30000 + 0x100 * n + 0x10 * k) (v % 2 ^ 52)) ∧
      (s.used n k ≠ 0 → exec (.registerWrite (.xdie (0x30000 + 0x100 * n + 0x10 * k)) v) s = .next s)) ∧
    (∃ u : State, exec (.registerWrite (.xdie 0x2000) v) s = .next u ∧
      u.link.badsb = (if v.testBit 32 then 0 else s.link.badsb) ∧ u.link.bifail = (s.link.bifail && !v.testBit 48)) ∧
    (∀ d, 8 ≤ d → d < 12 →
      exec (.registerWrite (.ringBase d) v) s = .next (s.setDie d { s.die d with ringBase := v % 2 ^ 52 / 64 * 64 }) ∧
      exec (.registerWrite (.ringHead d) v) s = .next (s.setDie d { s.die d with ringHead := v % 256 }) ∧
      exec (.registerWrite (.ringTail d) v) s = .next (s.setDie d { s.die d with ringTail := v % 256 })) ∧
    (exec .invGo s = exec (.registerWrite (.xdie 0xC418) 1) s ∧ ∃ r, exec .invGo s =
      .next { s with x := { s.x with invRun := s.x.invRun ++ [r] } } ∧ ∀ vd ctx page, invNames r vd ctx page 1 = true ↔
        vd = s.x.invVd ∧ ((s.x.invAll = true ∧ s.x.invCtx = 15) ∨ ctx = s.x.invCtx) ∧
        (s.x.invAll = true ∨ (s.x.invVa ≤ page ∧ page < s.x.invVa + s.x.invPages))) ∧
    (s.x.invRun ≠ [] → s.invWaits = false → ∃ u : State, exec .shootdownComplete s = .next u ∧ u.x.invRun = [] ∧
      u = { s with x := u.x, tlb := u.tlb } ∧ ∀ e, e ∈ u.tlb ↔ e ∈ s.tlb ∧ ∀ r, r ∈ s.x.invRun → invNames r e.vd e.ctx e.page (2 ^ (e.lg - 12)) = false) ∧
    (∀ core pip lane reg,
      let here (a : Agent) : Prop :=
        a.id.seq = false ∧ a.pos.out = false ∧ a.pos.core = core ∧ a.pos.pip = pip ∧ a.pos.lane = lane
      (∀ i A p x w, (i, A) ∈ s.agents → here A → heldReg A.arch.frames reg = some (p, x, w) →
        (∀ e, e ∈ s.agents → here e.2 → heldReg e.2.arch.frames reg ≠ none → e = (i, A)) →
        exec (.debugRegisterRead core pip lane reg) s = .next (s.send (.debugReg true w A.pos.slot p x)) ∧
        ∃ f, A.arch.frames[p]? = some f ∧ f.gran[x / 16]? = some (reg / 16) ∧ x % 16 = reg % 16 ∧ x < f.dem ∧ w = f.regs.getD x 0) ∧
      ((∀ e, e ∈ s.agents → here e.2 → heldReg e.2.arch.frames reg = none) →
        exec (.debugRegisterRead core pip lane reg) s = .next (s.send (.debugReg false 0 0 0 0))))
end

