-- ==== Sys2Proof/Laws/State.lean ====
section
/-!
SUPPORT. What each update of the state does to each of its fields.
-/
namespace Sys2Proof.Machine

variable (s : State)

@[simp] theorem State.setAgent_now (i : Nat) (a : Agent) : (s.setAgent i a).now = s.now := rfl
@[simp] theorem State.setAgent_pkg (i : Nat) (a : Agent) : (s.setAgent i a).pkg = s.pkg := rfl
@[simp] theorem State.setAgent_link (i : Nat) (a : Agent) : (s.setAgent i a).link = s.link := rfl
@[simp] theorem State.setAgent_x (i : Nat) (a : Agent) : (s.setAgent i a).x = s.x := rfl
@[simp] theorem State.setAgent_dies (i : Nat) (a : Agent) : (s.setAgent i a).dies = s.dies := rfl
@[simp] theorem State.setAgent_cobs (i : Nat) (a : Agent) : (s.setAgent i a).cobs = s.cobs := rfl
@[simp] theorem State.setAgent_cores (i : Nat) (a : Agent) : (s.setAgent i a).cores = s.cores := rfl
@[simp] theorem State.setAgent_mem (i : Nat) (a : Agent) : (s.setAgent i a).mem = s.mem := rfl
@[simp] theorem State.setAgent_scr (i : Nat) (a : Agent) : (s.setAgent i a).scr = s.scr := rfl
@[simp] theorem State.setAgent_faulty (i : Nat) (a : Agent) : (s.setAgent i a).faulty = s.faulty := rfl
@[simp] theorem State.setAgent_vds (i : Nat) (a : Agent) : (s.setAgent i a).vds = s.vds := rfl
@[simp] theorem State.setAgent_grids (i : Nat) (a : Agent) : (s.setAgent i a).grids = s.grids := rfl
@[simp] theorem State.setAgent_teams (i : Nat) (a : Agent) : (s.setAgent i a).teams = s.teams := rfl
@[simp] theorem State.setAgent_pods (i : Nat) (a : Agent) : (s.setAgent i a).pods = s.pods := rfl
@[simp] theorem State.setAgent_agents (i : Nat) (a : Agent) : (s.setAgent i a).agents = tset s.agents i a := rfl
@[simp] theorem State.setAgent_bufs (i : Nat) (a : Agent) : (s.setAgent i a).bufs = s.bufs := rfl
@[simp] theorem State.setAgent_copies (i : Nat) (a : Agent) : (s.setAgent i a).copies = s.copies := rfl
@[simp] theorem State.setAgent_tlb (i : Nat) (a : Agent) : (s.setAgent i a).tlb = s.tlb := rfl
@[simp] theorem State.setAgent_sideCache (i : Nat) (a : Agent) : (s.setAgent i a).sideCache = s.sideCache := rfl
@[simp] theorem State.setAgent_rows (i : Nat) (a : Agent) : (s.setAgent i a).rows = s.rows := rfl
@[simp] theorem State.setAgent_portWaits (i : Nat) (a : Agent) : (s.setAgent i a).portWaits = s.portWaits := rfl
@[simp] theorem State.setAgent_slices (i : Nat) (a : Agent) : (s.setAgent i a).slices = s.slices := rfl
@[simp] theorem State.setAgent_preReqs (i : Nat) (a : Agent) : (s.setAgent i a).preReqs = s.preReqs := rfl
@[simp] theorem State.setAgent_run (i : Nat) (a : Agent) : (s.setAgent i a).run = s.run := rfl

@[simp] theorem State.setGrid_now (i : Nat) (a : Grid) : (s.setGrid i a).now = s.now := rfl
@[simp] theorem State.setGrid_pkg (i : Nat) (a : Grid) : (s.setGrid i a).pkg = s.pkg := rfl
@[simp] theorem State.setGrid_link (i : Nat) (a : Grid) : (s.setGrid i a).link = s.link := rfl
@[simp] theorem State.setGrid_x (i : Nat) (a : Grid) : (s.setGrid i a).x = s.x := rfl
@[simp] theorem State.setGrid_dies (i : Nat) (a : Grid) : (s.setGrid i a).dies = s.dies := rfl
@[simp] theorem State.setGrid_cobs (i : Nat) (a : Grid) : (s.setGrid i a).cobs = s.cobs := rfl
@[simp] theorem State.setGrid_cores (i : Nat) (a : Grid) : (s.setGrid i a).cores = s.cores := rfl
@[simp] theorem State.setGrid_mem (i : Nat) (a : Grid) : (s.setGrid i a).mem = s.mem := rfl
@[simp] theorem State.setGrid_scr (i : Nat) (a : Grid) : (s.setGrid i a).scr = s.scr := rfl
@[simp] theorem State.setGrid_faulty (i : Nat) (a : Grid) : (s.setGrid i a).faulty = s.faulty := rfl
@[simp] theorem State.setGrid_vds (i : Nat) (a : Grid) : (s.setGrid i a).vds = s.vds := rfl
@[simp] theorem State.setGrid_grids (i : Nat) (a : Grid) : (s.setGrid i a).grids = tset s.grids i a := rfl
@[simp] theorem State.setGrid_teams (i : Nat) (a : Grid) : (s.setGrid i a).teams = s.teams := rfl
@[simp] theorem State.setGrid_pods (i : Nat) (a : Grid) : (s.setGrid i a).pods = s.pods := rfl
@[simp] theorem State.setGrid_agents (i : Nat) (a : Grid) : (s.setGrid i a).agents = s.agents := rfl
@[simp] theorem State.setGrid_bufs (i : Nat) (a : Grid) : (s.setGrid i a).bufs = s.bufs := rfl
@[simp] theorem State.setGrid_copies (i : Nat) (a : Grid) : (s.setGrid i a).copies = s.copies := rfl
@[simp] theorem State.setGrid_tlb (i : Nat) (a : Grid) : (s.setGrid i a).tlb = s.tlb := rfl
@[simp] theorem State.setGrid_sideCache (i : Nat) (a : Grid) : (s.setGrid i a).sideCache = s.sideCache := rfl
@[simp] theorem State.setGrid_rows (i : Nat) (a : Grid) : (s.setGrid i a).rows = s.rows := rfl
@[simp] theorem State.setGrid_portWaits (i : Nat) (a : Grid) : (s.setGrid i a).portWaits = s.portWaits := rfl
@[simp] theorem State.setGrid_slices (i : Nat) (a : Grid) : (s.setGrid i a).slices = s.slices := rfl
@[simp] theorem State.setGrid_preReqs (i : Nat) (a : Grid) : (s.setGrid i a).preReqs = s.preReqs := rfl
@[simp] theorem State.setGrid_run (i : Nat) (a : Grid) : (s.setGrid i a).run = s.run := rfl

@[simp] theorem State.setTeam_now (i : Nat) (a : Team) : (s.setTeam i a).now = s.now := rfl
@[simp] theorem State.setTeam_pkg (i : Nat) (a : Team) : (s.setTeam i a).pkg = s.pkg := rfl
@[simp] theorem State.setTeam_link (i : Nat) (a : Team) : (s.setTeam i a).link = s.link := rfl
@[simp] theorem State.setTeam_x (i : Nat) (a : Team) : (s.setTeam i a).x = s.x := rfl
@[simp] theorem State.setTeam_dies (i : Nat) (a : Team) : (s.setTeam i a).dies = s.dies := rfl
@[simp] theorem State.setTeam_cobs (i : Nat) (a : Team) : (s.setTeam i a).cobs = s.cobs := rfl
@[simp] theorem State.setTeam_cores (i : Nat) (a : Team) : (s.setTeam i a).cores = s.cores := rfl
@[simp] theorem State.setTeam_mem (i : Nat) (a : Team) : (s.setTeam i a).mem = s.mem := rfl
@[simp] theorem State.setTeam_scr (i : Nat) (a : Team) : (s.setTeam i a).scr = s.scr := rfl
@[simp] theorem State.setTeam_faulty (i : Nat) (a : Team) : (s.setTeam i a).faulty = s.faulty := rfl
@[simp] theorem State.setTeam_vds (i : Nat) (a : Team) : (s.setTeam i a).vds = s.vds := rfl
@[simp] theorem State.setTeam_grids (i : Nat) (a : Team) : (s.setTeam i a).grids = s.grids := rfl
@[simp] theorem State.setTeam_teams (i : Nat) (a : Team) : (s.setTeam i a).teams = tset s.teams i a := rfl
@[simp] theorem State.setTeam_pods (i : Nat) (a : Team) : (s.setTeam i a).pods = s.pods := rfl
@[simp] theorem State.setTeam_agents (i : Nat) (a : Team) : (s.setTeam i a).agents = s.agents := rfl
@[simp] theorem State.setTeam_bufs (i : Nat) (a : Team) : (s.setTeam i a).bufs = s.bufs := rfl
@[simp] theorem State.setTeam_copies (i : Nat) (a : Team) : (s.setTeam i a).copies = s.copies := rfl
@[simp] theorem State.setTeam_tlb (i : Nat) (a : Team) : (s.setTeam i a).tlb = s.tlb := rfl
@[simp] theorem State.setTeam_sideCache (i : Nat) (a : Team) : (s.setTeam i a).sideCache = s.sideCache := rfl
@[simp] theorem State.setTeam_rows (i : Nat) (a : Team) : (s.setTeam i a).rows = s.rows := rfl
@[simp] theorem State.setTeam_portWaits (i : Nat) (a : Team) : (s.setTeam i a).portWaits = s.portWaits := rfl
@[simp] theorem State.setTeam_slices (i : Nat) (a : Team) : (s.setTeam i a).slices = s.slices := rfl
@[simp] theorem State.setTeam_preReqs (i : Nat) (a : Team) : (s.setTeam i a).preReqs = s.preReqs := rfl
@[simp] theorem State.setTeam_run (i : Nat) (a : Team) : (s.setTeam i a).run = s.run := rfl

@[simp] theorem State.setPod_now (i : Nat) (a : Pod) : (s.setPod i a).now = s.now := rfl
@[simp] theorem State.setPod_pkg (i : Nat) (a : Pod) : (s.setPod i a).pkg = s.pkg := rfl
@[simp] theorem State.setPod_link (i : Nat) (a : Pod) : (s.setPod i a).link = s.link := rfl
@[simp] theorem State.setPod_x (i : Nat) (a : Pod) : (s.setPod i a).x = s.x := rfl
@[simp] theorem State.setPod_dies (i : Nat) (a : Pod) : (s.setPod i a).dies = s.dies := rfl
@[simp] theorem State.setPod_cobs (i : Nat) (a : Pod) : (s.setPod i a).cobs = s.cobs := rfl
@[simp] theorem State.setPod_cores (i : Nat) (a : Pod) : (s.setPod i a).cores = s.cores := rfl
@[simp] theorem State.setPod_mem (i : Nat) (a : Pod) : (s.setPod i a).mem = s.mem := rfl
@[simp] theorem State.setPod_scr (i : Nat) (a : Pod) : (s.setPod i a).scr = s.scr := rfl
@[simp] theorem State.setPod_faulty (i : Nat) (a : Pod) : (s.setPod i a).faulty = s.faulty := rfl
@[simp] theorem State.setPod_vds (i : Nat) (a : Pod) : (s.setPod i a).vds = s.vds := rfl
@[simp] theorem State.setPod_grids (i : Nat) (a : Pod) : (s.setPod i a).grids = s.grids := rfl
@[simp] theorem State.setPod_teams (i : Nat) (a : Pod) : (s.setPod i a).teams = s.teams := rfl
@[simp] theorem State.setPod_pods (i : Nat) (a : Pod) : (s.setPod i a).pods = tset s.pods i a := rfl
@[simp] theorem State.setPod_agents (i : Nat) (a : Pod) : (s.setPod i a).agents = s.agents := rfl
@[simp] theorem State.setPod_bufs (i : Nat) (a : Pod) : (s.setPod i a).bufs = s.bufs := rfl
@[simp] theorem State.setPod_copies (i : Nat) (a : Pod) : (s.setPod i a).copies = s.copies := rfl
@[simp] theorem State.setPod_tlb (i : Nat) (a : Pod) : (s.setPod i a).tlb = s.tlb := rfl
@[simp] theorem State.setPod_sideCache (i : Nat) (a : Pod) : (s.setPod i a).sideCache = s.sideCache := rfl
@[simp] theorem State.setPod_rows (i : Nat) (a : Pod) : (s.setPod i a).rows = s.rows := rfl
@[simp] theorem State.setPod_portWaits (i : Nat) (a : Pod) : (s.setPod i a).portWaits = s.portWaits := rfl
@[simp] theorem State.setPod_slices (i : Nat) (a : Pod) : (s.setPod i a).slices = s.slices := rfl
@[simp] theorem State.setPod_preReqs (i : Nat) (a : Pod) : (s.setPod i a).preReqs = s.preReqs := rfl
@[simp] theorem State.setPod_run (i : Nat) (a : Pod) : (s.setPod i a).run = s.run := rfl

@[simp] theorem State.setBuf_now (i : Nat) (a : Buf) : (s.setBuf i a).now = s.now := rfl
@[simp] theorem State.setBuf_pkg (i : Nat) (a : Buf) : (s.setBuf i a).pkg = s.pkg := rfl
@[simp] theorem State.setBuf_link (i : Nat) (a : Buf) : (s.setBuf i a).link = s.link := rfl
@[simp] theorem State.setBuf_x (i : Nat) (a : Buf) : (s.setBuf i a).x = s.x := rfl
@[simp] theorem State.setBuf_dies (i : Nat) (a : Buf) : (s.setBuf i a).dies = s.dies := rfl
@[simp] theorem State.setBuf_cobs (i : Nat) (a : Buf) : (s.setBuf i a).cobs = s.cobs := rfl
@[simp] theorem State.setBuf_cores (i : Nat) (a : Buf) : (s.setBuf i a).cores = s.cores := rfl
@[simp] theorem State.setBuf_mem (i : Nat) (a : Buf) : (s.setBuf i a).mem = s.mem := rfl
@[simp] theorem State.setBuf_scr (i : Nat) (a : Buf) : (s.setBuf i a).scr = s.scr := rfl
@[simp] theorem State.setBuf_faulty (i : Nat) (a : Buf) : (s.setBuf i a).faulty = s.faulty := rfl
@[simp] theorem State.setBuf_vds (i : Nat) (a : Buf) : (s.setBuf i a).vds = s.vds := rfl
@[simp] theorem State.setBuf_grids (i : Nat) (a : Buf) : (s.setBuf i a).grids = s.grids := rfl
@[simp] theorem State.setBuf_teams (i : Nat) (a : Buf) : (s.setBuf i a).teams = s.teams := rfl
@[simp] theorem State.setBuf_pods (i : Nat) (a : Buf) : (s.setBuf i a).pods = s.pods := rfl
@[simp] theorem State.setBuf_agents (i : Nat) (a : Buf) : (s.setBuf i a).agents = s.agents := rfl
@[simp] theorem State.setBuf_bufs (i : Nat) (a : Buf) : (s.setBuf i a).bufs = tset s.bufs i a := rfl
@[simp] theorem State.setBuf_copies (i : Nat) (a : Buf) : (s.setBuf i a).copies = s.copies := rfl
@[simp] theorem State.setBuf_tlb (i : Nat) (a : Buf) : (s.setBuf i a).tlb = s.tlb := rfl
@[simp] theorem State.setBuf_sideCache (i : Nat) (a : Buf) : (s.setBuf i a).sideCache = s.sideCache := rfl
@[simp] theorem State.setBuf_rows (i : Nat) (a : Buf) : (s.setBuf i a).rows = s.rows := rfl
@[simp] theorem State.setBuf_portWaits (i : Nat) (a : Buf) : (s.setBuf i a).portWaits = s.portWaits := rfl
@[simp] theorem State.setBuf_slices (i : Nat) (a : Buf) : (s.setBuf i a).slices = s.slices := rfl
@[simp] theorem State.setBuf_preReqs (i : Nat) (a : Buf) : (s.setBuf i a).preReqs = s.preReqs := rfl
@[simp] theorem State.setBuf_run (i : Nat) (a : Buf) : (s.setBuf i a).run = s.run := rfl

@[simp] theorem State.setCopy_now (i : Nat) (a : Copy) : (s.setCopy i a).now = s.now := rfl
@[simp] theorem State.setCopy_pkg (i : Nat) (a : Copy) : (s.setCopy i a).pkg = s.pkg := rfl
@[simp] theorem State.setCopy_link (i : Nat) (a : Copy) : (s.setCopy i a).link = s.link := rfl
@[simp] theorem State.setCopy_x (i : Nat) (a : Copy) : (s.setCopy i a).x = s.x := rfl
@[simp] theorem State.setCopy_dies (i : Nat) (a : Copy) : (s.setCopy i a).dies = s.dies := rfl
@[simp] theorem State.setCopy_cobs (i : Nat) (a : Copy) : (s.setCopy i a).cobs = s.cobs := rfl
@[simp] theorem State.setCopy_cores (i : Nat) (a : Copy) : (s.setCopy i a).cores = s.cores := rfl
@[simp] theorem State.setCopy_mem (i : Nat) (a : Copy) : (s.setCopy i a).mem = s.mem := rfl
@[simp] theorem State.setCopy_scr (i : Nat) (a : Copy) : (s.setCopy i a).scr = s.scr := rfl
@[simp] theorem State.setCopy_faulty (i : Nat) (a : Copy) : (s.setCopy i a).faulty = s.faulty := rfl
@[simp] theorem State.setCopy_vds (i : Nat) (a : Copy) : (s.setCopy i a).vds = s.vds := rfl
@[simp] theorem State.setCopy_grids (i : Nat) (a : Copy) : (s.setCopy i a).grids = s.grids := rfl
@[simp] theorem State.setCopy_teams (i : Nat) (a : Copy) : (s.setCopy i a).teams = s.teams := rfl
@[simp] theorem State.setCopy_pods (i : Nat) (a : Copy) : (s.setCopy i a).pods = s.pods := rfl
@[simp] theorem State.setCopy_agents (i : Nat) (a : Copy) : (s.setCopy i a).agents = s.agents := rfl
@[simp] theorem State.setCopy_bufs (i : Nat) (a : Copy) : (s.setCopy i a).bufs = s.bufs := rfl
@[simp] theorem State.setCopy_copies (i : Nat) (a : Copy) : (s.setCopy i a).copies = tset s.copies i a := rfl
@[simp] theorem State.setCopy_tlb (i : Nat) (a : Copy) : (s.setCopy i a).tlb = s.tlb := rfl
@[simp] theorem State.setCopy_sideCache (i : Nat) (a : Copy) : (s.setCopy i a).sideCache = s.sideCache := rfl
@[simp] theorem State.setCopy_rows (i : Nat) (a : Copy) : (s.setCopy i a).rows = s.rows := rfl
@[simp] theorem State.setCopy_portWaits (i : Nat) (a : Copy) : (s.setCopy i a).portWaits = s.portWaits := rfl
@[simp] theorem State.setCopy_slices (i : Nat) (a : Copy) : (s.setCopy i a).slices = s.slices := rfl
@[simp] theorem State.setCopy_preReqs (i : Nat) (a : Copy) : (s.setCopy i a).preReqs = s.preReqs := rfl
@[simp] theorem State.setCopy_run (i : Nat) (a : Copy) : (s.setCopy i a).run = s.run := rfl

@[simp] theorem State.setVd_now (i : Nat) (a : Vd) : (s.setVd i a).now = s.now := rfl
@[simp] theorem State.setVd_pkg (i : Nat) (a : Vd) : (s.setVd i a).pkg = s.pkg := rfl
@[simp] theorem State.setVd_link (i : Nat) (a : Vd) : (s.setVd i a).link = s.link := rfl
@[simp] theorem State.setVd_x (i : Nat) (a : Vd) : (s.setVd i a).x = s.x := rfl
@[simp] theorem State.setVd_dies (i : Nat) (a : Vd) : (s.setVd i a).dies = s.dies := rfl
@[simp] theorem State.setVd_cobs (i : Nat) (a : Vd) : (s.setVd i a).cobs = s.cobs := rfl
@[simp] theorem State.setVd_cores (i : Nat) (a : Vd) : (s.setVd i a).cores = s.cores := rfl
@[simp] theorem State.setVd_mem (i : Nat) (a : Vd) : (s.setVd i a).mem = s.mem := rfl
@[simp] theorem State.setVd_scr (i : Nat) (a : Vd) : (s.setVd i a).scr = s.scr := rfl
@[simp] theorem State.setVd_faulty (i : Nat) (a : Vd) : (s.setVd i a).faulty = s.faulty := rfl
@[simp] theorem State.setVd_vds (i : Nat) (a : Vd) : (s.setVd i a).vds = tset s.vds i a := rfl
@[simp] theorem State.setVd_grids (i : Nat) (a : Vd) : (s.setVd i a).grids = s.grids := rfl
@[simp] theorem State.setVd_teams (i : Nat) (a : Vd) : (s.setVd i a).teams = s.teams := rfl
@[simp] theorem State.setVd_pods (i : Nat) (a : Vd) : (s.setVd i a).pods = s.pods := rfl
@[simp] theorem State.setVd_agents (i : Nat) (a : Vd) : (s.setVd i a).agents = s.agents := rfl
@[simp] theorem State.setVd_bufs (i : Nat) (a : Vd) : (s.setVd i a).bufs = s.bufs := rfl
@[simp] theorem State.setVd_copies (i : Nat) (a : Vd) : (s.setVd i a).copies = s.copies := rfl
@[simp] theorem State.setVd_tlb (i : Nat) (a : Vd) : (s.setVd i a).tlb = s.tlb := rfl
@[simp] theorem State.setVd_sideCache (i : Nat) (a : Vd) : (s.setVd i a).sideCache = s.sideCache := rfl
@[simp] theorem State.setVd_rows (i : Nat) (a : Vd) : (s.setVd i a).rows = s.rows := rfl
@[simp] theorem State.setVd_portWaits (i : Nat) (a : Vd) : (s.setVd i a).portWaits = s.portWaits := rfl
@[simp] theorem State.setVd_slices (i : Nat) (a : Vd) : (s.setVd i a).slices = s.slices := rfl
@[simp] theorem State.setVd_preReqs (i : Nat) (a : Vd) : (s.setVd i a).preReqs = s.preReqs := rfl
@[simp] theorem State.setVd_run (i : Nat) (a : Vd) : (s.setVd i a).run = s.run := rfl

@[simp] theorem State.setDie_now (i : Nat) (a : Die) : (s.setDie i a).now = s.now := rfl
@[simp] theorem State.setDie_pkg (i : Nat) (a : Die) : (s.setDie i a).pkg = s.pkg := rfl
@[simp] theorem State.setDie_link (i : Nat) (a : Die) : (s.setDie i a).link = s.link := rfl
@[simp] theorem State.setDie_x (i : Nat) (a : Die) : (s.setDie i a).x = s.x := rfl
@[simp] theorem State.setDie_dies (i : Nat) (a : Die) : (s.setDie i a).dies = tset s.dies i a := rfl
@[simp] theorem State.setDie_cobs (i : Nat) (a : Die) : (s.setDie i a).cobs = s.cobs := rfl
@[simp] theorem State.setDie_cores (i : Nat) (a : Die) : (s.setDie i a).cores = s.cores := rfl
@[simp] theorem State.setDie_mem (i : Nat) (a : Die) : (s.setDie i a).mem = s.mem := rfl
@[simp] theorem State.setDie_scr (i : Nat) (a : Die) : (s.setDie i a).scr = s.scr := rfl
@[simp] theorem State.setDie_faulty (i : Nat) (a : Die) : (s.setDie i a).faulty = s.faulty := rfl
@[simp] theorem State.setDie_vds (i : Nat) (a : Die) : (s.setDie i a).vds = s.vds := rfl
@[simp] theorem State.setDie_grids (i : Nat) (a : Die) : (s.setDie i a).grids = s.grids := rfl
@[simp] theorem State.setDie_teams (i : Nat) (a : Die) : (s.setDie i a).teams = s.teams := rfl
@[simp] theorem State.setDie_pods (i : Nat) (a : Die) : (s.setDie i a).pods = s.pods := rfl
@[simp] theorem State.setDie_agents (i : Nat) (a : Die) : (s.setDie i a).agents = s.agents := rfl
@[simp] theorem State.setDie_bufs (i : Nat) (a : Die) : (s.setDie i a).bufs = s.bufs := rfl
@[simp] theorem State.setDie_copies (i : Nat) (a : Die) : (s.setDie i a).copies = s.copies := rfl
@[simp] theorem State.setDie_tlb (i : Nat) (a : Die) : (s.setDie i a).tlb = s.tlb := rfl
@[simp] theorem State.setDie_sideCache (i : Nat) (a : Die) : (s.setDie i a).sideCache = s.sideCache := rfl
@[simp] theorem State.setDie_rows (i : Nat) (a : Die) : (s.setDie i a).rows = s.rows := rfl
@[simp] theorem State.setDie_portWaits (i : Nat) (a : Die) : (s.setDie i a).portWaits = s.portWaits := rfl
@[simp] theorem State.setDie_slices (i : Nat) (a : Die) : (s.setDie i a).slices = s.slices := rfl
@[simp] theorem State.setDie_preReqs (i : Nat) (a : Die) : (s.setDie i a).preReqs = s.preReqs := rfl
@[simp] theorem State.setDie_run (i : Nat) (a : Die) : (s.setDie i a).run = s.run := rfl

@[simp] theorem State.setCob_now (i : Nat) (a : CobSt) : (s.setCob i a).now = s.now := rfl
@[simp] theorem State.setCob_pkg (i : Nat) (a : CobSt) : (s.setCob i a).pkg = s.pkg := rfl
@[simp] theorem State.setCob_link (i : Nat) (a : CobSt) : (s.setCob i a).link = s.link := rfl
@[simp] theorem State.setCob_x (i : Nat) (a : CobSt) : (s.setCob i a).x = s.x := rfl
@[simp] theorem State.setCob_dies (i : Nat) (a : CobSt) : (s.setCob i a).dies = s.dies := rfl
@[simp] theorem State.setCob_cobs (i : Nat) (a : CobSt) : (s.setCob i a).cobs = tset s.cobs i a := rfl
@[simp] theorem State.setCob_cores (i : Nat) (a : CobSt) : (s.setCob i a).cores = s.cores := rfl
@[simp] theorem State.setCob_mem (i : Nat) (a : CobSt) : (s.setCob i a).mem = s.mem := rfl
@[simp] theorem State.setCob_scr (i : Nat) (a : CobSt) : (s.setCob i a).scr = s.scr := rfl
@[simp] theorem State.setCob_faulty (i : Nat) (a : CobSt) : (s.setCob i a).faulty = s.faulty := rfl
@[simp] theorem State.setCob_vds (i : Nat) (a : CobSt) : (s.setCob i a).vds = s.vds := rfl
@[simp] theorem State.setCob_grids (i : Nat) (a : CobSt) : (s.setCob i a).grids = s.grids := rfl
@[simp] theorem State.setCob_teams (i : Nat) (a : CobSt) : (s.setCob i a).teams = s.teams := rfl
@[simp] theorem State.setCob_pods (i : Nat) (a : CobSt) : (s.setCob i a).pods = s.pods := rfl
@[simp] theorem State.setCob_agents (i : Nat) (a : CobSt) : (s.setCob i a).agents = s.agents := rfl
@[simp] theorem State.setCob_bufs (i : Nat) (a : CobSt) : (s.setCob i a).bufs = s.bufs := rfl
@[simp] theorem State.setCob_copies (i : Nat) (a : CobSt) : (s.setCob i a).copies = s.copies := rfl
@[simp] theorem State.setCob_tlb (i : Nat) (a : CobSt) : (s.setCob i a).tlb = s.tlb := rfl
@[simp] theorem State.setCob_sideCache (i : Nat) (a : CobSt) : (s.setCob i a).sideCache = s.sideCache := rfl
@[simp] theorem State.setCob_rows (i : Nat) (a : CobSt) : (s.setCob i a).rows = s.rows := rfl
@[simp] theorem State.setCob_portWaits (i : Nat) (a : CobSt) : (s.setCob i a).portWaits = s.portWaits := rfl
@[simp] theorem State.setCob_slices (i : Nat) (a : CobSt) : (s.setCob i a).slices = s.slices := rfl
@[simp] theorem State.setCob_preReqs (i : Nat) (a : CobSt) : (s.setCob i a).preReqs = s.preReqs := rfl
@[simp] theorem State.setCob_run (i : Nat) (a : CobSt) : (s.setCob i a).run = s.run := rfl

@[simp] theorem State.setCore_now (i : Nat) (a : CoreSt) : (s.setCore i a).now = s.now := rfl
@[simp] theorem State.setCore_pkg (i : Nat) (a : CoreSt) : (s.setCore i a).pkg = s.pkg := rfl
@[simp] theorem State.setCore_link (i : Nat) (a : CoreSt) : (s.setCore i a).link = s.link := rfl
@[simp] theorem State.setCore_x (i : Nat) (a : CoreSt) : (s.setCore i a).x = s.x := rfl
@[simp] theorem State.setCore_dies (i : Nat) (a : CoreSt) : (s.setCore i a).dies = s.dies := rfl
@[simp] theorem State.setCore_cobs (i : Nat) (a : CoreSt) : (s.setCore i a).cobs = s.cobs := rfl
@[simp] theorem State.setCore_cores (i : Nat) (a : CoreSt) : (s.setCore i a).cores = tset s.cores i a := rfl
@[simp] theorem State.setCore_mem (i : Nat) (a : CoreSt) : (s.setCore i a).mem = s.mem := rfl
@[simp] theorem State.setCore_scr (i : Nat) (a : CoreSt) : (s.setCore i a).scr = s.scr := rfl
@[simp] theorem State.setCore_faulty (i : Nat) (a : CoreSt) : (s.setCore i a).faulty = s.faulty := rfl
@[simp] theorem State.setCore_vds (i : Nat) (a : CoreSt) : (s.setCore i a).vds = s.vds := rfl
@[simp] theorem State.setCore_grids (i : Nat) (a : CoreSt) : (s.setCore i a).grids = s.grids := rfl
@[simp] theorem State.setCore_teams (i : Nat) (a : CoreSt) : (s.setCore i a).teams = s.teams := rfl
@[simp] theorem State.setCore_pods (i : Nat) (a : CoreSt) : (s.setCore i a).pods = s.pods := rfl
@[simp] theorem State.setCore_agents (i : Nat) (a : CoreSt) : (s.setCore i a).agents = s.agents := rfl
@[simp] theorem State.setCore_bufs (i : Nat) (a : CoreSt) : (s.setCore i a).bufs = s.bufs := rfl
@[simp] theorem State.setCore_copies (i : Nat) (a : CoreSt) : (s.setCore i a).copies = s.copies := rfl
@[simp] theorem State.setCore_tlb (i : Nat) (a : CoreSt) : (s.setCore i a).tlb = s.tlb := rfl
@[simp] theorem State.setCore_sideCache (i : Nat) (a : CoreSt) : (s.setCore i a).sideCache = s.sideCache := rfl
@[simp] theorem State.setCore_rows (i : Nat) (a : CoreSt) : (s.setCore i a).rows = s.rows := rfl
@[simp] theorem State.setCore_portWaits (i : Nat) (a : CoreSt) : (s.setCore i a).portWaits = s.portWaits := rfl
@[simp] theorem State.setCore_slices (i : Nat) (a : CoreSt) : (s.setCore i a).slices = s.slices := rfl
@[simp] theorem State.setCore_preReqs (i : Nat) (a : CoreSt) : (s.setCore i a).preReqs = s.preReqs := rfl
@[simp] theorem State.setCore_run (i : Nat) (a : CoreSt) : (s.setCore i a).run = s.run := rfl

@[simp] theorem State.setImage_now (i : Nat) (a : Image) : (s.setImage i a).now = s.now := rfl
@[simp] theorem State.setImage_pkg (i : Nat) (a : Image) : (s.setImage i a).pkg = s.pkg := rfl
@[simp] theorem State.setImage_link (i : Nat) (a : Image) : (s.setImage i a).link = s.link := rfl
@[simp] theorem State.setImage_x (i : Nat) (a : Image) : (s.setImage i a).x = { s.x with images := tset s.x.images i a } := rfl
@[simp] theorem State.setImage_dies (i : Nat) (a : Image) : (s.setImage i a).dies = s.dies := rfl
@[simp] theorem State.setImage_cobs (i : Nat) (a : Image) : (s.setImage i a).cobs = s.cobs := rfl
@[simp] theorem State.setImage_cores (i : Nat) (a : Image) : (s.setImage i a).cores = s.cores := rfl
@[simp] theorem State.setImage_mem (i : Nat) (a : Image) : (s.setImage i a).mem = s.mem := rfl
@[simp] theorem State.setImage_scr (i : Nat) (a : Image) : (s.setImage i a).scr = s.scr := rfl
@[simp] theorem State.setImage_faulty (i : Nat) (a : Image) : (s.setImage i a).faulty = s.faulty := rfl
@[simp] theorem State.setImage_vds (i : Nat) (a : Image) : (s.setImage i a).vds = s.vds := rfl
@[simp] theorem State.setImage_grids (i : Nat) (a : Image) : (s.setImage i a).grids = s.grids := rfl
@[simp] theorem State.setImage_teams (i : Nat) (a : Image) : (s.setImage i a).teams = s.teams := rfl
@[simp] theorem State.setImage_pods (i : Nat) (a : Image) : (s.setImage i a).pods = s.pods := rfl
@[simp] theorem State.setImage_agents (i : Nat) (a : Image) : (s.setImage i a).agents = s.agents := rfl
@[simp] theorem State.setImage_bufs (i : Nat) (a : Image) : (s.setImage i a).bufs = s.bufs := rfl
@[simp] theorem State.setImage_copies (i : Nat) (a : Image) : (s.setImage i a).copies = s.copies := rfl
@[simp] theorem State.setImage_tlb (i : Nat) (a : Image) : (s.setImage i a).tlb = s.tlb := rfl
@[simp] theorem State.setImage_sideCache (i : Nat) (a : Image) : (s.setImage i a).sideCache = s.sideCache := rfl
@[simp] theorem State.setImage_rows (i : Nat) (a : Image) : (s.setImage i a).rows = s.rows := rfl
@[simp] theorem State.setImage_portWaits (i : Nat) (a : Image) : (s.setImage i a).portWaits = s.portWaits := rfl
@[simp] theorem State.setImage_slices (i : Nat) (a : Image) : (s.setImage i a).slices = s.slices := rfl
@[simp] theorem State.setImage_preReqs (i : Nat) (a : Image) : (s.setImage i a).preReqs = s.preReqs := rfl
@[simp] theorem State.setImage_run (i : Nat) (a : Image) : (s.setImage i a).run = s.run := rfl

@[simp] theorem State.setOwner_now (i o : Nat) : (s.setOwner i o).now = s.now := rfl
@[simp] theorem State.setOwner_pkg (i o : Nat) : (s.setOwner i o).pkg = s.pkg := rfl
@[simp] theorem State.setOwner_link (i o : Nat) : (s.setOwner i o).link = s.link := rfl
@[simp] theorem State.setOwner_x (i o : Nat) : (s.setOwner i o).x = { s.x with owner := tset s.x.owner i o } := rfl
@[simp] theorem State.setOwner_dies (i o : Nat) : (s.setOwner i o).dies = s.dies := rfl
@[simp] theorem State.setOwner_cobs (i o : Nat) : (s.setOwner i o).cobs = s.cobs := rfl
@[simp] theorem State.setOwner_cores (i o : Nat) : (s.setOwner i o).cores = s.cores := rfl
@[simp] theorem State.setOwner_mem (i o : Nat) : (s.setOwner i o).mem = s.mem := rfl
@[simp] theorem State.setOwner_scr (i o : Nat) : (s.setOwner i o).scr = s.scr := rfl
@[simp] theorem State.setOwner_faulty (i o : Nat) : (s.setOwner i o).faulty = s.faulty := rfl
@[simp] theorem State.setOwner_vds (i o : Nat) : (s.setOwner i o).vds = s.vds := rfl
@[simp] theorem State.setOwner_grids (i o : Nat) : (s.setOwner i o).grids = s.grids := rfl
@[simp] theorem State.setOwner_teams (i o : Nat) : (s.setOwner i o).teams = s.teams := rfl
@[simp] theorem State.setOwner_pods (i o : Nat) : (s.setOwner i o).pods = s.pods := rfl
@[simp] theorem State.setOwner_agents (i o : Nat) : (s.setOwner i o).agents = s.agents := rfl
@[simp] theorem State.setOwner_bufs (i o : Nat) : (s.setOwner i o).bufs = s.bufs := rfl
@[simp] theorem State.setOwner_copies (i o : Nat) : (s.setOwner i o).copies = s.copies := rfl
@[simp] theorem State.setOwner_tlb (i o : Nat) : (s.setOwner i o).tlb = s.tlb := rfl
@[simp] theorem State.setOwner_sideCache (i o : Nat) : (s.setOwner i o).sideCache = s.sideCache := rfl
@[simp] theorem State.setOwner_rows (i o : Nat) : (s.setOwner i o).rows = s.rows := rfl
@[simp] theorem State.setOwner_portWaits (i o : Nat) : (s.setOwner i o).portWaits = s.portWaits := rfl
@[simp] theorem State.setOwner_slices (i o : Nat) : (s.setOwner i o).slices = s.slices := rfl
@[simp] theorem State.setOwner_preReqs (i o : Nat) : (s.setOwner i o).preReqs = s.preReqs := rfl
@[simp] theorem State.setOwner_run (i o : Nat) : (s.setOwner i o).run = s.run := rfl

@[simp] theorem State.setRow_now (c p k : Nat) (r : Row) : (s.setRow c p k r).now = s.now := rfl
@[simp] theorem State.setRow_pkg (c p k : Nat) (r : Row) : (s.setRow c p k r).pkg = s.pkg := rfl
@[simp] theorem State.setRow_link (c p k : Nat) (r : Row) : (s.setRow c p k r).link = s.link := rfl
@[simp] theorem State.setRow_x (c p k : Nat) (r : Row) : (s.setRow c p k r).x = s.x := rfl
@[simp] theorem State.setRow_dies (c p k : Nat) (r : Row) : (s.setRow c p k r).dies = s.dies := rfl
@[simp] theorem State.setRow_cobs (c p k : Nat) (r : Row) : (s.setRow c p k r).cobs = s.cobs := rfl
@[simp] theorem State.setRow_cores (c p k : Nat) (r : Row) : (s.setRow c p k r).cores = s.cores := rfl
@[simp] theorem State.setRow_mem (c p k : Nat) (r : Row) : (s.setRow c p k r).mem = s.mem := rfl
@[simp] theorem State.setRow_scr (c p k : Nat) (r : Row) : (s.setRow c p k r).scr = s.scr := rfl
@[simp] theorem State.setRow_faulty (c p k : Nat) (r : Row) : (s.setRow c p k r).faulty = s.faulty := rfl
@[simp] theorem State.setRow_vds (c p k : Nat) (r : Row) : (s.setRow c p k r).vds = s.vds := rfl
@[simp] theorem State.setRow_grids (c p k : Nat) (r : Row) : (s.setRow c p k r).grids = s.grids := rfl
@[simp] theorem State.setRow_teams (c p k : Nat) (r : Row) : (s.setRow c p k r).teams = s.teams := rfl
@[simp] theorem State.setRow_pods (c p k : Nat) (r : Row) : (s.setRow c p k r).pods = s.pods := rfl
@[simp] theorem State.setRow_agents (c p k : Nat) (r : Row) : (s.setRow c p k r).agents = s.agents := rfl
@[simp] theorem State.setRow_bufs (c p k : Nat) (r : Row) : (s.setRow c p k r).bufs = s.bufs := rfl
@[simp] theorem State.setRow_copies (c p k : Nat) (r : Row) : (s.setRow c p k r).copies = s.copies := rfl
@[simp] theorem State.setRow_tlb (c p k : Nat) (r : Row) : (s.setRow c p k r).tlb = s.tlb := rfl
@[simp] theorem State.setRow_sideCache (c p k : Nat) (r : Row) : (s.setRow c p k r).sideCache = s.sideCache := rfl
@[simp] theorem State.setRow_rows (c p k : Nat) (r : Row) : (s.setRow c p k r).rows = tset s.rows (rowKey c p k) r := rfl
@[simp] theorem State.setRow_portWaits (c p k : Nat) (r : Row) : (s.setRow c p k r).portWaits = s.portWaits := rfl
@[simp] theorem State.setRow_slices (c p k : Nat) (r : Row) : (s.setRow c p k r).slices = s.slices := rfl
@[simp] theorem State.setRow_preReqs (c p k : Nat) (r : Row) : (s.setRow c p k r).preReqs = s.preReqs := rfl
@[simp] theorem State.setRow_run (c p k : Nat) (r : Row) : (s.setRow c p k r).run = s.run := rfl

@[simp] theorem State.send_now (m : Msg) : (s.send m).now = s.now := rfl
@[simp] theorem State.send_pkg (m : Msg) : (s.send m).pkg = s.pkg := rfl
@[simp] theorem State.send_link (m : Msg) : (s.send m).link = s.link := rfl
@[simp] theorem State.send_x (m : Msg) : (s.send m).x = s.x := rfl
@[simp] theorem State.send_dies (m : Msg) : (s.send m).dies = s.dies := rfl
@[simp] theorem State.send_cobs (m : Msg) : (s.send m).cobs = s.cobs := rfl
@[simp] theorem State.send_cores (m : Msg) : (s.send m).cores = s.cores := rfl
@[simp] theorem State.send_mem (m : Msg) : (s.send m).mem = s.mem := rfl
@[simp] theorem State.send_scr (m : Msg) : (s.send m).scr = s.scr := rfl
@[simp] theorem State.send_faulty (m : Msg) : (s.send m).faulty = s.faulty := rfl
@[simp] theorem State.send_vds (m : Msg) : (s.send m).vds = s.vds := rfl
@[simp] theorem State.send_grids (m : Msg) : (s.send m).grids = s.grids := rfl
@[simp] theorem State.send_teams (m : Msg) : (s.send m).teams = s.teams := rfl
@[simp] theorem State.send_pods (m : Msg) : (s.send m).pods = s.pods := rfl
@[simp] theorem State.send_agents (m : Msg) : (s.send m).agents = s.agents := rfl
@[simp] theorem State.send_bufs (m : Msg) : (s.send m).bufs = s.bufs := rfl
@[simp] theorem State.send_copies (m : Msg) : (s.send m).copies = s.copies := rfl
@[simp] theorem State.send_tlb (m : Msg) : (s.send m).tlb = s.tlb := rfl
@[simp] theorem State.send_sideCache (m : Msg) : (s.send m).sideCache = s.sideCache := rfl
@[simp] theorem State.send_rows (m : Msg) : (s.send m).rows = s.rows := rfl
@[simp] theorem State.send_portWaits (m : Msg) : (s.send m).portWaits = s.portWaits := rfl
@[simp] theorem State.send_slices (m : Msg) : (s.send m).slices = s.slices := rfl
@[simp] theorem State.send_preReqs (m : Msg) : (s.send m).preReqs = s.preReqs := rfl
@[simp] theorem State.send_run (m : Msg) : (s.send m).run = { s.run with out := s.run.out ++ [m] } := rfl

@[simp] theorem State.fresh_now : s.fresh.2.now = s.now := rfl
@[simp] theorem State.fresh_pkg : s.fresh.2.pkg = s.pkg := rfl
@[simp] theorem State.fresh_link : s.fresh.2.link = s.link := rfl
@[simp] theorem State.fresh_x : s.fresh.2.x = s.x := rfl
@[simp] theorem State.fresh_dies : s.fresh.2.dies = s.dies := rfl
@[simp] theorem State.fresh_cobs : s.fresh.2.cobs = s.cobs := rfl
@[simp] theorem State.fresh_cores : s.fresh.2.cores = s.cores := rfl
@[simp] theorem State.fresh_mem : s.fresh.2.mem = s.mem := rfl
@[simp] theorem State.fresh_scr : s.fresh.2.scr = s.scr := rfl
@[simp] theorem State.fresh_faulty : s.fresh.2.faulty = s.faulty := rfl
@[simp] theorem State.fresh_vds : s.fresh.2.vds = s.vds := rfl
@[simp] theorem State.fresh_grids : s.fresh.2.grids = s.grids := rfl
@[simp] theorem State.fresh_teams : s.fresh.2.teams = s.teams := rfl
@[simp] theorem State.fresh_pods : s.fresh.2.pods = s.pods := rfl
@[simp] theorem State.fresh_agents : s.fresh.2.agents = s.agents := rfl
@[simp] theorem State.fresh_bufs : s.fresh.2.bufs = s.bufs := rfl
@[simp] theorem State.fresh_copies : s.fresh.2.copies = s.copies := rfl
@[simp] theorem State.fresh_tlb : s.fresh.2.tlb = s.tlb := rfl
@[simp] theorem State.fresh_sideCache : s.fresh.2.sideCache = s.sideCache := rfl
@[simp] theorem State.fresh_rows : s.fresh.2.rows = s.rows := rfl
@[simp] theorem State.fresh_portWaits : s.fresh.2.portWaits = s.portWaits := rfl
@[simp] theorem State.fresh_slices : s.fresh.2.slices = s.slices := rfl
@[simp] theorem State.fresh_preReqs : s.fresh.2.preReqs = s.preReqs := rfl
@[simp] theorem State.fresh_run : s.fresh.2.run = { s.run with free := s.run.free + 1 } := rfl

@[simp] theorem State.newId_now : s.newId.2.now = s.now := rfl
@[simp] theorem State.newId_pkg : s.newId.2.pkg = s.pkg := rfl
@[simp] theorem State.newId_link : s.newId.2.link = s.link := rfl
@[simp] theorem State.newId_x : s.newId.2.x = s.x := rfl
@[simp] theorem State.newId_dies : s.newId.2.dies = s.dies := rfl
@[simp] theorem State.newId_cobs : s.newId.2.cobs = s.cobs := rfl
@[simp] theorem State.newId_cores : s.newId.2.cores = s.cores := rfl
@[simp] theorem State.newId_mem : s.newId.2.mem = s.mem := rfl
@[simp] theorem State.newId_scr : s.newId.2.scr = s.scr := rfl
@[simp] theorem State.newId_faulty : s.newId.2.faulty = s.faulty := rfl
@[simp] theorem State.newId_vds : s.newId.2.vds = s.vds := rfl
@[simp] theorem State.newId_grids : s.newId.2.grids = s.grids := rfl
@[simp] theorem State.newId_teams : s.newId.2.teams = s.teams := rfl
@[simp] theorem State.newId_pods : s.newId.2.pods = s.pods := rfl
@[simp] theorem State.newId_agents : s.newId.2.agents = s.agents := rfl
@[simp] theorem State.newId_bufs : s.newId.2.bufs = s.bufs := rfl
@[simp] theorem State.newId_copies : s.newId.2.copies = s.copies := rfl
@[simp] theorem State.newId_tlb : s.newId.2.tlb = s.tlb := rfl
@[simp] theorem State.newId_sideCache : s.newId.2.sideCache = s.sideCache := rfl
@[simp] theorem State.newId_rows : s.newId.2.rows = s.rows := rfl
@[simp] theorem State.newId_portWaits : s.newId.2.portWaits = s.portWaits := rfl
@[simp] theorem State.newId_slices : s.newId.2.slices = s.slices := rfl
@[simp] theorem State.newId_preReqs : s.newId.2.preReqs = s.preReqs := rfl
@[simp] theorem State.newId_run : s.newId.2.run = { s.run with nextId := s.run.nextId + 1 } := rfl

@[simp] theorem State.putBytes_mem_now (a : Nat) (bs : List Byte) :
    (s.putBytes (.mem a) bs).now = s.now := rfl
@[simp] theorem State.putBytes_mem_pkg (a : Nat) (bs : List Byte) :
    (s.putBytes (.mem a) bs).pkg = s.pkg := rfl
@[simp] theorem State.putBytes_mem_link (a : Nat) (bs : List Byte) :
    (s.putBytes (.mem a) bs).link = s.link := rfl
@[simp] theorem State.putBytes_mem_x (a : Nat) (bs : List Byte) :
    (s.putBytes (.mem a) bs).x = s.x := rfl
@[simp] theorem State.putBytes_mem_dies (a : Nat) (bs : List Byte) :
    (s.putBytes (.mem a) bs).dies = s.dies := rfl
@[simp] theorem State.putBytes_mem_cobs (a : Nat) (bs : List Byte) :
    (s.putBytes (.mem a) bs).cobs = s.cobs := rfl
@[simp] theorem State.putBytes_mem_cores (a : Nat) (bs : List Byte) :
    (s.putBytes (.mem a) bs).cores = s.cores := rfl
@[simp] theorem State.putBytes_mem_mem (a : Nat) (bs : List Byte) :
    (s.putBytes (.mem a) bs).mem = memPuts s.mem a bs := rfl
@[simp] theorem State.putBytes_mem_scr (a : Nat) (bs : List Byte) :
    (s.putBytes (.mem a) bs).scr = s.scr := rfl
@[simp] theorem State.putBytes_mem_faulty (a : Nat) (bs : List Byte) :
    (s.putBytes (.mem a) bs).faulty = s.faulty := rfl
@[simp] theorem State.putBytes_mem_vds (a : Nat) (bs : List Byte) :
    (s.putBytes (.mem a) bs).vds = s.vds := rfl
@[simp] theorem State.putBytes_mem_grids (a : Nat) (bs : List Byte) :
    (s.putBytes (.mem a) bs).grids = s.grids := rfl
@[simp] theorem State.putBytes_mem_teams (a : Nat) (bs : List Byte) :
    (s.putBytes (.mem a) bs).teams = s.teams := rfl
@[simp] theorem State.putBytes_mem_pods (a : Nat) (bs : List Byte) :
    (s.putBytes (.mem a) bs).pods = s.pods := rfl
@[simp] theorem State.putBytes_mem_agents (a : Nat) (bs : List Byte) :
    (s.putBytes (.mem a) bs).agents = s.agents := rfl
@[simp] theorem State.putBytes_mem_bufs (a : Nat) (bs : List Byte) :
    (s.putBytes (.mem a) bs).bufs = s.bufs := rfl
@[simp] theorem State.putBytes_mem_copies (a : Nat) (bs : List Byte) :
    (s.putBytes (.mem a) bs).copies = s.copies := rfl
@[simp] theorem State.putBytes_mem_tlb (a : Nat) (bs : List Byte) :
    (s.putBytes (.mem a) bs).tlb = s.tlb := rfl
@[simp] theorem State.putBytes_mem_sideCache (a : Nat) (bs : List Byte) :
    (s.putBytes (.mem a) bs).sideCache = s.sideCache := rfl
@[simp] theorem State.putBytes_mem_rows (a : Nat) (bs : List Byte) :
    (s.putBytes (.mem a) bs).rows = s.rows := rfl
@[simp] theorem State.putBytes_mem_portWaits (a : Nat) (bs : List Byte) :
    (s.putBytes (.mem a) bs).portWaits = s.portWaits := rfl
@[simp] theorem State.putBytes_mem_slices (a : Nat) (bs : List Byte) :
    (s.putBytes (.mem a) bs).slices = s.slices := rfl
@[simp] theorem State.putBytes_mem_preReqs (a : Nat) (bs : List Byte) :
    (s.putBytes (.mem a) bs).preReqs = s.preReqs := rfl
@[simp] theorem State.putBytes_mem_run (a : Nat) (bs : List Byte) :
    (s.putBytes (.mem a) bs).run = s.run := rfl

@[simp] theorem State.putBytes_scr_now (c o : Nat) (bs : List Byte) :
    (s.putBytes (.scr c o) bs).now = s.now := rfl
@[simp] theorem State.putBytes_scr_pkg (c o : Nat) (bs : List Byte) :
    (s.putBytes (.scr c o) bs).pkg = s.pkg := rfl
@[simp] theorem State.putBytes_scr_link (c o : Nat) (bs : List Byte) :
    (s.putBytes (.scr c o) bs).link = s.link := rfl
@[simp] theorem State.putBytes_scr_x (c o : Nat) (bs : List Byte) :
    (s.putBytes (.scr c o) bs).x = s.x := rfl
@[simp] theorem State.putBytes_scr_dies (c o : Nat) (bs : List Byte) :
    (s.putBytes (.scr c o) bs).dies = s.dies := rfl
@[simp] theorem State.putBytes_scr_cobs (c o : Nat) (bs : List Byte) :
    (s.putBytes (.scr c o) bs).cobs = s.cobs := rfl
@[simp] theorem State.putBytes_scr_cores (c o : Nat) (bs : List Byte) :
    (s.putBytes (.scr c o) bs).cores = s.cores := rfl
@[simp] theorem State.putBytes_scr_mem (c o : Nat) (bs : List Byte) :
    (s.putBytes (.scr c o) bs).mem = s.mem := rfl
@[simp] theorem State.putBytes_scr_scr (c o : Nat) (bs : List Byte) :
    (s.putBytes (.scr c o) bs).scr = memPuts s.scr (scrKey c o) bs := rfl
@[simp] theorem State.putBytes_scr_faulty (c o : Nat) (bs : List Byte) :
    (s.putBytes (.scr c o) bs).faulty = s.faulty := rfl
@[simp] theorem State.putBytes_scr_vds (c o : Nat) (bs : List Byte) :
    (s.putBytes (.scr c o) bs).vds = s.vds := rfl
@[simp] theorem State.putBytes_scr_grids (c o : Nat) (bs : List Byte) :
    (s.putBytes (.scr c o) bs).grids = s.grids := rfl
@[simp] theorem State.putBytes_scr_teams (c o : Nat) (bs : List Byte) :
    (s.putBytes (.scr c o) bs).teams = s.teams := rfl
@[simp] theorem State.putBytes_scr_pods (c o : Nat) (bs : List Byte) :
    (s.putBytes (.scr c o) bs).pods = s.pods := rfl
@[simp] theorem State.putBytes_scr_agents (c o : Nat) (bs : List Byte) :
    (s.putBytes (.scr c o) bs).agents = s.agents := rfl
@[simp] theorem State.putBytes_scr_bufs (c o : Nat) (bs : List Byte) :
    (s.putBytes (.scr c o) bs).bufs = s.bufs := rfl
@[simp] theorem State.putBytes_scr_copies (c o : Nat) (bs : List Byte) :
    (s.putBytes (.scr c o) bs).copies = s.copies := rfl
@[simp] theorem State.putBytes_scr_tlb (c o : Nat) (bs : List Byte) :
    (s.putBytes (.scr c o) bs).tlb = s.tlb := rfl
@[simp] theorem State.putBytes_scr_sideCache (c o : Nat) (bs : List Byte) :
    (s.putBytes (.scr c o) bs).sideCache = s.sideCache := rfl
@[simp] theorem State.putBytes_scr_rows (c o : Nat) (bs : List Byte) :
    (s.putBytes (.scr c o) bs).rows = s.rows := rfl
@[simp] theorem State.putBytes_scr_portWaits (c o : Nat) (bs : List Byte) :
    (s.putBytes (.scr c o) bs).portWaits = s.portWaits := rfl
@[simp] theorem State.putBytes_scr_slices (c o : Nat) (bs : List Byte) :
    (s.putBytes (.scr c o) bs).slices = s.slices := rfl
@[simp] theorem State.putBytes_scr_preReqs (c o : Nat) (bs : List Byte) :
    (s.putBytes (.scr c o) bs).preReqs = s.preReqs := rfl
@[simp] theorem State.putBytes_scr_run (c o : Nat) (bs : List Byte) :
    (s.putBytes (.scr c o) bs).run = s.run := rfl

@[simp] theorem State.written_now (l : Loc) (n : Nat) : (s.written l n).now = s.now := rfl
@[simp] theorem State.written_pkg (l : Loc) (n : Nat) : (s.written l n).pkg = s.pkg := rfl
@[simp] theorem State.written_link (l : Loc) (n : Nat) : (s.written l n).link = s.link := rfl
@[simp] theorem State.written_x (l : Loc) (n : Nat) : (s.written l n).x = s.x := rfl
@[simp] theorem State.written_cobs (l : Loc) (n : Nat) : (s.written l n).cobs = s.cobs := rfl
@[simp] theorem State.written_cores (l : Loc) (n : Nat) : (s.written l n).cores = s.cores := rfl
@[simp] theorem State.written_mem (l : Loc) (n : Nat) : (s.written l n).mem = s.mem := rfl
@[simp] theorem State.written_scr (l : Loc) (n : Nat) : (s.written l n).scr = s.scr := rfl
@[simp] theorem State.written_faulty (l : Loc) (n : Nat) : (s.written l n).faulty = s.faulty := rfl
@[simp] theorem State.written_vds (l : Loc) (n : Nat) : (s.written l n).vds = s.vds := rfl
@[simp] theorem State.written_bufs (l : Loc) (n : Nat) : (s.written l n).bufs = s.bufs := rfl
@[simp] theorem State.written_copies (l : Loc) (n : Nat) : (s.written l n).copies = s.copies := rfl
@[simp] theorem State.written_tlb (l : Loc) (n : Nat) : (s.written l n).tlb = s.tlb := rfl
@[simp] theorem State.written_sideCache (l : Loc) (n : Nat) : (s.written l n).sideCache = s.sideCache := rfl
@[simp] theorem State.written_rows (l : Loc) (n : Nat) : (s.written l n).rows = s.rows := rfl
@[simp] theorem State.written_portWaits (l : Loc) (n : Nat) : (s.written l n).portWaits = s.portWaits := rfl
@[simp] theorem State.written_slices (l : Loc) (n : Nat) : (s.written l n).slices = s.slices := rfl
@[simp] theorem State.written_preReqs (l : Loc) (n : Nat) : (s.written l n).preReqs = s.preReqs := rfl
@[simp] theorem State.written_run (l : Loc) (n : Nat) : (s.written l n).run = s.run := rfl

/-! The updates that are other updates of a whole entry. -/

@[simp] theorem State.setCtx_eq (v c : Nat) (x : Ctx) :
    s.setCtx v c x = s.setVd v { s.vd v with ctxs := tset (s.vd v).ctxs c x } := rfl
@[simp] theorem State.setStream_eq (v n : Nat) (x : Stream) :
    s.setStream v n x = s.setVd v { s.vd v with streams := tset (s.vd v).streams n x } := rfl
@[simp] theorem State.setReg_eq (v n : Nat) (x : Reg) :
    s.setReg v n x = s.setVd v { s.vd v with regs := tset (s.vd v).regs n x } := rfl
@[simp] theorem State.setMig_eq (d n : Nat) (x : Mig) :
    s.setMig d n x = s.setDie d { s.die d with migs := tset (s.die d).migs n x } := rfl
@[simp] theorem State.fresh_fst : s.fresh.1 = Config.freeNat s.run.free := rfl
@[simp] theorem State.newId_fst : s.newId.1 = s.run.nextId := rfl
@[simp] theorem State.write_eq (l : Loc) (bs : List Byte) : s.write l bs = (s.putBytes l bs).written l bs.length := rfl

end Sys2Proof.Machine
end

