-- ==== Sys2Proof/Laws/Tab.lean ====
section
/-!
SUPPORT. Tables: what is read after a value is put, removed or changed.
-/
namespace Sys2Proof.Machine

variable {α : Type}

@[simp] theorem tget_tset_self (t : Tab α) (i : Nat) (x : α) : tget (tset t i x) i = some x := by
  induction t with
  | nil => simp [tset, tget]
  | cons e t ih =>
    obtain ⟨k, v⟩ := e
    simp only [tset]
    split
    · simp [tget]
    · split <;> simp_all [tget]

theorem tget_tset_ne (t : Tab α) {i j : Nat} (x : α) (h : j ≠ i) : tget (tset t i x) j = tget t j := by
  induction t with
  | nil => simp [tset, tget, h]
  | cons e t ih =>
    obtain ⟨k, v⟩ := e
    simp only [tset]
    split
    · simp_all [tget]
    · split <;> simp_all [tget]

theorem tget_tset (t : Tab α) (i j : Nat) (x : α) : tget (tset t i x) j = if j = i then some x else tget t j := by
  by_cases h : j = i
  · subst h; simp
  · simp [h, tget_tset_ne t x h]

@[simp] theorem tget_tdel_self (t : Tab α) (i : Nat) : tget (tdel t i) i = none := by
  induction t with
  | nil => rfl
  | cons e t ih =>
    obtain ⟨k, v⟩ := e
    simp only [tdel]
    split
    · exact ih
    · simp_all [tget]

theorem tget_tdel_ne (t : Tab α) {i j : Nat} (h : j ≠ i) : tget (tdel t i) j = tget t j := by
  induction t with
  | nil => rfl
  | cons e t ih =>
    obtain ⟨k, v⟩ := e
    simp only [tdel]
    split
    · simp_all [tget]
    · simp_all [tget]

@[simp] theorem tget_tmap (t : Tab α) (f : Nat → α → α) (i : Nat) : tget (tmap t f) i = (tget t i).map (f i) := by
  induction t with
  | nil => rfl
  | cons e t ih =>
    obtain ⟨k, v⟩ := e
    simp only [tmap, List.map_cons, tget] at *
    split
    · simp_all
    · exact ih

@[simp] theorem tset_tset_self (t : Tab α) (i : Nat) (x y : α) : tset (tset t i x) i y = tset t i y := by
  induction t with
  | nil => simp [tset]
  | cons e t ih =>
    obtain ⟨k, v⟩ := e
    simp only [tset]
    split
    · simp [tset]
    · split
      · simp [tset]
      · simp_all [tset]

theorem tgetD_tset (t : Tab α) (i j : Nat) (x d : α) :
    tgetD (tset t i x) j d = if j = i then x else tgetD t j d := by
  simp only [tgetD, tget_tset]
  split <;> rfl

@[simp] theorem tgetD_tset_self (t : Tab α) (i : Nat) (x d : α) : tgetD (tset t i x) i d = x := by simp [tgetD]

theorem tgetD_tset_ne (t : Tab α) {i j : Nat} (x d : α) (h : j ≠ i) : tgetD (tset t i x) j d = tgetD t j d := by
  simp [tgetD, tget_tset_ne t x h]

end Sys2Proof.Machine
end

