-- ==== Sys2Proof/Laws/Issue.lean ====
section
/-!
SUPPORT. What `issue` and the shapes built on it come to: one lemma per shape, cited instead of unfolding them.
-/
namespace Sys2Proof.Machine

/-! Effects. -/

@[simp] theorem onRd_ok {α : Type} (s : State) (a : Agent) (x : α) (k : α → Fx) : onRd s a (.ok x) k = k x := rfl
@[simp] theorem onRd_fault {α : Type} (s : State) (a : Agent) (c ad : Nat) (k : α → Fx) :
    onRd s a (.fault c ad) k = .fault (faultAt s a c ad) := rfl
@[simp] theorem onRd_wait {α : Type} (s : State) (a : Agent) (k : α → Fx) : onRd s a .wait k = .keep s := rfl

@[simp] theorem andThen_ok {α β : Type} (x : α) (k : α → Rd β) : (Rd.ok x).andThen k = k x := rfl
@[simp] theorem andThen_fault {α β : Type} (c ad : Nat) (k : α → Rd β) : (Rd.fault c ad).andThen k = .fault c ad := rfl
@[simp] theorem andThen_wait {α β : Type} (k : α → Rd β) : Rd.wait.andThen k = .wait := rfl

theorem andThen_eq_ok {α β : Type} {r : Rd α} {k : α → Rd β} {y : β} (h : r.andThen k = .ok y) :
    ∃ x, r = .ok x ∧ k x = .ok y := by
  cases r with
  | ok x => exact ⟨x, rfl, h⟩
  | fault c ad => cases h
  | wait => cases h

/-- Sources read together were each read. -/
theorem srcs_cons {a : Agent} {o : Opnd} {os : List Opnd} {xs : List Nat} (h : a.srcs (o :: os) = .ok xs) :
    ∃ x ys, xs = x :: ys ∧ a.src o = .ok x ∧ a.srcs os = .ok ys := by
  obtain ⟨x, hx, h⟩ := andThen_eq_ok h
  obtain ⟨ys, hy, h⟩ := andThen_eq_ok h
  cases h
  exact ⟨x, ys, rfl, hx, hy⟩

/-- A fault is given the agent before the effect counts; without one the effect stands. -/
theorem finish_done {s s' : State} {i : Nat} {a : Agent} {st : Bool} (h : a.takeDue false s.run.word = none) :
    s.finish i a st (.done s') = s'.advance i st none := by simp [State.finish, h]

theorem finish_jump {s s' : State} {i : Nat} {a : Agent} {st : Bool} {p : DWord}
    (h : a.takeDue false s.run.word = none) :
    s.finish i a st (.jump p s') = s'.advance i st (some p) := by simp [State.finish, h]

theorem finish_moved {s s' : State} {i : Nat} {a : Agent} {st : Bool} (h : a.takeDue false s.run.word = none) :
    s.finish i a st (.moved s') = s'.markSettle i st := by simp [State.finish, h]

theorem finish_fault {s : State} {i : Nat} {a : Agent} {st : Bool} {f : FaultInfo} :
    s.finish i a st (.fault f) = s.raise i f := rfl

/-- An agent in focus that may execute the class runs the body under its guard. -/
theorem issueG_run {c : Cls} {hdl : Bool} {h : Hdr} {body : Bool → State → Nat → Agent → Fx} {s : State} {i : Nat}
    {a : Agent} {g : Bool} (hs : Stands s i a) (hc : c.forbids a = false) (hh : hdl = true → a.inHandler = true)
    (hg : a.guard h = .ok g) :
    issueG c hdl h body s = .next (s.finish i a h.settle (body g s i a)) := by
  cases hdl <;> simp_all [issueG, guardedFx, hs.cur, hs.here]

theorem issue_run {c : Cls} {hdl : Bool} {h : Hdr} {off : Agent → Rd Agent} {body : State → Nat → Agent → Fx}
    {s : State} {i : Nat} {a : Agent} (hs : Issues s i a h) (hc : c.forbids a = false)
    (hh : hdl = true → a.inHandler = true) :
    issue c hdl h off body s = .next (s.finish i a h.settle (body s i a)) := by
  simp [issue, issueG_run hs.toStands hc hh hs.guard, issueFx]

/-- The effect of an instruction that goes on to the next one. -/
theorem issue_done {c : Cls} {hdl : Bool} {h : Hdr} {off : Agent → Rd Agent} {body : State → Nat → Agent → Fx}
    {s s' : State} {i : Nat} {a : Agent} (hs : Issues s i a h) (hc : c.forbids a = false)
    (hh : hdl = true → a.inHandler = true) (hb : body s i a = .done s') :
    issue c hdl h off body s = .next (s'.advance i h.settle none) := by
  rw [issue_run hs hc hh, hb, finish_done hs.clear]

theorem issue_jump {c : Cls} {hdl : Bool} {h : Hdr} {off : Agent → Rd Agent} {body : State → Nat → Agent → Fx}
    {s s' : State} {i : Nat} {a : Agent} {p : DWord} (hs : Issues s i a h) (hc : c.forbids a = false)
    (hh : hdl = true → a.inHandler = true) (hb : body s i a = .jump p s') :
    issue c hdl h off body s = .next (s'.advance i h.settle (some p)) := by
  rw [issue_run hs hc hh, hb, finish_jump hs.clear]

theorem issue_moved {c : Cls} {hdl : Bool} {h : Hdr} {off : Agent → Rd Agent} {body : State → Nat → Agent → Fx}
    {s s' : State} {i : Nat} {a : Agent} (hs : Issues s i a h) (hc : c.forbids a = false)
    (hh : hdl = true → a.inHandler = true) (hb : body s i a = .moved s') :
    issue c hdl h off body s = .next (s'.markSettle i h.settle) := by
  rw [issue_run hs hc hh, hb, finish_moved hs.clear]

theorem issue_fault {c : Cls} {hdl : Bool} {h : Hdr} {off : Agent → Rd Agent} {body : State → Nat → Agent → Fx}
    {s : State} {i : Nat} {a : Agent} {f : FaultInfo} (hs : Issues s i a h) (hc : c.forbids a = false)
    (hh : hdl = true → a.inHandler = true) (hb : body s i a = .fault f) :
    issue c hdl h off body s = .next (s.raise i f) := by
  rw [issue_run hs hc hh, hb, finish_fault]

/-- What an instruction with one result does. -/
theorem issueResult_run {c : Cls} {h : Hdr} {os : List Opnd} {d : Dst} {w : Nat} {f : List Nat → Nat} {s : State}
    {i : Nat} {a : Agent} {xs : List Nat} (hs : Issues s i a h) (hc : c.forbids a = false) (hx : a.srcs os = .ok xs)
    (hd : a.dstReady d (w / 32) = .ok ()) :
    issueResult c h os d w f s = .next (s.after i (a.putResult d (w / 32) (f xs)) h) :=
  issue_done hs hc (by simp) (by simp [resultFx, hx, hd])

theorem issuePred_run {c : Cls} {h : Hdr} {os : List Opnd} {d : Dst} {f : List Nat → Bool} {s : State} {i : Nat}
    {a : Agent} {xs : List Nat} (hs : Issues s i a h) (hc : c.forbids a = false) (hx : a.srcs os = .ok xs)
    (hd : a.dstReady d 1 = .ok ()) :
    issuePred c h os d f s = .next (s.after i (a.putPred d (f xs)) h) :=
  issue_done hs hc (by simp) (by simp [hx, hd])

theorem issueDeferred_run {c : Cls} {h : Hdr} {os : List Opnd} {d : Dst} {w : Nat} {f : List Nat → Nat} {s : State}
    {i : Nat} {a : Agent} {xs : List Nat} (hs : Issues s i a h) (hc : c.forbids a = false) (hx : a.srcs os = .ok xs)
    (hd : a.dstReady d (w / 32) = .ok ()) :
    issueDeferred c h os d w f s =
      .next ((s.startReady i a (wordsOf (f xs) (w / 32)) d []).advance i h.settle none) :=
  issue_done hs hc (by simp) (by simp [hx, hd])

end Sys2Proof.Machine
end

