-- ==== Sys2Proof/Laws/Memory.lean ====
section
/-!
SUPPORT. Memory: what is read after a write, and that every operation on memory keeps the canonical form.
-/
namespace Sys2Proof.Machine

/-! Reads after writes. -/

theorem memGet_memDel (m : List Host.Cell) (a c : Nat) : memGet (memDel m a) c = if c = a then 0 else memGet m c := by
  induction m with
  | nil => simp [memDel, memGet]
  | cons e t ih =>
    obtain ⟨k, v⟩ := e
    simp only [memDel]
    split
    · subst_vars; rw [ih]; split <;> simp_all [memGet]
    · simp only [memGet, ih]; split <;> split <;> simp_all

theorem memGet_memIns (m : List Host.Cell) (a c : Nat) (b : Byte) :
    memGet (memIns m a b) c = if c = a then b else memGet m c := by
  induction m with
  | nil => simp [memIns, memGet]
  | cons e t ih =>
    obtain ⟨k, v⟩ := e
    simp only [memIns]
    split
    · subst_vars; simp only [memGet]; split <;> simp_all
    · split
      · simp only [memGet]
      · simp only [memGet, ih]; split <;> split <;> simp_all

theorem memGet_memPut (m : List Host.Cell) (a c : Nat) (b : Byte) :
    memGet (memPut m a b) c = if c = a then b else memGet m c := by
  unfold memPut
  split
  · simp_all [memGet_memDel]
  · exact memGet_memIns m a c b

theorem memGet_memPuts (bs : List Byte) : ∀ (m : List Host.Cell) (a c : Nat),
    memGet (memPuts m a bs) c = if a ≤ c ∧ c < a + bs.length then bs.getD (c - a) 0 else memGet m c := by
  induction bs with
  | nil => intro m a c; simp only [memPuts, List.length_nil]; split <;> first | omega | rfl
  | cons b bs ih =>
    intro m a c
    simp only [memPuts, ih, memGet_memPut, List.length_cons]
    by_cases h : c = a
    · subst h; rw [if_neg (by omega), if_pos rfl, if_pos (by omega)]; simp
    · by_cases h1 : a + 1 ≤ c ∧ c < a + 1 + bs.length
      · rw [if_pos h1, if_pos (by omega)]
        obtain ⟨d, hd⟩ : ∃ d, c - a = d + 1 := ⟨c - a - 1, by omega⟩
        rw [hd, show c - (a + 1) = d by omega]; rfl
      · rw [if_neg h1, if_neg h, if_neg (by omega)]

theorem memGets_eq (m : List Host.Cell) : ∀ (n a : Nat), memGets m a n = (List.range n).map fun k => memGet m (a + k) := by
  intro n
  induction n with
  | zero => intro a; rfl
  | succ n ih =>
    intro a
    rw [memGets, ih, List.range_succ_eq_map, List.map_cons, List.map_map]
    simp only [Nat.add_zero, List.cons.injEq, true_and]
    exact List.map_congr_left fun k _ => by simp only [Function.comp]; congr 1; omega

theorem memGets_memPuts (m : List Host.Cell) (a : Nat) (bs : List Byte) : memGets (memPuts m a bs) a bs.length = bs := by
  rw [memGets_eq]
  apply List.ext_getElem
  · simp
  · intro k h1 h2
    simp at h1
    simp [memGet_memPuts, h1]

/-- Bytes outside a write read as before. -/
theorem getByte_putBytes_mem (s : State) (a c : Nat) (bs : List Byte) (h : c < a ∨ a + bs.length ≤ c) :
    (s.putBytes (.mem a) bs).getByte (.mem c) = s.getByte (.mem c) := by
  simp only [State.getByte, State.putBytes, memGet_memPuts]
  rw [if_neg (by omega)]

/-! The canonical form. -/

theorem wf_iff (m : List Host.Cell) :
    Memory.wf m = true ↔ m.Pairwise (fun x y => x.1 < y.1) ∧ ∀ c ∈ m, c.2 ≠ 0 := by
  induction m with
  | nil => simp [Memory.wf]
  | cons e t ih =>
    obtain ⟨k, v⟩ := e
    cases t with
    | nil => simp [Memory.wf]
    | cons e' t =>
      obtain ⟨k', v'⟩ := e'
      simp only [Memory.wf, Bool.and_eq_true, ih, decide_eq_true_eq, List.pairwise_cons, List.mem_cons]
      constructor
      · rintro ⟨⟨hv, hk⟩, ⟨h1, h2⟩, h3⟩
        refine ⟨⟨?_, h1, h2⟩, ?_⟩
        · rintro c (rfl | hc)
          · exact hk
          · exact Nat.lt_trans hk (h1 c hc)
        · rintro c (rfl | hc)
          · simpa using hv
          · exact h3 c hc
      · rintro ⟨⟨h0, h1, h2⟩, h3⟩
        exact ⟨⟨by simpa using h3 (k, v) (.inl rfl), h0 _ (.inl rfl)⟩, ⟨h1, h2⟩, fun c hc => h3 c (.inr hc)⟩

theorem mem_memDel {m : List Host.Cell} {a : Nat} {c : Host.Cell} (h : c ∈ memDel m a) : c ∈ m := by
  induction m with
  | nil => simp [memDel] at h
  | cons e t ih =>
    obtain ⟨k, v⟩ := e
    simp only [memDel] at h
    split at h
    · exact List.mem_cons_of_mem _ (ih h)
    · rcases List.mem_cons.1 h with rfl | h
      · exact List.mem_cons_self
      · exact List.mem_cons_of_mem _ (ih h)

theorem mem_memIns {m : List Host.Cell} {a : Nat} {b : Byte} {c : Host.Cell} (h : c ∈ memIns m a b) :
    c = (a, b) ∨ c ∈ m := by
  induction m with
  | nil => simp [memIns] at h; exact .inl h
  | cons e t ih =>
    obtain ⟨k, v⟩ := e
    simp only [memIns] at h
    split at h
    · rcases List.mem_cons.1 h with rfl | h
      · exact .inl rfl
      · exact .inr (List.mem_cons_of_mem _ h)
    · split at h
      · rcases List.mem_cons.1 h with rfl | h
        · exact .inl rfl
        · exact .inr h
      · rcases List.mem_cons.1 h with rfl | h
        · exact .inr List.mem_cons_self
        · exact (ih h).imp id (List.mem_cons_of_mem _)

theorem memDel_wf {m : List Host.Cell} (h : Memory.wf m = true) (a : Nat) : Memory.wf (memDel m a) = true := by
  rw [wf_iff] at *
  refine ⟨?_, fun c hc => h.2 c (mem_memDel hc)⟩
  obtain ⟨h, -⟩ := h
  induction m with
  | nil => simp [memDel]
  | cons e t ih =>
    obtain ⟨k, v⟩ := e
    rw [List.pairwise_cons] at h
    simp only [memDel]
    split
    · exact ih h.2
    · exact List.pairwise_cons.2 ⟨fun c hc => h.1 c (mem_memDel hc), ih h.2⟩

theorem memIns_wf {m : List Host.Cell} (h : Memory.wf m = true) (a : Nat) {b : Byte} (hb : b ≠ 0) :
    Memory.wf (memIns m a b) = true := by
  rw [wf_iff] at *
  refine ⟨?_, fun c hc => ?_⟩
  · obtain ⟨h, -⟩ := h
    induction m with
    | nil => simp [memIns]
    | cons e t ih =>
      obtain ⟨k, v⟩ := e
      rw [List.pairwise_cons] at h
      simp only [memIns]
      split
      · rename_i hk; subst hk; exact List.pairwise_cons.2 ⟨fun c hc => h.1 c hc, h.2⟩
      · split
        · rename_i hk
          refine List.pairwise_cons.2 ⟨fun c hc => ?_, List.pairwise_cons.2 h⟩
          rcases List.mem_cons.1 hc with rfl | hc
          · exact hk
          · exact Nat.lt_trans hk (h.1 c hc)
        · refine List.pairwise_cons.2 ⟨fun c hc => ?_, ih h.2⟩
          rcases mem_memIns hc with rfl | hc
          · simp only; omega
          · exact h.1 c hc
  · rcases mem_memIns hc with rfl | hc
    · exact hb
    · exact h.2 c hc

theorem memPut_wf {m : List Host.Cell} (h : Memory.wf m = true) (a : Nat) (b : Byte) : Memory.wf (memPut m a b) = true := by
  unfold memPut
  split
  · exact memDel_wf h a
  · exact memIns_wf h a ‹_›

theorem memPuts_wf (bs : List Byte) : ∀ {m : List Host.Cell} (a : Nat), Memory.wf m = true → Memory.wf (memPuts m a bs) = true := by
  induction bs with
  | nil => intro m a h; exact h
  | cons b bs ih => intro m a h; exact ih _ (memPut_wf h a b)

theorem memFilter_wf {m : List Host.Cell} (p : Host.Cell → Bool) (h : Memory.wf m = true) :
    Memory.wf (m.filter p) = true := by
  rw [wf_iff] at *
  exact ⟨h.1.filter _, fun c hc => h.2 c (List.mem_filter.1 hc).1⟩

theorem memZero_wf {m : List Host.Cell} (a n : Nat) (h : Memory.wf m = true) : Memory.wf (memZero m a n) = true :=
  memFilter_wf _ h

/-- Non-zero bytes put one after the other keep the form. -/
theorem memInserts_wf (g : Host.Cell → Nat) (l : List Host.Cell) : ∀ {m : List Host.Cell}, (∀ c ∈ l, c.2 ≠ 0) →
    Memory.wf m = true → Memory.wf (l.foldl (fun m c => memIns m (g c) c.2) m) = true := by
  induction l with
  | nil => exact fun _ h => h
  | cons c l ih =>
    exact fun hl h => ih (fun d hd => hl d (List.mem_cons_of_mem _ hd)) (memIns_wf h _ (hl c List.mem_cons_self))

theorem memCopy_wf {m : List Host.Cell} (src dst n : Nat) (h : Memory.wf m = true) :
    Memory.wf (memCopy m src dst n) = true :=
  memInserts_wf _ _ (fun c hc => ((wf_iff m).1 h).2 c (List.mem_filter.1 hc).1) (memZero_wf _ _ h)

/-- No byte that fills a range is listed as 0. -/
theorem fillCells_ne {c : Host.Cell} : ∀ (n a f : Nat), c ∈ fillCells a n f → c.2 ≠ 0 := by
  intro n
  induction n with
  | zero => intro a f h; simp [fillCells] at h
  | succ n ih =>
    intro a f h
    simp only [fillCells] at h
    split at h
    · simp at h
    · split at h
      · exact ih _ _ h
      · rcases List.mem_cons.1 h with rfl | h
        · intro hz
          have := congrArg BitVec.toNat hz
          simp [BitVec.toNat_ofNat] at this
          omega
        · exact ih _ _ h

theorem memFill_wf {m : List Host.Cell} (a n f : Nat) (h : Memory.wf m = true) : Memory.wf (memFill m a n f) = true :=
  memInserts_wf _ _ (fun _ hc => fillCells_ne _ _ _ hc) (memZero_wf _ _ h)

theorem putBytes_memWf {s : State} (h : s.memWf) (l : Loc) (bs : List Byte) : (s.putBytes l bs).memWf := by
  cases l with
  | mem a => exact ⟨memPuts_wf bs a h.1, h.2⟩
  | scr c o => exact ⟨h.1, memPuts_wf bs _ h.2⟩

theorem write_memWf {s : State} (h : s.memWf) (l : Loc) (bs : List Byte) : (s.write l bs).memWf := putBytes_memWf h l bs

theorem writeChunks_memWf {s : State} (l : List (Loc × Nat)) (bs : List Byte) (h : s.memWf) :
    (s.writeChunks l bs).memWf := by
  induction l generalizing s bs with
  | nil => exact h
  | cons c t ih => exact ih _ (write_memWf h c.1 _)

/-! What an access passes on its way changes no byte. -/

/-- Nothing in either memory differs. -/
def SameMem (s t : State) : Prop := t.mem = s.mem ∧ t.scr = s.scr

theorem SameMem.trans {s t u : State} (h : SameMem s t) (k : SameMem t u) : SameMem s u := ⟨k.1.trans h.1, k.2.trans h.2⟩

theorem SameMem.memWf {s t : State} (k : SameMem s t) (h : s.memWf) : t.memWf := by
  unfold State.memWf; rw [k.1, k.2]; exact h

theorem fresh_same (s : State) : SameMem s s.fresh.2 := ⟨rfl, rfl⟩

theorem accessLine_same (s : State) (vd : Option Nat) (d line : Nat) (wr : Bool) : SameMem s (s.accessLine vd d line wr).2 := by
  unfold State.accessLine
  split
  · dsimp only; split <;> exact ⟨rfl, rfl⟩
  · split <;> exact ⟨rfl, rfl⟩

theorem accessLines_same (vd : Option Nat) (d : Nat) (wr : Bool) (n : Nat) :
    ∀ (s : State) (line : Nat), SameMem s (s.accessLines vd d wr line n).2 := by
  induction n with
  | zero => exact fun _ _ => ⟨rfl, rfl⟩
  | succ n ih => exact fun s line => (accessLine_same s vd d line wr).trans (ih _ _)

theorem passMem_same (s : State) (vd : Nat) (c : Bool) (pa n : Nat) (wr : Bool) : SameMem s (s.passMem vd c pa n wr) := by
  have h := accessLines_same (some vd) ((s.homeDie pa).getD 0) wr ((pa + n - 1) / 128 + 1 - pa / 128) s (pa / 128)
  unfold State.passMem
  dsimp only
  split
  · exact h
  · exact h.trans ⟨rfl, rfl⟩

theorem sendSnoop_same (s : State) (line : Nat) (b : Bool) : SameMem s (s.sendSnoop line b) := by
  unfold State.sendSnoop; split <;> exact ⟨rfl, rfl⟩

theorem sendSnoops_same (l : List Nat) (b : Bool) : ∀ s : State, SameMem s (l.foldl (fun s k => s.sendSnoop k b) s) := by
  induction l with
  | nil => exact fun _ => ⟨rfl, rfl⟩
  | cons k l ih => exact fun s => (sendSnoop_same s k b).trans (ih _)

theorem claimLines_same (s : State) (pa n : Nat) : SameMem s (s.claimLines pa n) := by
  unfold State.claimLines
  split
  · exact ⟨rfl, rfl⟩
  · exact sendSnoops_same _ _ s

theorem copyPage_memWf {s : State} (vd src dst n : Nat) (h : s.memWf) : (s.copyPage vd src dst n).memWf :=
  let k := (passMem_same (s.passMem vd true src n false) vd true dst n true).memWf ((passMem_same s vd true src n false).memWf h)
  ⟨memCopy_wf _ _ _ k.1, k.2⟩

theorem recopy_memWf {s : State} (m : Mig) (h : s.memWf) : (s.recopy m).memWf := by
  unfold State.recopy
  generalize m.log.filter _ = l
  induction l generalizing s with
  | nil => exact h
  | cons b l ih => exact ih (copyPage_memWf _ _ _ _ h)

theorem fillPages_memWf (vd ctx : Nat) (ps : List Nat) : ∀ {s : State}, s.memWf → (s.fillPages vd ctx ps).2.memWf := by
  induction ps with
  | nil => exact fun h => h
  | cons p ps ih =>
    intro s h
    unfold State.fillPages
    apply ih
    split
    · exact h
    · let pa := s.savePage vd ctx p
      have k := (passMem_same (s.fresh.2.claimLines pa 65536) vd true pa 65536 true).memWf
        ((claimLines_same s.fresh.2 pa 65536).memWf ((fresh_same s).memWf h))
      exact ⟨memFill_wf _ _ _ k.1, k.2⟩

/-! The reserve, the image store and what hardware zeroes. -/

theorem zeroGranule_memWf {s : State} (h : s.memWf) (g : Nat) : (s.zeroGranule g).memWf := by
  have k := (claimLines_same s (granuleBase g) (2 ^ 30)).memWf h
  exact ⟨memZero_wf _ _ k.1, k.2⟩

theorem zeroTiers_memWf {s : State} (h : s.memWf) : s.zeroTiers.memWf := ⟨memFilter_wf _ h.1, h.2⟩

theorem putReserve_memWf {s : State} (off n : Nat) {l : List Host.Cell} (hl : ∀ c ∈ l, c.2 ≠ 0) (h : s.memWf) :
    (s.putReserve off n l).memWf :=
  ⟨memInserts_wf _ _ (fun c hc => hl c (List.mem_filter.1 hc).1) (memFilter_wf _ h.1), h.2⟩

theorem fillReserve_memWf {s : State} (off n : Nat) (h : s.memWf) : (s.fillReserve off n).memWf :=
  putReserve_memWf off n (fun _ hc => fillCells_ne _ _ _ hc) ((fresh_same s).memWf h)

theorem writeNear_memWf {s : State} (h : s.memWf) : s.writeNear.memWf :=
  putReserve_memWf _ _ (fun _ hc => by
    obtain ⟨d, hd, rfl⟩ := List.mem_map.1 hc
    exact ((wf_iff _).1 h.1).2 d (List.mem_filter.1 hd).1) h

theorem readNear_memWf {s : State} (h : s.memWf) : s.readNear.memWf := by
  refine ⟨?_, h.2⟩
  have hf := memFilter_wf (fun c => decide (0x010000000000 ≤ c.1)) h.1
  have key : ∀ (l m : List Host.Cell), (∀ c ∈ l, c.2 ≠ 0) → Memory.wf m = true →
      Memory.wf (l.foldl (fun m c =>
        let o := s.reserveOff c.1
        if s.inReserve c.1 ∧ nearRegion ≤ o ∧ o < nearRegion + 2 ^ 40 then memIns m (o - nearRegion) c.2 else m) m) = true := by
    intro l
    induction l with
    | nil => exact fun _ _ h => h
    | cons c l ih =>
      intro m hl hm
      refine ih _ (fun d hd => hl d (List.mem_cons_of_mem _ hd)) ?_
      dsimp only
      split
      · exact memIns_wf hm _ (hl c List.mem_cons_self)
      · exact hm
  exact key _ _ (fun c hc => ((wf_iff _).1 h.1).2 c (List.mem_filter.1 hc).1) hf

theorem freeImage_memWf {s : State} (h : s.memWf) (m : Nat) : (s.freeImage m).memWf := by
  unfold State.freeImage
  dsimp only
  split <;> exact ⟨memZero_wf _ _ h.1, h.2⟩

theorem reset_memWf : State.reset.memWf := ⟨rfl, rfl⟩

end Sys2Proof.Machine
end

