-- ==== Sys2Proof/Laws/PerInstr.lean ====
section
/-!
SUPPORT. Statements made once for each constructor of `Instr`.
-/
namespace Sys2Proof.Laws
open Sys2Proof

/-- An instruction of the table of 11 R295 has a word, an event has none. -/
def Encodes.Statement (i : Instr) : Prop := (encode i).isSome = !i.isEvent

theorem Encodes.boot (p : BootPlan) : Encodes.Statement (.boot p) := rfl
theorem Encodes.powerFailInput : Encodes.Statement .powerFailInput := rfl
theorem Encodes.managementCheckpointCommand : Encodes.Statement .managementCheckpointCommand := rfl
theorem Encodes.syncPulse (missed : Nat) : Encodes.Statement (.syncPulse missed) := rfl
theorem Encodes.dieLost (die : Nat) : Encodes.Statement (.dieLost die) := rfl
theorem Encodes.frequencyStep (die island mhz : Nat) : Encodes.Statement (.frequencyStep die island mhz) := rfl
theorem Encodes.pllRelockEnd (die island : Nat) : Encodes.Statement (.pllRelockEnd die island) := rfl
theorem Encodes.powerWindowOverCap : Encodes.Statement .powerWindowOverCap := rfl
theorem Encodes.pwrCapWrite (w : Nat) : Encodes.Statement (.pwrCapWrite w) := rfl
theorem Encodes.trayPowerCap (w : Nat) : Encodes.Statement (.trayPowerCap w) := rfl
theorem Encodes.crossDieTimeout (agent op : Nat) : Encodes.Statement (.crossDieTimeout agent op) := rfl
theorem Encodes.dieGatingStart (die : Nat) : Encodes.Statement (.dieGatingStart die) := rfl
theorem Encodes.gatingComplete (die : Nat) : Encodes.Statement (.gatingComplete die) := rfl
theorem Encodes.gatingAbandon (die : Nat) : Encodes.Statement (.gatingAbandon die) := rfl
theorem Encodes.dieWakeRequest (die : Nat) : Encodes.Statement (.dieWakeRequest die) := rfl
theorem Encodes.wakeComplete (die : Nat) : Encodes.Statement (.wakeComplete die) := rfl
theorem Encodes.move (die : Nat) : Encodes.Statement (.move die) := rfl
theorem Encodes.migrationPhase2 (die slot : Nat) : Encodes.Statement (.migrationPhase2 die slot) := rfl
theorem Encodes.migrationComplete (die slot : Nat) : Encodes.Statement (.migrationComplete die slot) := rfl
theorem Encodes.olkLinkDown : Encodes.Statement .olkLinkDown := rfl
theorem Encodes.managementCommandFlit (cmd : Nat) : Encodes.Statement (.managementCommandFlit cmd) := rfl
theorem Encodes.linkHealthFlit (flit : HealthFlit) : Encodes.Statement (.linkHealthFlit flit) := rfl
theorem Encodes.reservedSidebandFlit (cls : Nat) : Encodes.Statement (.reservedSidebandFlit cls) := rfl
theorem Encodes.hostRead (win : HostWin) (off n : Nat) (hold : Hold) : Encodes.Statement (.hostRead win off n hold) := rfl
theorem Encodes.hostWrite (win : HostWin) (off : Nat) (data : List Byte) : Encodes.Statement (.hostWrite win off data) := rfl
theorem Encodes.hostLockedOperation (off : Nat) (f : AtomOp) (v cmp : Nat) : Encodes.Statement (.hostLockedOperation off f v cmp) := rfl
theorem Encodes.bisnpResponse (line : Nat) (data : Option (List Byte)) : Encodes.Statement (.bisnpResponse line data) := rfl
theorem Encodes.bisnpResend (line : Nat) : Encodes.Statement (.bisnpResend line) := rfl
theorem Encodes.bisnpTimeout (line : Nat) : Encodes.Statement (.bisnpTimeout line) := rfl
theorem Encodes.portTrained (port dev : Nat) : Encodes.Statement (.portTrained port dev) := rfl
theorem Encodes.portStateChange (port st : Nat) : Encodes.Statement (.portStateChange port st) := rfl
theorem Encodes.remoteAccessArrival (dev vd : Nat) (acc : PeerAcc) : Encodes.Statement (.remoteAccessArrival dev vd acc) := rfl
theorem Encodes.remoteRequestTimeout (agent op : Nat) : Encodes.Statement (.remoteRequestTimeout agent op) := rfl
theorem Encodes.sparseReducePairArrival (src : PairFrom) (pa n : Nat) (op : SparseOp) (idx : Nat) (val : Word) : Encodes.Statement (.sparseReducePairArrival src pa n op idx val) := rfl
theorem Encodes.create : Encodes.Statement .create := rfl
theorem Encodes.resize : Encodes.Statement .resize := rfl
theorem Encodes.resizeComplete (vd : Nat) : Encodes.Statement (.resizeComplete vd) := rfl
theorem Encodes.destroy : Encodes.Statement .destroy := rfl
theorem Encodes.destroyComplete (vd : Nat) : Encodes.Statement (.destroyComplete vd) := rfl
theorem Encodes.deschedule : Encodes.Statement .deschedule := rfl
theorem Encodes.descheduleSaved (vd : Nat) : Encodes.Statement (.descheduleSaved vd) := rfl
theorem Encodes.schedule : Encodes.Statement .schedule := rfl
theorem Encodes.setreg : Encodes.Statement .setreg := rfl
theorem Encodes.granuleZeroed (g : Nat) : Encodes.Statement (.granuleZeroed g) := rfl
theorem Encodes.kick (vd off size value : Nat) : Encodes.Statement (.kick vd off size value) := rfl
theorem Encodes.streamFetch (vd stream : Nat) : Encodes.Statement (.streamFetch vd stream) := rfl
theorem Encodes.marginCobLend (cob vd : Nat) : Encodes.Statement (.marginCobLend cob vd) := rfl
theorem Encodes.revocation (cob : Nat) : Encodes.Statement (.revocation cob) := rfl
theorem Encodes.revocationReturn (cob : Nat) : Encodes.Statement (.revocationReturn cob) := rfl
theorem Encodes.regulatorWindow : Encodes.Statement .regulatorWindow := rfl
theorem Encodes.register : Encodes.Statement .register := rfl
theorem Encodes.retire : Encodes.Statement .retire := rfl
theorem Encodes.drainComplete (vd ctx slot : Nat) : Encodes.Statement (.drainComplete vd ctx slot) := rfl
theorem Encodes.drainTimeout (vd ctx slot : Nat) : Encodes.Statement (.drainTimeout vd ctx slot) := rfl
theorem Encodes.planeLoad (cob image : Nat) : Encodes.Statement (.planeLoad cob image) := rfl
theorem Encodes.planeLoadComplete (cob image : Nat) : Encodes.Statement (.planeLoadComplete cob image) := rfl
theorem Encodes.attestationRequest : Encodes.Statement .attestationRequest := rfl
theorem Encodes.attestationKeyGeneration : Encodes.Statement .attestationKeyGeneration := rfl
theorem Encodes.load : Encodes.Statement .load := rfl
theorem Encodes.unload : Encodes.Statement .unload := rfl
theorem Encodes.placementPass (vd : Nat) : Encodes.Statement (.placementPass vd) := rfl
theorem Encodes.blockingGridTimeout (grid : Nat) : Encodes.Statement (.blockingGridTimeout grid) := rfl
theorem Encodes.childWaitSwap (team : Nat) : Encodes.Statement (.childWaitSwap team) := rfl
theorem Encodes.launchEnd (grid : Nat) : Encodes.Statement (.launchEnd grid) := rfl
theorem Encodes.issueCycle (die island : Nat) : Encodes.Statement (.issueCycle die island) := rfl
theorem Encodes.sliceCycleLimit (vd ctx cob : Nat) : Encodes.Statement (.sliceCycleLimit vd ctx cob) := rfl
theorem Encodes.sliceWallLimit (vd ctx cob : Nat) : Encodes.Statement (.sliceWallLimit vd ctx cob) := rfl
theorem Encodes.watchdogExpiry (grid : Nat) : Encodes.Statement (.watchdogExpiry grid) := rfl
theorem Encodes.deferredResultReturn (agent op : Nat) (r : Reply) : Encodes.Statement (.deferredResultReturn agent op r) := rfl
theorem Encodes.trapEntry (agent : Nat) : Encodes.Statement (.trapEntry agent) := rfl
theorem Encodes.preemptionRequest (vd ctx cob : Nat) : Encodes.Statement (.preemptionRequest vd ctx cob) := rfl
theorem Encodes.preemptionBudgetEnd (vd ctx cob : Nat) : Encodes.Statement (.preemptionBudgetEnd vd ctx cob) := rfl
theorem Encodes.saveComplete (vd ctx cob : Nat) : Encodes.Statement (.saveComplete vd ctx cob) := rfl
theorem Encodes.frameGrant (agent : Nat) : Encodes.Statement (.frameGrant agent) := rfl
theorem Encodes.frameSpillEscape (agent : Nat) : Encodes.Statement (.frameSpillEscape agent) := rfl
theorem Encodes.migrateTransfer (agent : Nat) : Encodes.Statement (.migrateTransfer agent) := rfl
theorem Encodes.invGo : Encodes.Statement .invGo := rfl
theorem Encodes.shootdownComplete : Encodes.Statement .shootdownComplete := rfl
theorem Encodes.scopeUpdateEffect (vd ctx entry : Nat) : Encodes.Statement (.scopeUpdateEffect vd ctx entry) := rfl
theorem Encodes.ctwaitTimeout (agent : Nat) : Encodes.Statement (.ctwaitTimeout agent) := rfl
theorem Encodes.rejoinTimeout (agent : Nat) : Encodes.Statement (.rejoinTimeout agent) := rfl
theorem Encodes.tileGranuleGrant (cob : Nat) : Encodes.Statement (.tileGranuleGrant cob) := rfl
theorem Encodes.matrixEntryStart (agent array : Nat) : Encodes.Statement (.matrixEntryStart agent array) := rfl
theorem Encodes.matrixEntryComplete (agent : Nat) : Encodes.Statement (.matrixEntryComplete agent) := rfl
theorem Encodes.copyElement (copy : Nat) : Encodes.Statement (.copyElement copy) := rfl
theorem Encodes.copyRequestComplete (copy : Nat) : Encodes.Statement (.copyRequestComplete copy) := rfl
theorem Encodes.debugRegisterRead (core pip lane reg : Nat) : Encodes.Statement (.debugRegisterRead core pip lane reg) := rfl
theorem Encodes.registerWrite (t : RegTarget) (v : Nat) : Encodes.Statement (.registerWrite t v) := rfl
theorem Encodes.nop (h : Hdr) : Encodes.Statement (.nop h) := rfl
theorem Encodes.iadd (h : Hdr) (ty : IntTy) (sat : Bool) (a b : Src) (d : Dst) : Encodes.Statement (.iadd h ty sat a b d) := rfl
theorem Encodes.isub (h : Hdr) (ty : IntTy) (sat : Bool) (a b : Src) (d : Dst) : Encodes.Statement (.isub h ty sat a b d) := rfl
theorem Encodes.imul (h : Hdr) (ty : IntTy) (sat : Bool) (a b : Src) (d : Dst) : Encodes.Statement (.imul h ty sat a b d) := rfl
theorem Encodes.imulhi (h : Hdr) (ty : IntTy) (a b : Src) (d : Dst) : Encodes.Statement (.imulhi h ty a b d) := rfl
theorem Encodes.imad (h : Hdr) (ty : IntTy) (sat : Bool) (a b c : Src) (d : Dst) : Encodes.Statement (.imad h ty sat a b c d) := rfl
theorem Encodes.imin (h : Hdr) (ty : IntTy) (a b : Src) (d : Dst) : Encodes.Statement (.imin h ty a b d) := rfl
theorem Encodes.imax (h : Hdr) (ty : IntTy) (a b : Src) (d : Dst) : Encodes.Statement (.imax h ty a b d) := rfl
theorem Encodes.iabs (h : Hdr) (ty : SIntTy) (sat : Bool) (a : Src) (d : Dst) : Encodes.Statement (.iabs h ty sat a d) := rfl
theorem Encodes.idiv (h : Hdr) (ty : IntTy) (a b : Src) (d : Dst) : Encodes.Statement (.idiv h ty a b d) := rfl
theorem Encodes.irem (h : Hdr) (ty : IntTy) (a b : Src) (d : Dst) : Encodes.Statement (.irem h ty a b d) := rfl
theorem Encodes.and (h : Hdr) (ty : BitTy) (a b : Src) (d : Dst) : Encodes.Statement (.and h ty a b d) := rfl
theorem Encodes.or (h : Hdr) (ty : BitTy) (a b : Src) (d : Dst) : Encodes.Statement (.or h ty a b d) := rfl
theorem Encodes.xor (h : Hdr) (ty : BitTy) (a b : Src) (d : Dst) : Encodes.Statement (.xor h ty a b d) := rfl
theorem Encodes.not (h : Hdr) (ty : BitTy) (a : Src) (d : Dst) : Encodes.Statement (.not h ty a d) := rfl
theorem Encodes.shl (h : Hdr) (ty : BitTy) (a b : Src) (d : Dst) : Encodes.Statement (.shl h ty a b d) := rfl
theorem Encodes.shr (h : Hdr) (ty : BitTy) (a b : Src) (d : Dst) : Encodes.Statement (.shr h ty a b d) := rfl
theorem Encodes.sar (h : Hdr) (ty : BitTy) (a b : Src) (d : Dst) : Encodes.Statement (.sar h ty a b d) := rfl
theorem Encodes.rotl (h : Hdr) (ty : BitTy) (a b : Src) (d : Dst) : Encodes.Statement (.rotl h ty a b d) := rfl
theorem Encodes.popc (h : Hdr) (ty : BitTy) (a : Src) (d : Dst) : Encodes.Statement (.popc h ty a d) := rfl
theorem Encodes.clz (h : Hdr) (ty : BitTy) (a : Src) (d : Dst) : Encodes.Statement (.clz h ty a d) := rfl
theorem Encodes.brev (h : Hdr) (ty : BitTy) (a : Src) (d : Dst) : Encodes.Statement (.brev h ty a d) := rfl
theorem Encodes.bfe (h : Hdr) (ty : BitTy) (sx : Bool) (a b : Src) (d : Dst) : Encodes.Statement (.bfe h ty sx a b d) := rfl
theorem Encodes.bfi (h : Hdr) (ty : BitTy) (a b c : Src) (d : Dst) : Encodes.Statement (.bfi h ty a b c d) := rfl
theorem Encodes.lea (h : Hdr) (shift : Fin 9) (signed : Bool) (a b : Src) (d : Dst) : Encodes.Statement (.lea h shift signed a b d) := rfl
theorem Encodes.isetp (h : Hdr) (rel : IRel) (ty : IntTy) (a b : Src) (d : Dst) : Encodes.Statement (.isetp h rel ty a b d) := rfl
theorem Encodes.sel (h : Hdr) (ty : Ty) (p : PSel) (a b : Src) (d : Dst) : Encodes.Statement (.sel h ty p a b d) := rfl
theorem Encodes.plop (h : Hdr) (op : PlopOp) (x y : PSel) (d : Dst) : Encodes.Statement (.plop h op x y d) := rfl
theorem Encodes.mov (h : Hdr) (ty : Ty) (a : Src) (d : Dst) : Encodes.Statement (.mov h ty a d) := rfl
theorem Encodes.dup (h : Hdr) (ws : DupArgs) (d : Dst) : Encodes.Statement (.dup h ws d) := by cases ws <;> rfl
theorem Encodes.movi (h : Hdr) (imm : Word) (d : Dst) : Encodes.Statement (.movi h imm d) := rfl
theorem Encodes.addi (h : Hdr) (a : Src) (imm : Word) (d : Dst) : Encodes.Statement (.addi h a imm d) := rfl
theorem Encodes.movh (h : Hdr) (a : Src) (imm : Word) (d : Dst) : Encodes.Statement (.movh h a imm d) := rfl
theorem Encodes.getsr (h : Hdr) (i : Fin 32) (d : Dst) : Encodes.Statement (.getsr h i d) := rfl
theorem Encodes.setsr (h : Hdr) (i : Fin 32) (a : Src) : Encodes.Statement (.setsr h i a) := rfl
theorem Encodes.ridx (h : Hdr) (a : Src) (imm : Word) (d : Dst) : Encodes.Statement (.ridx h a imm d) := rfl
theorem Encodes.widx (h : Hdr) (a x : Src) : Encodes.Statement (.widx h a x) := rfl
theorem Encodes.fadd (h : Hdr) (rm : RM) (a b : Src) (d : Dst) : Encodes.Statement (.fadd h rm a b d) := rfl
theorem Encodes.fsub (h : Hdr) (rm : RM) (a b : Src) (d : Dst) : Encodes.Statement (.fsub h rm a b d) := rfl
theorem Encodes.fmul (h : Hdr) (rm : RM) (a b : Src) (d : Dst) : Encodes.Statement (.fmul h rm a b d) := rfl
theorem Encodes.ffma (h : Hdr) (rm : RM) (a b c : Src) (d : Dst) : Encodes.Statement (.ffma h rm a b c d) := rfl
theorem Encodes.fmin (h : Hdr) (ty : FHTy) (a b : Src) (d : Dst) : Encodes.Statement (.fmin h ty a b d) := rfl
theorem Encodes.fmax (h : Hdr) (ty : FHTy) (a b : Src) (d : Dst) : Encodes.Statement (.fmax h ty a b d) := rfl
theorem Encodes.fsetp (h : Hdr) (rel : FRel) (a b : Src) (d : Dst) : Encodes.Statement (.fsetp h rel a b d) := rfl
theorem Encodes.fclass (h : Hdr) (ty : FTy) (a : Src) (d : Dst) : Encodes.Statement (.fclass h ty a d) := rfl
theorem Encodes.frnd (h : Hdr) (ty : FTy) (rm : RM) (a : Src) (d : Dst) : Encodes.Statement (.frnd h ty rm a d) := rfl
theorem Encodes.fabs (h : Hdr) (ty : FHTy) (a : Src) (d : Dst) : Encodes.Statement (.fabs h ty a d) := rfl
theorem Encodes.fneg (h : Hdr) (ty : FHTy) (a : Src) (d : Dst) : Encodes.Statement (.fneg h ty a d) := rfl
theorem Encodes.fcopysign (h : Hdr) (ty : FHTy) (a b : Src) (d : Dst) : Encodes.Statement (.fcopysign h ty a b d) := rfl
theorem Encodes.fscale (h : Hdr) (ty : FTy) (rm : RM) (a b : Src) (d : Dst) : Encodes.Statement (.fscale h ty rm a b d) := rfl
theorem Encodes.fgetexp (h : Hdr) (ty : FTy) (a : Src) (d : Dst) : Encodes.Statement (.fgetexp h ty a d) := rfl
theorem Encodes.fgetman (h : Hdr) (ty : FTy) (a : Src) (d : Dst) : Encodes.Statement (.fgetman h ty a d) := rfl
theorem Encodes.dadd (h : Hdr) (rm : RM) (a b : Src) (d : Dst) : Encodes.Statement (.dadd h rm a b d) := rfl
theorem Encodes.dmul (h : Hdr) (rm : RM) (a b : Src) (d : Dst) : Encodes.Statement (.dmul h rm a b d) := rfl
theorem Encodes.dfma (h : Hdr) (rm : RM) (a b c : Src) (d : Dst) : Encodes.Statement (.dfma h rm a b c d) := rfl
theorem Encodes.dsetp (h : Hdr) (rel : FRel) (a b : Src) (d : Dst) : Encodes.Statement (.dsetp h rel a b d) := rfl
theorem Encodes.hadd2 (h : Hdr) (ty : HTy) (rm : RM) (a b : Src) (d : Dst) : Encodes.Statement (.hadd2 h ty rm a b d) := rfl
theorem Encodes.hmul2 (h : Hdr) (ty : HTy) (rm : RM) (a b : Src) (d : Dst) : Encodes.Statement (.hmul2 h ty rm a b d) := rfl
theorem Encodes.hfma2 (h : Hdr) (ty : HTy) (rm : RM) (a b c : Src) (d : Dst) : Encodes.Statement (.hfma2 h ty rm a b c d) := rfl
theorem Encodes.frcp (h : Hdr) (a : Src) (d : Dst) : Encodes.Statement (.frcp h a d) := rfl
theorem Encodes.frsq (h : Hdr) (a : Src) (d : Dst) : Encodes.Statement (.frsq h a d) := rfl
theorem Encodes.fsqrt (h : Hdr) (a : Src) (d : Dst) : Encodes.Statement (.fsqrt h a d) := rfl
theorem Encodes.flog2 (h : Hdr) (a : Src) (d : Dst) : Encodes.Statement (.flog2 h a d) := rfl
theorem Encodes.fexp2 (h : Hdr) (a : Src) (d : Dst) : Encodes.Statement (.fexp2 h a d) := rfl
theorem Encodes.exp2s (h : Hdr) (a b c : Src) (d : Dst) : Encodes.Statement (.exp2s h a b c d) := rfl
theorem Encodes.fsin (h : Hdr) (a : Src) (d : Dst) : Encodes.Statement (.fsin h a d) := rfl
theorem Encodes.fcos (h : Hdr) (a : Src) (d : Dst) : Encodes.Statement (.fcos h a d) := rfl
theorem Encodes.ftanh (h : Hdr) (a : Src) (d : Dst) : Encodes.Statement (.ftanh h a d) := rfl
theorem Encodes.cvt (h : Hdr) (tys : CvtTys) (rm : RM) (sat : Bool) (a : Src) (d : Dst) : Encodes.Statement (.cvt h tys rm sat a d) := rfl
theorem Encodes.cvts (h : Hdr) (slot : Fin 16) (ty : LTy) (rm : RM) (sat : Bool) (a : Src) (k : Option Src) (d : Dst) : Encodes.Statement (.cvts h slot ty rm sat a k d) := by cases k <;> rfl
theorem Encodes.cvtw (h : Hdr) (slot : Fin 16) (ty : LTy) (rm : RM) (sat : Bool) (a : Src) (k : Option Src) (d : Dst) : Encodes.Statement (.cvtw h slot ty rm sat a k d) := by cases k <;> rfl
theorem Encodes.pack (h : Hdr) (ty : HTy) (rm : RM) (a b : Src) (d : Dst) : Encodes.Statement (.pack h ty rm a b d) := rfl
theorem Encodes.unpk (h : Hdr) (ty : HTy) (a : Src) (d : Dst) : Encodes.Statement (.unpk h ty a d) := rfl
theorem Encodes.shfl (h : Hdr) (mode : ShflMode) (ty : BitTy) (rp : BitVec 3) (a fill ctl : Src) (d : Dst) : Encodes.Statement (.shfl h mode ty rp a fill ctl d) := rfl
theorem Encodes.vote (h : Hdr) (op : VoteOp) (rp : BitVec 3) (p : PSel) (fill : Bool) (ctl : Src) (d : Dst) : Encodes.Statement (.vote h op rp p fill ctl d) := rfl
theorem Encodes.matchLanes (h : Hdr) (ty : BitTy) (rp : BitVec 3) (a fill ctl : Src) (d : Dst) : Encodes.Statement (.matchLanes h ty rp a fill ctl d) := rfl
theorem Encodes.redux (h : Hdr) (op : ReduxOp) (rp : BitVec 3) (a fill ctl : Src) (d : Dst) : Encodes.Statement (.redux h op rp a fill ctl d) := rfl
theorem Encodes.scan (h : Hdr) (op : ScanOp) (rp : BitVec 3) (excl : Bool) (a fill ctl : Src) (d : Dst) : Encodes.Statement (.scan h op rp excl a fill ctl d) := rfl
theorem Encodes.enrol (h : Hdr) (j : Fin 4) : Encodes.Statement (.enrol h j) := rfl
theorem Encodes.rejoin (h : Hdr) (j : Fin 4) : Encodes.Statement (.rejoin h j) := rfl
theorem Encodes.groupq (h : Hdr) (g : Fin 5) (d : Dst) : Encodes.Statement (.groupq h g d) := rfl
theorem Encodes.ld (h : Hdr) (sz : LdSize) (ofs : BitVec 12) (sk : BitVec 6) (acq : Bool) (a : Src) (d : Dst) : Encodes.Statement (.ld h sz ofs sk acq a d) := rfl
theorem Encodes.st (h : Hdr) (sz : StSize) (ofs : BitVec 12) (sk : BitVec 6) (rel : Bool) (a b : Src) : Encodes.Statement (.st h sz ofs sk rel a b) := rfl
theorem Encodes.ldx (h : Hdr) (slot : Fin 16) (ofs : BitVec 12) (sk : BitVec 6) (acq : Bool) (a : Src) (d : Dst) : Encodes.Statement (.ldx h slot ofs sk acq a d) := rfl
theorem Encodes.stx (h : Hdr) (slot : Fin 16) (ofs : BitVec 12) (sk : BitVec 6) (rel : Bool) (a b : Src) : Encodes.Statement (.stx h slot ofs sk rel a b) := rfl
theorem Encodes.pref (h : Hdr) (sz : LdSize) (ofs : BitVec 12) (sk : BitVec 6) (a : Src) : Encodes.Statement (.pref h sz ofs sk a) := rfl
theorem Encodes.atom (h : Hdr) (f : AtomOp) (sk : BitVec 6) (od : MemOrd) (a b : Src) (d : Dst) : Encodes.Statement (.atom h f sk od a b d) := rfl
theorem Encodes.red (h : Hdr) (f : AtomOp) (sk : BitVec 6) (rel : Bool) (a b : Src) : Encodes.Statement (.red h f sk rel a b) := rfl
theorem Encodes.ctadd (h : Hdr) (sk : BitVec 6) (rel : Bool) (a b : Src) : Encodes.Statement (.ctadd h sk rel a b) := rfl
theorem Encodes.ctwait (h : Hdr) (sk : BitVec 6) (timeout : Option Src) (a b : Src) (d : Dst) : Encodes.Statement (.ctwait h sk timeout a b d) := by cases timeout <;> rfl
theorem Encodes.ctrd (h : Hdr) (sk : BitVec 6) (acq : Bool) (a : Src) (d : Dst) : Encodes.Statement (.ctrd h sk acq a d) := rfl
theorem Encodes.barInit (h : Hdr) (a b : Src) : Encodes.Statement (.barInit h a b) := rfl
theorem Encodes.barExpect (h : Hdr) (a b : Src) : Encodes.Statement (.barExpect h a b) := rfl
theorem Encodes.barArrive (h : Hdr) (sk : BitVec 6) (a : Src) (d : Dst) : Encodes.Statement (.barArrive h sk a d) := rfl
theorem Encodes.barArrivex (h : Hdr) (sk : BitVec 6) (a b : Src) (d : Dst) : Encodes.Statement (.barArrivex h sk a b d) := rfl
theorem Encodes.barPhase (h : Hdr) (a : Src) (d : Dst) : Encodes.Statement (.barPhase h a d) := rfl
theorem Encodes.fence (h : Hdr) (kind : FenceKind) (sk : BitVec 6) : Encodes.Statement (.fence h kind sk) := rfl
theorem Encodes.scopew (h : Hdr) (sk : BitVec 6) (a : Src) (d : Dst) : Encodes.Statement (.scopew h sk a d) := rfl
theorem Encodes.scoper (h : Hdr) (sk : BitVec 6) (a : Src) (d : Dst) : Encodes.Statement (.scoper h sk a d) := rfl
theorem Encodes.icinv (h : Hdr) (sk : BitVec 6) (a b : Src) : Encodes.Statement (.icinv h sk a b) := rfl
theorem Encodes.ipref (h : Hdr) (l1 : Bool) (a b : Src) : Encodes.Statement (.ipref h l1 a b) := rfl
theorem Encodes.ipin (h : Hdr) (l1 : Bool) (a b : Src) : Encodes.Statement (.ipin h l1 a b) := rfl
theorem Encodes.irel (h : Hdr) (l1 : Bool) (a b : Src) : Encodes.Statement (.irel h l1 a b) := rfl
theorem Encodes.cwb (h : Hdr) (l1 : Bool) (a b : Src) : Encodes.Statement (.cwb h l1 a b) := rfl
theorem Encodes.bra (h : Hdr) (off : Word) : Encodes.Statement (.bra h off) := rfl
theorem Encodes.brx (h : Hdr) (a : Src) (off : Word) : Encodes.Statement (.brx h a off) := rfl
theorem Encodes.call (h : Hdr) (dem : Fin 16) (land : Option Src) (off : Word) : Encodes.Statement (.call h dem land off) := by cases land <;> rfl
theorem Encodes.callx (h : Hdr) (dem : Fin 16) (a : Src) (land : Option Word) : Encodes.Statement (.callx h dem a land) := by cases land <;> rfl
theorem Encodes.ret (h : Hdr) : Encodes.Statement (.ret h) := rfl
theorem Encodes.unwind (h : Hdr) : Encodes.Statement (.unwind h) := rfl
theorem Encodes.loop (h : Hdr) (n : Src) (off : BitVec 31) : Encodes.Statement (.loop h n off) := rfl
theorem Encodes.lbrk (h : Hdr) (k : Fin 4) : Encodes.Statement (.lbrk h k) := rfl
theorem Encodes.exit (h : Hdr) : Encodes.Statement (.exit h) := rfl
theorem Encodes.yield (h : Hdr) : Encodes.Statement (.yield h) := rfl
theorem Encodes.macroOp (h : Hdr) (idx : BitVec 8) (p0 p1 p2 : Src) : Encodes.Statement (.macroOp h idx p0 p1 p2) := rfl
theorem Encodes.trap (h : Hdr) (code : BitVec 8) : Encodes.Statement (.trap h code) := rfl
theorem Encodes.rtt (h : Hdr) : Encodes.Statement (.rtt h) := rfl
theorem Encodes.bkpt (h : Hdr) (code : BitVec 8) : Encodes.Statement (.bkpt h code) := rfl
theorem Encodes.frq (h : Hdr) (dem : Fin 17) (d : Dst) : Encodes.Statement (.frq h dem d) := rfl
theorem Encodes.migrate (h : Hdr) (a : Src) : Encodes.Statement (.migrate h a) := rfl
theorem Encodes.launch (h : Hdr) (a : Src) : Encodes.Statement (.launch h a) := rfl
theorem Encodes.cpyk (h : Hdr) (a : Src) : Encodes.Statement (.cpyk h a) := rfl
theorem Encodes.cprepl (h : Hdr) (a : Src) : Encodes.Statement (.cprepl h a) := rfl
theorem Encodes.fmtbind (h : Hdr) (slot : Fin 16) (a : Src) (d : Dst) : Encodes.Statement (.fmtbind h slot a d) := rfl
theorem Encodes.fmtq (h : Hdr) (slot : Fin 16) (d : Dst) : Encodes.Statement (.fmtq h slot d) := rfl
theorem Encodes.fmtfence (h : Hdr) : Encodes.Statement (.fmtfence h) := rfl
theorem Encodes.psave (h : Hdr) (a : Src) : Encodes.Statement (.psave h a) := rfl
theorem Encodes.talloc (h : Hdr) (hd : BitVec 8) (fa : Fin 16) (a : Src) : Encodes.Statement (.talloc h hd fa a) := rfl
theorem Encodes.trel (h : Hdr) (hd : BitVec 8) : Encodes.Statement (.trel h hd) := rfl
theorem Encodes.thand (h : Hdr) (hd : BitVec 8) (a : Src) : Encodes.Statement (.thand h hd a) := rfl
theorem Encodes.twr (h : Hdr) (hd : BitVec 8) (a : Src) : Encodes.Statement (.twr h hd a) := rfl
theorem Encodes.trd (h : Hdr) (hd : BitVec 8) (a : Src) : Encodes.Statement (.trd h hd a) := rfl
theorem Encodes.tzero (h : Hdr) (hd : BitVec 8) : Encodes.Statement (.tzero h hd) := rfl
theorem Encodes.mma (h : Hdr) (hd ha hb : BitVec 8) (fa fb fc : Fin 16) (rm : RM) : Encodes.Statement (.mma h hd ha hb fa fb fc rm) := rfl
theorem Encodes.tcvt (h : Hdr) (hd ha : BitVec 8) (fa fb : Fin 16) (rm : RM) (sat : Bool) (a : Src) : Encodes.Statement (.tcvt h hd ha fa fb rm sat a) := rfl
theorem Encodes.thad (h : Hdr) (hd : BitVec 8) (a : Src) : Encodes.Statement (.thad h hd a) := rfl
theorem Encodes.ttr (h : Hdr) (hd ha : BitVec 8) (a : Src) : Encodes.Statement (.ttr h hd ha a) := rfl
theorem Encodes.tld (h : Hdr) (hd : BitVec 8) (fa : Fin 16) (a : Src) : Encodes.Statement (.tld h hd fa a) := rfl
theorem Encodes.tst (h : Hdr) (hd : BitVec 8) (fa : Fin 16) (a : Src) : Encodes.Statement (.tst h hd fa a) := rfl
theorem Encodes.tldw (h : Hdr) (hd : BitVec 8) (fa : Fin 16) (a : Src) : Encodes.Statement (.tldw h hd fa a) := rfl
theorem Encodes.twait (h : Hdr) (hd : BitVec 8) : Encodes.Statement (.twait h hd) := rfl
theorem Encodes.tq (h : Hdr) (hd : BitVec 8) : Encodes.Statement (.tq h hd) := rfl
theorem Encodes.sequencerIssue (cob : Nat) : Encodes.Statement (.sequencerIssue cob) := rfl

end Sys2Proof.Laws
end

