-- ==== Sys2Proof/Tests/Slice0.lean ====
section
/-!
SUPPORT. The model's own tests: well-formedness, decoding, small steps, and for each statement a state and operands that meet
its hypotheses (`met_<statement>`).
-/
namespace Sys2Proof.Tests
open Sys2Proof Sys2Proof.Machine

-- one theorem after the other: each evaluation in the kernel takes a large stack
set_option Elab.async false

/-! A small machine: device 0 with one grid of one thread, agent 0, on core 0 (log 2), in focus. -/

/-- The always-true guard, no settle marker. -/
def h0 : Hdr := ⟨false, false, 7, 0⟩

/-- The always-false guard. -/
def hOff : Hdr := ⟨false, true, 7, 0⟩

def one : State :=
  let s := State.reset.withFetchWord 64 0
  { s with run := { s.run with cur := some 0, issueQ := [] } }

def theAgent : Agent := tgetD one.agents 0 {}

/-- The thread with the first registers of its frame as given. -/
def withRegs (ws : List Word) : Agent :=
  { theAgent with arch := { theAgent.arch with frames := theAgent.arch.frames.map fun f =>
    { f with regs := (ws ++ List.replicate 16 0).take 16 } } }

/-- A machine with agent 0 alone, as given. -/
def put (s : State) (a : Agent) : State := { s with run := { s.run with cur := some 0 }, agents := [(0, a)] }

/-- The cells of bytes from an address. -/
def cellsAt : Nat → List Byte → List Host.Cell
  | _, [] => []
  | a, b :: bs => if b = 0 then cellsAt (a + 1) bs else (a, b) :: cellsAt (a + 1) bs

/-- Bytes in memory and in the scratchpad of core 0, above all that are there. -/
def poke (s : State) (a : Nat) (bs : List Byte) : State := { s with mem := s.mem ++ cellsAt a bs }
def pokeScr (s : State) (a : Nat) (bs : List Byte) : State := { s with scr := s.scr ++ cellsAt a bs }

theorem put_stands (s : State) (a : Agent) (hc : a.takeDue false s.run.word = none) : Stands (put s a) 0 a := ⟨rfl, rfl, hc⟩

theorem put_issues (s : State) (a : Agent) (h : Hdr) (hc : a.takeDue false s.run.word = none)
    (hg : a.guard h = .ok true) : Issues (put s a) 0 a h := ⟨⟨rfl, rfl, hc⟩, hg⟩

/-- What a step answers, where it is a next state. -/
def gives (ins : Instr) (s : State) (p : State → Bool) : Bool :=
  match exec ins s with
  | .next t => p t
  | _ => false

def agentOf (s : State) : Agent := tgetD s.agents 0 {}

/-- The youngest queue entries of agent 0. -/
def q (s : State) (n : Nat) : List Nat := (agentOf s).arch.queue.take n |>.map (·.val.toNat)

/-- A thread in its handler, whose record is declared or not. -/
def inTrap (declared : Bool) (cause : Nat) : Agent :=
  { theAgent with flt := { theAgent.flt with entries := [{ cause, pc := 0, declared, settle := false }] } }

/-- A sequencer context. -/
def asSeq (a : Agent) : Agent := { a with id := { a.id with seq := true } }

/-! Well-formedness: an ill-formed term for each check of an operand (11 R288, R289, 08 R190), and of a unit or a datum of an event. -/

theorem test_illformed_1 : ((
  [.iadd h0 .n64 false (.v 1) (.imm 0) .push, .iadd h0 .n64 false (.imm 0) (.v 1) .push, .iadd h0 .n64 false (.imm 0) (.imm 0) (.reg 1),
   .isub h0 .n64 false (.v 1) (.imm 0) .push, .isub h0 .n64 false (.imm 0) (.v 1) .push, .isub h0 .n64 false (.imm 0) (.imm 0) (.reg 1),
   .imul h0 .n64 false (.v 1) (.imm 0) .push, .imul h0 .n64 false (.imm 0) (.v 1) .push, .imul h0 .n64 false (.imm 0) (.imm 0) (.reg 1),
   .imulhi h0 .n64 (.v 1) (.imm 0) .push, .imulhi h0 .n64 (.imm 0) (.v 1) .push, .imulhi h0 .n64 (.imm 0) (.imm 0) (.reg 1),
   .imin h0 .n64 (.v 1) (.imm 0) .push, .imin h0 .n64 (.imm 0) (.v 1) .push, .imin h0 .n64 (.imm 0) (.imm 0) (.reg 1),
   .imax h0 .n64 (.v 1) (.imm 0) .push, .imax h0 .n64 (.imm 0) (.v 1) .push, .imax h0 .n64 (.imm 0) (.imm 0) (.reg 1),
   .idiv h0 .n64 (.v 1) (.imm 0) .push, .idiv h0 .n64 (.imm 0) (.v 1) .push, .idiv h0 .n64 (.imm 0) (.imm 0) (.reg 1),
   .irem h0 .n64 (.v 1) (.imm 0) .push, .irem h0 .n64 (.imm 0) (.v 1) .push, .irem h0 .n64 (.imm 0) (.imm 0) (.reg 1),
   .imad h0 .n64 false (.v 1) (.imm 0) (.imm 0) .push, .imad h0 .n64 false (.imm 0) (.v 1) (.imm 0) .push,
   .imad h0 .n64 false (.imm 0) (.imm 0) (.v 1) .push, .imad h0 .n64 false (.imm 0) (.imm 0) (.imm 0) (.reg 1),
   .iabs h0 .i64 false (.v 1) .push, .iabs h0 .i64 false (.imm 0) (.reg 1), .and h0 .n64 (.v 1) (.imm 0) .push,
   .and h0 .n64 (.imm 0) (.v 1) .push, .and h0 .n64 (.imm 0) (.imm 0) (.reg 1), .or h0 .n64 (.v 1) (.imm 0) .push,
   .or h0 .n64 (.imm 0) (.v 1) .push, .or h0 .n64 (.imm 0) (.imm 0) (.reg 1), .xor h0 .n64 (.v 1) (.imm 0) .push,
   .xor h0 .n64 (.imm 0) (.v 1) .push, .xor h0 .n64 (.imm 0) (.imm 0) (.reg 1), .not h0 .n64 (.v 1) .push, .not h0 .n64 (.imm 0) (.reg 1),
   .shl h0 .n64 (.v 1) (.imm 0) .push, .shl h0 .n64 (.imm 0) (.imm 0) (.reg 1), .shr h0 .n64 (.v 1) (.imm 0) .push,
   .shr h0 .n64 (.imm 0) (.imm 0) (.reg 1), .sar h0 .n64 (.v 1) (.imm 0) .push, .sar h0 .n64 (.imm 0) (.imm 0) (.reg 1),
   .rotl h0 .n64 (.v 1) (.imm 0) .push, .rotl h0 .n64 (.imm 0) (.imm 0) (.reg 1), .popc h0 .n64 (.v 1) .push,
   .popc h0 .n64 (.imm 0) (.pred 0), .clz h0 .n64 (.v 1) .push, .clz h0 .n64 (.imm 0) (.pred 0), .brev h0 .n64 (.v 1) .push,
   .brev h0 .n64 (.imm 0) (.reg 1), .bfe h0 .n64 false (.v 1) (.imm 0) .push, .bfe h0 .n64 false (.imm 0) (.imm 0) (.reg 1),
   .bfi h0 .n64 (.v 1) (.imm 0) (.imm 0) .push, .bfi h0 .n64 (.imm 0) (.v 1) (.imm 0) .push,
   .bfi h0 .n64 (.imm 0) (.imm 0) (.imm 0) (.reg 1)] : List Instr).all fun i => !i.wf) = true := by decide +kernel

theorem test_illformed_2 : ((
  [.lea h0 0 false (.v 1) (.imm 0) .push, .lea h0 0 false (.imm 0) (.imm 0) (.reg 1), .isetp h0 .eq .n64 (.v 1) (.imm 0) .push,
   .isetp h0 .eq .n64 (.imm 0) (.v 1) .push, .sel h0 .n64 ⟨7, false⟩ (.v 1) (.imm 0) .push, .sel h0 .n64 ⟨7, false⟩ (.imm 0) (.v 1) .push,
   .sel h0 .n64 ⟨7, false⟩ (.imm 0) (.imm 0) (.reg 1), .mov h0 .n64 (.v 1) .push, .mov h0 .n64 (.imm 0) (.reg 1),
   .dup h0 (.one (.imm 0)) (.pred 0), .movi h0 0 (.pred 0), .addi h0 (.imm 0) 0 (.pred 0), .movh h0 (.imm 0) 0 (.reg 1),
   .getsr h0 16 (.reg 1), .setsr h0 16 (.v 1), .ridx h0 (.imm 0) 0 (.pred 0), .fadd h0 .rne (.imm 0) (.imm 0) (.pred 0),
   .fsub h0 .rne (.imm 0) (.imm 0) (.pred 0), .fmul h0 .rne (.imm 0) (.imm 0) (.pred 0),
   .ffma h0 .rne (.imm 0) (.imm 0) (.imm 0) (.pred 0), .fmin h0 .f64 (.v 1) (.imm 0) .push, .fmin h0 .f64 (.imm 0) (.v 1) .push,
   .fmin h0 .f64 (.imm 0) (.imm 0) (.reg 1), .fmax h0 .f64 (.v 1) (.imm 0) .push, .fmax h0 .f64 (.imm 0) (.v 1) .push,
   .fmax h0 .f64 (.imm 0) (.imm 0) (.reg 1), .fclass h0 .f64 (.v 1) .push, .fclass h0 .f64 (.imm 0) (.pred 0),
   .frnd h0 .f64 .rne (.v 1) .push, .frnd h0 .f64 .rne (.imm 0) (.reg 1), .fabs h0 .f64 (.v 1) .push, .fabs h0 .f64 (.imm 0) (.reg 1),
   .fneg h0 .f64 (.v 1) .push, .fneg h0 .f64 (.imm 0) (.reg 1), .fcopysign h0 .f64 (.v 1) (.imm 0) .push,
   .fcopysign h0 .f64 (.imm 0) (.v 1) .push, .fcopysign h0 .f64 (.imm 0) (.imm 0) (.reg 1), .fscale h0 .f64 .rne (.v 1) (.imm 0) .push,
   .fscale h0 .f64 .rne (.imm 0) (.imm 0) (.reg 1), .fgetexp h0 .f64 (.v 1) .push, .fgetexp h0 .f64 (.imm 0) (.pred 0),
   .fgetman h0 .f64 (.v 1) .push, .fgetman h0 .f64 (.imm 0) (.reg 1), .dadd h0 .rne (.v 1) (.imm 0) .push,
   .dadd h0 .rne (.imm 0) (.v 1) .push, .dadd h0 .rne (.imm 0) (.imm 0) (.reg 1), .dmul h0 .rne (.v 1) (.imm 0) .push,
   .dmul h0 .rne (.imm 0) (.v 1) .push, .dmul h0 .rne (.imm 0) (.imm 0) (.reg 1), .dfma h0 .rne (.v 1) (.imm 0) (.imm 0) .push,
   .dfma h0 .rne (.imm 0) (.v 1) (.imm 0) .push, .dfma h0 .rne (.imm 0) (.imm 0) (.v 1) .push,
   .dfma h0 .rne (.imm 0) (.imm 0) (.imm 0) (.reg 1), .dsetp h0 .eq (.v 1) (.imm 0) .push, .dsetp h0 .eq (.imm 0) (.v 1) .push,
   .hadd2 h0 .f16x2 .rne (.imm 0) (.imm 0) (.pred 0), .hmul2 h0 .f16x2 .rne (.imm 0) (.imm 0) (.pred 0),
   .hfma2 h0 .f16x2 .rne (.imm 0) (.imm 0) (.imm 0) (.pred 0), .frcp h0 (.imm 0) (.pred 0), .frsq h0 (.imm 0) (.pred 0)] : List Instr).all fun i => !i.wf) = true := by decide +kernel

theorem test_illformed_3 : ((
  [.fsqrt h0 (.imm 0) (.pred 0), .flog2 h0 (.imm 0) (.pred 0), .fexp2 h0 (.imm 0) (.pred 0),
   .exp2s h0 (.imm 0) (.imm 0) (.imm 0) (.pred 0), .fsin h0 (.imm 0) (.pred 0), .fcos h0 (.imm 0) (.pred 0), .ftanh h0 (.imm 0) (.pred 0),
   .cvt h0 (.scalar .n64 .f64) .rne false (.v 1) .push, .cvt h0 (.scalar .n64 .f64) .rne false (.imm 0) (.reg 1),
   .cvts h0 0 .f32 .rne false (.imm 0) none (.pred 0), .cvtw h0 0 .f32 .rne false (.imm 0) none (.pred 0),
   .pack h0 .f16x2 .rne (.imm 0) (.imm 0) (.pred 0), .unpk h0 .f16x2 (.imm 0) (.reg 1),
   .shfl h0 .idx .n64 7 (.v 1) (.imm 0) (.imm 0) .push, .shfl h0 .idx .n64 7 (.imm 0) (.v 1) (.imm 0) .push,
   .shfl h0 .idx .n64 7 (.imm 0) (.imm 0) (.imm 0) (.reg 1), .vote h0 .ballot 7 ⟨7, false⟩ false (.imm 0) (.pred 0),
   .matchLanes h0 .n64 7 (.v 1) (.imm 0) (.imm 0) .push, .matchLanes h0 .n64 7 (.imm 0) (.v 1) (.imm 0) .push,
   .matchLanes h0 .n64 7 (.imm 0) (.imm 0) (.imm 0) (.pred 0), .redux h0 (.iadd .n64) 7 (.v 1) (.imm 0) (.imm 0) .push,
   .redux h0 (.iadd .n64) 7 (.imm 0) (.v 1) (.imm 0) .push, .redux h0 (.iadd .n64) 7 (.imm 0) (.imm 0) (.imm 0) (.reg 1),
   .scan h0 (.iadd .n64) 7 false (.v 1) (.imm 0) (.imm 0) .push, .scan h0 (.iadd .n64) 7 false (.imm 0) (.v 1) (.imm 0) .push,
   .scan h0 (.iadd .n64) 7 false (.imm 0) (.imm 0) (.imm 0) (.reg 1), .groupq h0 0 (.reg 1), .ld h0 .b64 0 0 false (.v 1) .push,
   .ld h0 .b64 0 0 false (.imm 0) (.reg 1), .st h0 .b64 0 0 false (.v 1) (.imm 0), .st h0 .b64 0 0 false (.imm 0) (.v 1),
   .ldx h0 0 0 0 false (.v 1) .push, .ldx h0 0 0 0 false (.imm 0) (.pred 0), .stx h0 0 0 0 false (.v 1) (.imm 0), .pref h0 .b64 0 0 (.v 1),
   .atom h0 (.arith .add .n64) 0 .rlx (.v 1) (.imm 0) .push, .atom h0 (.arith .add .n64) 0 .rlx (.imm 0) (.v 1) .push,
   .atom h0 (.cas .n64 (.q 15)) 0 .rlx (.imm 0) (.imm 0) .push, .atom h0 (.arith .add .n64) 0 .rlx (.imm 0) (.imm 0) (.reg 1),
   .red h0 (.arith .add .n64) 0 false (.v 1) (.imm 0), .red h0 (.arith .add .n64) 0 false (.imm 0) (.v 1),
   .red h0 (.cas .n64 (.q 15)) 0 false (.imm 0) (.imm 0), .ctadd h0 0 false (.v 1) (.imm 0), .ctadd h0 0 false (.imm 0) (.v 1),
   .ctwait h0 0 none (.v 1) (.imm 0) .push, .ctwait h0 0 none (.imm 0) (.v 1) .push, .ctwait h0 0 none (.imm 0) (.imm 0) (.reg 1),
   .ctrd h0 0 false (.v 1) .push, .ctrd h0 0 false (.imm 0) (.reg 1), .barInit h0 (.v 1) (.imm 0), .barExpect h0 (.v 1) (.imm 0),
   .barArrive h0 0 (.v 1) .push, .barArrive h0 0 (.imm 0) (.reg 1), .barArrivex h0 0 (.v 1) (.imm 0) .push,
   .barArrivex h0 0 (.imm 0) (.imm 0) (.reg 1), .barPhase h0 (.v 1) .push, .barPhase h0 (.imm 0) (.reg 1), .scopew h0 0 (.v 1) .push,
   .scopew h0 0 (.imm 0) (.pred 0), .scoper h0 0 (.v 1) .push] : List Instr).all fun i => !i.wf) = true := by decide +kernel

theorem test_illformed_4 : ((
  [.scoper h0 0 (.imm 0) (.pred 0), .icinv h0 0 (.v 1) (.imm 0), .ipref h0 false (.v 1) (.imm 0), .ipin h0 false (.v 1) (.imm 0),
   .irel h0 false (.v 1) (.imm 0), .cwb h0 false (.v 1) (.imm 0), .brx h0 (.v 1) 0, .callx h0 0 (.v 1) none, .frq h0 0 (.pred 0),
   .migrate h0 (.v 1), .launch h0 (.v 1), .cpyk h0 (.v 1), .cprepl h0 (.v 1), .fmtbind h0 0 (.imm 0) (.pred 0), .fmtq h0 0 (.pred 0),
   .twr h0 0 (.v 1), .thad h0 0 (.v 1), .tld h0 0 0 (.v 1), .tst h0 0 0 (.v 1), .tldw h0 0 0 (.v 1)] : List Instr).all fun i => !i.wf) = true := by decide +kernel

/-- The alignment of pairs and quads in the queue and in registers, a boundary on each side. -/
theorem test_operand_bounds : (([.iadd h0 .n64 false (.q 15) (.imm 0) .push, .st h0 .b128 0 0 false (.imm 0) (.q 13),
      .st h0 .b128 0 0 false (.imm 0) (.v 2), .ld h0 .b128 0 0 false (.imm 0) (.reg 2)] : List Instr).all fun i => !i.wf) = true ∧
    (([.iadd h0 .n64 false (.q 14) (.v 126) (.reg 126), .iadd h0 .n32 false (.q 15) (.v 127) (.reg 127),
      .st h0 .b128 0 0 false (.imm 0) (.q 12), .ld h0 .b128 0 0 false (.imm 0) (.reg 124), .isetp h0 .eq .n64 (.imm 0) (.imm 0) (.pred 6),
      .vote h0 .all 7 ⟨7, false⟩ false (.imm 0) (.pred 0)] : List Instr).all fun i => i.wf) = true := by decide +kernel

theorem test_illformed_events : (([.boot { cold := true, prim := [], alt := [] }, .boot { cold := true, prim := List.replicate 10 0, alt := [] }, .syncPulse 4096, .dieLost 12, .frequencyStep 12 0 600,
      .frequencyStep 0 2 600, .frequencyStep 0 0 650, .frequencyStep 0 0 500, .frequencyStep 0 0 2500, .pllRelockEnd 12 0, .pllRelockEnd 0 2,
      .pwrCapWrite 65536, .trayPowerCap 65536, .dieGatingStart 12, .gatingComplete 12, .gatingAbandon 12, .dieWakeRequest 12, .wakeComplete 12,
      .move 7, .move 12, .migrationPhase2 7 0, .migrationPhase2 12 0, .migrationComplete 7 0, .migrationComplete 12 0,
      .reservedSidebandFlit 3, .reservedSidebandFlit 16, .hostRead .hdm 0 0 .none, .hostRead .hdm 0 129 .none, .hostWrite .hdm 0 [],
      .hostWrite .hdm 0 (List.replicate 129 0), .hostLockedOperation 4 (.arith .add .n64) 0 0, .hostLockedOperation 0 (.cas .n64 (.v 1)) 0 0,
      .bisnpResponse 64 none, .bisnpResend 64, .bisnpTimeout 64, .portTrained 36 0, .portTrained 0 256, .portStateChange 36 0,
      .portStateChange 0 4, .remoteAccessArrival 256 0 (.load 0 1), .remoteAccessArrival 0 64 (.load 0 1),
      .sparseReducePairArrival ⟨0, 64⟩ 0 1 .iadd 0 0, .sparseReducePairArrival ⟨256, 0⟩ 0 1 .iadd 0 0] : List Instr).all fun i => !i.wf) = true ∧
    (([.resizeComplete 64, .destroyComplete 64, .descheduleSaved 64, .granuleZeroed 10240, .kick 64 0 8 0, .kick 0 4096 8 0, .kick 0 0 0 0,
      .kick 0 0 9 0, .streamFetch 64 0, .streamFetch 0 64, .marginCobLend 288 0, .marginCobLend 0 64, .revocation 288, .revocationReturn 288,
      .drainComplete 64 0 0, .drainComplete 0 16 0, .drainComplete 0 0 16, .drainTimeout 64 0 0, .drainTimeout 0 16 0, .drainTimeout 0 0 16,
      .planeLoad 288 0, .planeLoad 0 1024, .planeLoadComplete 288 0, .planeLoadComplete 0 1024, .placementPass 64, .issueCycle 12 0, .issueCycle 0 2,
      .sliceCycleLimit 64 0 0, .sliceCycleLimit 0 16 0, .sliceCycleLimit 0 0 288, .sliceWallLimit 64 0 0, .sliceWallLimit 0 16 0,
      .sliceWallLimit 0 0 288, .preemptionRequest 64 0 0, .preemptionRequest 0 16 0, .preemptionRequest 0 0 288, .preemptionBudgetEnd 64 0 0,
      .preemptionBudgetEnd 0 16 0, .preemptionBudgetEnd 0 0 288, .saveComplete 64 0 0, .saveComplete 0 16 0, .saveComplete 0 0 288,
      .scopeUpdateEffect 64 0 8, .scopeUpdateEffect 0 16 8, .scopeUpdateEffect 0 0 7, .scopeUpdateEffect 0 0 64, .tileGranuleGrant 288,
      .matrixEntryStart 0 2, .debugRegisterRead 1152 0 0 0, .debugRegisterRead 0 4 0 0, .debugRegisterRead 0 0 16 0,
      .debugRegisterRead 0 0 0 1152, .sequencerIssue 288] : List Instr).all fun i => !i.wf) = true := by decide +kernel

/-! Refused words (11 R286 to R291): every reserved opcode whatever else it holds, a reserved type, an unused field that is not
zero, operand and destination codes that name nothing, pairs and quads that are not aligned; and 0x01 before 0x02. -/

theorem test_reserved_opcodes : ([0x1F, 0x2D, 0x2E, 0x2F, 0x3D, 0x3E, 0x3F, 0x46, 0x47, 0x5F, 0x77, 0x78, 0x79, 0x7A, 0x7B, 0x7C, 0x7D, 0x7E, 0x7F].all fun op =>
    decode (BitVec.ofNat 64 (op * 2 ^ 56)) == .illegal && decode (BitVec.ofNat 64 (op * 2 ^ 56 + (2 ^ 56 - 1))) == .illegal) = true := by decide +kernel

theorem test_refused_words : ([0x0171614120001900, 0x0171614120010200, 0x0171614120101200, 0x0171614120001220, 0x0070100000000000, 0x0171690120001900, 0x017161412000A200].all fun w => decode w == .illegal) = true ∧
    ([0x0171690120001200, 0x0171614BF0001200, 0x0179014120001200, 0x017F014120001200, 0x0170114120001200, 0x0171611120001200, 0x017160F120001200, 0x0171714120001200, 0x017F714120001200].all fun w => decode w == .operand) = true := by
  decide +kernel
theorem test_decode_integer : ([
    (0x0070000000000000, .nop ⟨false, false, 7, 0⟩),
    (0x8111614120000110, .iadd ⟨true, false, 1, 0⟩ .n32 true (.v 4) (.v 2) (.reg 6)),
    (0x01B1614120001205, .isub ⟨false, true, 3, 5⟩ .i64 false (.v 4) (.v 2) (.reg 6)),
    (0x818161412000231F, .imul ⟨true, true, 0, 15⟩ .n64 true (.v 4) (.v 2) (.reg 6)),
    (0x0171614120003200, .imulhi ⟨false, false, 7, 0⟩ .i64 (.v 4) (.v 2) (.reg 6)),
    (0x811001403FD04010, .imad ⟨true, false, 1, 0⟩ .i32 true (.v 4) (.q 3) (.imm 61) .push),
    (0x01BFF14120005305, .imin ⟨false, true, 3, 5⟩ .n64 (.v 4) (.v 2) .nil),
    (0x818161412000600F, .imax ⟨true, true, 0, 15⟩ .i32 (.v 4) (.v 2) (.reg 6)),
    (0x0171614000007210, .iabs ⟨false, false, 7, 0⟩ .i64 true (.v 4) (.reg 6)),
    (0x8111614120008100, .idiv ⟨true, false, 1, 0⟩ .n32 (.v 4) (.v 2) (.reg 6)),
    (0x01B1614120009205, .irem ⟨false, true, 3, 5⟩ .i64 (.v 4) (.v 2) (.reg 6)),
    (0x828161412000030F, .and ⟨true, true, 0, 15⟩ .n64 (.v 4) (.v 2) (.reg 6)),
    (0x0271614120001300, .or ⟨false, false, 7, 0⟩ .n64 (.v 4) (.v 2) (.reg 6)),
    (0x8211614120002300, .xor ⟨true, false, 1, 0⟩ .n64 (.v 4) (.v 2) (.reg 6)),
    (0x02B1614000003805, .not ⟨false, true, 3, 5⟩ .b32 (.v 4) (.reg 6)),
    (0x828161401000430F, .shl ⟨true, true, 0, 15⟩ .n64 (.v 4) (.q 1) (.reg 6)),
    (0x0271614010005300, .shr ⟨false, false, 7, 0⟩ .n64 (.v 4) (.q 1) (.reg 6)),
    (0x8211614010006300, .sar ⟨true, false, 1, 0⟩ .n64 (.v 4) (.q 1) (.reg 6)),
    (0x02B1614010007305, .rotl ⟨false, true, 3, 5⟩ .n64 (.v 4) (.q 1) (.reg 6)),
    (0x828161400000880F, .popc ⟨true, true, 0, 15⟩ .b32 (.v 4) (.reg 6)),
    (0x0271614000009800, .clz ⟨false, false, 7, 0⟩ .b32 (.v 4) (.reg 6)),
    (0x821161400000A800, .brev ⟨true, false, 1, 0⟩ .b32 (.v 4) (.reg 6)),
    (0x02B161412000B815, .bfe ⟨false, true, 3, 5⟩ .b32 true (.v 4) (.v 2) (.reg 6)),
    (0x828161412FD0C30F, .bfi ⟨true, true, 0, 15⟩ .n64 (.v 4) (.v 2) (.imm 61) (.reg 6)),
    (0x047F614120005200, .isetp ⟨false, false, 7, 0⟩ .ge .i64 (.v 4) (.v 2) (.pred 6)),
    (0x851161412000D500, .sel ⟨true, false, 1, 0⟩ .f64 ⟨5, true⟩ (.v 4) (.v 2) (.reg 6)),
    (0x06BF00A070003005, .plop ⟨false, true, 3, 5⟩ .andn ⟨2, true⟩ ⟨7, false⟩ (.pred 0)),
    (0x878161400000080F, .mov ⟨true, true, 0, 15⟩ .b32 (.v 4) (.reg 6)),
    (0x0F71601000203000, .dup ⟨false, false, 7, 0⟩ (.three (.q 1) (.q 0) (.q 2)) (.reg 6)),
    (0x8811600DEADBEEF0, .movi ⟨true, false, 1, 0⟩ 0xDEADBEEF (.reg 6)),
    (0x09B160FFFFFFFFF5, .addi ⟨false, true, 3, 5⟩ (.q 15) 0xFFFFFFFF (.reg 6)),
    (0x8A8160012345678F, .movh ⟨true, true, 0, 15⟩ (.q 0) 0x12345678 (.reg 6)),
    (0x0B716000000001F0, .getsr ⟨false, false, 7, 0⟩ 31 (.reg 6)),
    (0x8C100020000001C0, .setsr ⟨true, false, 1, 0⟩ 28 (.q 2)),
    (0x0DB8F01000000075, .ridx ⟨false, true, 3, 5⟩ (.q 1) 7 (.reg 127)),
    (0x8E8000112000000F, .widx ⟨true, true, 0, 15⟩ (.q 1) (.v 2)),
    (0x03B1614050008005, .lea ⟨false, true, 3, 5⟩ 8 true (.v 4) (.q 5) (.reg 6))
  ] : List (DWord × Instr)).all (fun p => decode p.1 == .ok p.2) = true := by decide +kernel

theorem test_decode_float : ([
    (0x1071614FD0000420, .fadd ⟨false, false, 7, 0⟩ .rz (.v 4) (.imm 61) (.reg 6)),
    (0x9111614FD0000440, .fsub ⟨true, false, 1, 0⟩ .ru (.v 4) (.imm 61) (.reg 6)),
    (0x12B1614FD0000465, .fmul ⟨false, true, 3, 5⟩ .rd (.v 4) (.imm 61) (.reg 6)),
    (0x938161412FD0048F, .ffma ⟨true, true, 0, 15⟩ .ro (.v 4) (.v 2) (.imm 61) (.reg 6)),
    (0x1471614120000700, .fmin ⟨false, false, 7, 0⟩ .bf16x2 (.v 4) (.v 2) (.reg 6)),
    (0x9511614120000500, .fmax ⟨true, false, 1, 0⟩ .f64 (.v 4) (.v 2) (.reg 6)),
    (0x16BF314120006405, .fsetp ⟨false, true, 3, 5⟩ .unord (.v 4) (.v 2) (.pred 3)),
    (0x978161400000050F, .fclass ⟨true, true, 0, 15⟩ .f64 (.v 4) (.reg 6)),
    (0x1871614000000460, .frnd ⟨false, false, 7, 0⟩ .f32 .rd (.v 4) (.reg 6)),
    (0x9911614000000600, .fabs ⟨true, false, 1, 0⟩ .f16x2 (.v 4) (.reg 6)),
    (0x19B1614000001405, .fneg ⟨false, true, 3, 5⟩ .f32 (.v 4) (.reg 6)),
    (0x998161412000250F, .fcopysign ⟨true, true, 0, 15⟩ .f64 (.v 4) (.v 2) (.reg 6)),
    (0x1971614120003440, .fscale ⟨false, false, 7, 0⟩ .f32 .ru (.v 4) (.v 2) (.reg 6)),
    (0x9911614000004500, .fgetexp ⟨true, false, 1, 0⟩ .f64 (.v 4) (.reg 6)),
    (0x19B1614000005405, .fgetman ⟨false, true, 3, 5⟩ .f32 (.v 4) (.reg 6)),
    (0x9A8161412000052F, .dadd ⟨true, true, 0, 15⟩ .rz (.v 4) (.v 2) (.reg 6)),
    (0x1B71614120000560, .dmul ⟨false, false, 7, 0⟩ .rd (.v 4) (.v 2) (.reg 6)),
    (0x9C11614121800500, .dfma ⟨true, false, 1, 0⟩ .rne (.v 4) (.v 2) (.v 8) (.reg 6)),
    (0x1DB0014120007505, .dsetp ⟨false, true, 3, 5⟩ .ord (.v 4) (.v 2) .push),
    (0x9E8161412000062F, .hadd2 ⟨true, true, 0, 15⟩ .f16x2 .rz (.v 4) (.v 2) (.reg 6)),
    (0x1E71614120001700, .hmul2 ⟨false, false, 7, 0⟩ .bf16x2 .rne (.v 4) (.v 2) (.reg 6)),
    (0x9E1161412FD02680, .hfma2 ⟨true, false, 1, 0⟩ .f16x2 .ro (.v 4) (.v 2) (.imm 61) (.reg 6)),
    (0x20B1614000000405, .frcp ⟨false, true, 3, 5⟩ (.v 4) (.reg 6)),
    (0xA18161400000040F, .frsq ⟨true, true, 0, 15⟩ (.v 4) (.reg 6)),
    (0x2271614000000400, .fsqrt ⟨false, false, 7, 0⟩ (.v 4) (.reg 6)),
    (0xA311614000000400, .flog2 ⟨true, false, 1, 0⟩ (.v 4) (.reg 6)),
    (0x24B1614000000405, .fexp2 ⟨false, true, 3, 5⟩ (.v 4) (.reg 6)),
    (0xA58161412FD0040F, .exp2s ⟨true, true, 0, 15⟩ (.v 4) (.v 2) (.imm 61) (.reg 6)),
    (0x2671614000000400, .fsin ⟨false, false, 7, 0⟩ (.v 4) (.reg 6)),
    (0xA611614000001400, .fcos ⟨true, false, 1, 0⟩ (.v 4) (.reg 6)),
    (0x27B1614000000405, .ftanh ⟨false, true, 3, 5⟩ (.v 4) (.reg 6)),
    (0xA88161400005003F, .cvt ⟨true, true, 0, 15⟩ (.scalar .f64 .i32) .rz true (.v 4) (.reg 6)),
    (0x2A71614030017140, .cvtw ⟨false, false, 7, 0⟩ 7 .n32 .ru false (.v 4) (some (.q 3)) (.reg 6)),
    (0xAB11614120000740, .pack ⟨true, false, 1, 0⟩ .bf16x2 .ru (.v 4) (.v 2) (.reg 6)),
    (0x2CB1614000000605, .unpk ⟨false, true, 3, 5⟩ .f16x2 (.v 4) (.reg 6)),
    (0xA98161412001C06F, .cvts ⟨true, true, 0, 15⟩ 12 .i32 .rd false (.v 4) (some (.v 2)) (.reg 6))
  ] : List (DWord × Instr)).all (fun p => decode p.1 == .ok p.2) = true := by decide +kernel

theorem test_decode_lane : ([
    (0xB08161412FD7330F, .shfl ⟨true, true, 0, 15⟩ .xor .n64 7 (.v 4) (.v 2) (.imm 61) (.reg 6)),
    (0x317F10C00FD23010, .vote ⟨false, false, 7, 0⟩ .uni 2 ⟨4, true⟩ true (.imm 61) (.pred 1)),
    (0xB21161412FD00800, .matchLanes ⟨true, false, 1, 0⟩ .b32 0 (.v 4) (.v 2) (.imm 61) (.reg 6)),
    (0x33B161412FD76465, .redux ⟨false, true, 3, 5⟩ (.fadd .rd) 7 (.v 4) (.v 2) (.imm 61) (.reg 6)),
    (0xB48161412FD5031F, .scan ⟨true, true, 0, 15⟩ (.iadd .n64) 5 true (.v 4) (.v 2) (.imm 61) (.reg 6)),
    (0x3570000000003000, .enrol ⟨false, false, 7, 0⟩ 3),
    (0xB610000000002000, .rejoin ⟨true, false, 1, 0⟩ 2),
    (0x37B0000000004005, .groupq ⟨false, true, 3, 5⟩ 4 .push)
  ] : List (DWord × Instr)).all (fun p => decode p.1 == .ok p.2) = true := by decide +kernel

theorem test_decode_memory : ([
    (0xB98001412FFF226F, .st ⟨true, true, 0, 15⟩ .b16 (-1) 9 true (.v 4) (.v 2)),
    (0x3A71614007FFFFC0, .ldx ⟨false, false, 7, 0⟩ 15 2047 63 false (.v 4) (.reg 6)),
    (0xBB100141280011E0, .stx ⟨true, false, 1, 0⟩ 1 (-2048) 7 true (.v 4) (.v 2)),
    (0x3CB0014000056845, .pref ⟨false, true, 3, 5⟩ .b128 5 33 (.v 4)),
    (0xC08161412731813F, .atom ⟨true, true, 0, 15⟩ (.cas .n64 (.v 8)) 4 .ar (.v 4) (.v 2) (.reg 6)),
    (0x4170014128700160, .red ⟨false, false, 7, 0⟩ (.fadd .bf16x2) 5 true (.v 4) (.v 2)),
    (0xC311614128004190, .ctwait ⟨true, false, 1, 0⟩ 6 (some (.q 4)) (.v 4) (.v 2) (.reg 6)),
    (0x44B1614000000095, .ctrd ⟨false, true, 3, 5⟩ 2 true (.v 4) (.reg 6)),
    (0xC58001412000000F, .barInit ⟨true, true, 0, 15⟩ (.v 4) (.v 2)),
    (0x4570014121000000, .barExpect ⟨false, false, 7, 0⟩ (.v 4) (.v 2)),
    (0xC5116141230000E0, .barArrivex ⟨true, false, 1, 0⟩ 3 (.v 4) (.v 2) (.reg 6)),
    (0x45B1614004000005, .barPhase ⟨false, true, 3, 5⟩ (.v 4) (.reg 6)),
    (0xC88000000300030F, .fence ⟨true, true, 0, 15⟩ .sc 12),
    (0x4971614000000200, .scopew ⟨false, false, 7, 0⟩ 8 (.v 4) (.reg 6)),
    (0xCA11614000000FC0, .scoper ⟨true, false, 1, 0⟩ 63 (.v 4) (.reg 6)),
    (0x4BB00141200000C5, .icinv ⟨false, true, 3, 5⟩ 3 (.v 4) (.v 2)),
    (0xCC8001412000000F, .ipref ⟨true, true, 0, 15⟩ false (.v 4) (.v 2)),
    (0x4D70014120001000, .ipin ⟨false, false, 7, 0⟩ true (.v 4) (.v 2)),
    (0xCE10014120000000, .irel ⟨true, false, 1, 0⟩ false (.v 4) (.v 2)),
    (0x4FB0014120001005, .cwb ⟨false, true, 3, 5⟩ true (.v 4) (.v 2)),
    (0x387161400FFD3080, .ld ⟨false, false, 7, 0⟩ .s16 (-3) 2 false (.v 4) (.reg 6)),
    (0xC210014C10000040, .ctadd ⟨true, false, 1, 0⟩ 1 false (.v 4) (.imm 1)),
    (0x45BFF14002000165, .barArrive ⟨false, true, 3, 5⟩ 5 (.v 4) .nil)
  ] : List (DWord × Instr)).all (fun p => decode p.1 == .ok p.2) = true := by decide +kernel

theorem test_decode_control : ([
    (0xD18001480000000F, .brx ⟨true, true, 0, 15⟩ (.v 4) 0x80000000),
    (0x5378114FFFFFFFE0, .callx ⟨false, false, 7, 0⟩ 15 (.v 4) (some 0xFFFFFFFE)),
    (0xD410000000000000, .ret ⟨true, false, 1, 0⟩),
    (0x55B0000000000005, .unwind ⟨false, true, 3, 5⟩),
    (0xD78040000000000F, .lbrk ⟨true, true, 0, 15⟩ 3),
    (0x5970000000000000, .yield ⟨false, false, 7, 0⟩),
    (0xDB1AB00000000000, .trap ⟨true, false, 1, 0⟩ 0xAB),
    (0x5CB0000000000005, .rtt ⟨false, true, 3, 5⟩),
    (0xDD8010000000000F, .bkpt ⟨true, true, 0, 15⟩ 1),
    (0x5E78016000000000, .frq ⟨false, false, 7, 0⟩ 16 (.reg 6)),
    (0xD080000FFFFFFF7F, .bra ⟨true, true, 0, 15⟩ 0xFFFFFFF7),
    (0x5270800000000040, .call ⟨false, false, 7, 0⟩ 0 none 4),
    (0xD6111007FFFFFFF0, .loop ⟨true, false, 1, 0⟩ (.v 1) 0x7FFFFFFF),
    (0x58B0000000000005, .exit ⟨false, true, 3, 5⟩),
    (0xDA8091402FD0000F, .macroOp ⟨true, true, 0, 15⟩ 9 (.v 4) (.q 2) (.imm 61))
  ] : List (DWord × Instr)).all (fun p => decode p.1 == .ok p.2) = true := by decide +kernel

theorem test_decode_system : ([
    (0xE010014000000000, .migrate ⟨true, false, 1, 0⟩ (.v 4)),
    (0x61B0014000000005, .launch ⟨false, true, 3, 5⟩ (.v 4)),
    (0xE28001400000000F, .cpyk ⟨true, true, 0, 15⟩ (.v 4)),
    (0x6370014000000000, .cprepl ⟨false, false, 7, 0⟩ (.v 4)),
    (0xE41191300000C000, .fmtbind ⟨true, false, 1, 0⟩ 12 (.v 3) (.reg 9)),
    (0x65B1600000003005, .fmtq ⟨false, true, 3, 5⟩ 3 (.reg 6)),
    (0xE68000000000000F, .fmtfence ⟨true, true, 0, 15⟩),
    (0x67700C3000000000, .psave ⟨false, false, 7, 0⟩ (.imm 3))
  ] : List (DWord × Instr)).all (fun p => decode p.1 == .ok p.2) = true := by decide +kernel

theorem test_decode_tile : ([
    (0xE81FF000014D0000, .talloc ⟨true, false, 1, 0⟩ 255 13 (.v 4)),
    (0x69BC800000000005, .trel ⟨false, true, 3, 5⟩ 200),
    (0xEB8050000140000F, .twr ⟨true, true, 0, 15⟩ 5 (.v 4)),
    (0x6C70600000100000, .trd ⟨false, false, 7, 0⟩ 6 (.q 1)),
    (0xED10700000000000, .tzero ⟨true, false, 1, 0⟩ 7),
    (0x6FB040900122E095, .tcvt ⟨false, true, 3, 5⟩ 4 9 2 14 .ro true (.v 2)),
    (0xF08030000140000F, .thad ⟨true, true, 0, 15⟩ 3 (.v 4)),
    (0x7170102000000000, .ttr ⟨false, false, 7, 0⟩ 1 2 (.q 0)),
    (0xF210A00001440000, .tld ⟨true, false, 1, 0⟩ 10 4 (.v 4)),
    (0x73B0B00001450005, .tst ⟨false, true, 3, 5⟩ 11 5 (.v 4)),
    (0xF480C0000146000F, .tldw ⟨true, true, 0, 15⟩ 12 6 (.v 4)),
    (0x7571100000000000, .twait ⟨false, false, 7, 0⟩ 17),
    (0xF611200000000000, .tq ⟨true, false, 1, 0⟩ 18),
    (0x6A70400000200000, .thand ⟨false, false, 7, 0⟩ 4 (.q 2)),
    (0xEE10401020035060, .mma ⟨true, false, 1, 0⟩ 4 1 2 3 5 0 .rd)
  ] : List (DWord × Instr)).all (fun p => decode p.1 == .ok p.2) = true := by decide +kernel

/-! Integer, comparison and move instructions. -/

/-- The least i32 and −1, then the least i64 and −1. -/
def mins : Agent := withRegs [0x80000000, 0xFFFFFFFF, 0, 0x80000000, 0xFFFFFFFF, 0xFFFFFFFF]

theorem mins_issues : Issues (put one mins) 0 mins h0 := put_issues _ _ _ (by decide +kernel) (by decide +kernel)

theorem met_IntegerResults : Issues (put one mins) 0 mins h0 ∧ Cls.both.forbids mins = false ∧
    mins.srcs [⟨.v 0, 32, .int⟩, ⟨.v 1, 32, .int⟩] = .ok [0x80000000, 0xFFFFFFFF] ∧
    mins.srcs [⟨.v 2, 64, .int⟩, ⟨.imm 0, 64, .int⟩] = .ok [2 ^ 63, 0] ∧ mins.dstReady (.reg 6) 2 = .ok () :=
  ⟨mins_issues, by decide +kernel⟩

/-- 12 R312, R313: −2^31 + −1 clamped and wrapped; division by 0. -/
theorem test_integer : gives (.iadd h0 .i32 true (.v 0) (.v 1) .push) (put one mins) (fun t => q t 1 == [0x80000000]) = true ∧
    gives (.iadd h0 .i32 false (.v 0) (.v 1) .push) (put one mins) (fun t => q t 1 == [0x7FFFFFFF]) = true ∧
    gives (.idiv h0 .n64 (.v 2) (.imm 0) (.reg 6)) (put one mins) (fun t => q t 2 == [0xFFFFFFFF, 0xFFFFFFFF] &&
      ((agentOf t).top.regs.drop 6).take 2 == [0xFFFFFFFF, 0xFFFFFFFF]) = true ∧
    gives (.irem h0 .i64 (.v 2) (.imm 0) .push) (put one mins) (fun t => q t 2 == [0x80000000, 0]) = true ∧
    gives (.imulhi h0 .n32 (.v 0) (.v 0) .push) (put one mins) (fun t => q t 1 == [0x40000000]) = true := by decide +kernel

theorem met_BitsAndShifts : Issues (put one mins) 0 mins h0 ∧ Cls.both.forbids mins = false ∧
    mins.srcs [⟨.v 2, 64, .int⟩, ⟨.v 1, 32, .int⟩] = .ok [2 ^ 63, 0xFFFFFFFF] ∧
    mins.srcs [⟨.v 0, 32, .int⟩, ⟨.imm 31, 32, .int⟩] = .ok [2 ^ 31, 31] ∧ mins.dstReady .push 2 = .ok () :=
  ⟨mins_issues, by decide +kernel⟩

/-- 12 R314, R316: shifts beyond the width; a scaled negative index. -/
theorem test_bits : gives (.shl h0 .b32 (.v 1) (.v 0) .push) (put one mins) (fun t => q t 1 == [0]) = true ∧
    gives (.sar h0 .n64 (.v 2) (.v 1) .push) (put one mins) (fun t => q t 2 == [0xFFFFFFFF, 0xFFFFFFFF]) = true ∧
    gives (.rotl h0 .b32 (.v 0) (.imm 1) .push) (put one mins) (fun t => q t 1 == [1]) = true ∧
    gives (.clz h0 .n64 (.imm 0) .push) (put one mins) (fun t => q t 1 == [64]) = true ∧
    gives (.lea h0 3 true (.imm 0) (.v 1) .push) (put one mins) (fun t => q t 2 == [0xFFFFFFFF, 0xFFFFFFF8]) = true := by
  decide +kernel

/-- Registers 0 to 5: 0xF0, a control of pos 4 and length 4, 32 bits from position 63, an index of 5, 7, 8. -/
def moves : Agent := withRegs [0xF0, 0x0404, 0x203F, 5, 7, 8]

theorem met_FieldsAndMoves : Issues (put one moves) 0 moves h0 ∧
    moves.srcs [⟨.v 0, 32, .int⟩, ⟨.v 1, 32, .int⟩] = .ok [0xF0, 0x0404] ∧ moves.dstReady .push 1 = .ok () ∧
    moves.srcs [⟨.imm 0, 64, .int⟩, ⟨.v 4, 64, .int⟩, ⟨.v 2, 32, .int⟩] = .ok [0, 8 * 2 ^ 32 + 7, 0x203F] ∧ moves.dstReady (.reg 14) 2 = .ok () ∧
    Cls.both.forbids moves = false ∧ moves.src ⟨.v 3, 32, .int⟩ = .ok 5 ∧ moves.readV (5 + 10) 1 = .ok [0] ∧
    moves.srcs [⟨.v 3, 32, .int⟩, ⟨.v 4, 32, .int⟩] = .ok [5, 7] ∧ moves.readV 5 1 = .ok [8] ∧
    moves.srcs ((dupSrcs (.three (.v 0) (.v 4) (.v 5))).map fun x => ⟨x, 32, .int⟩) = .ok [0xF0, 7, 8] :=
  ⟨put_issues _ _ _ (by decide +kernel) (by decide +kernel), by decide +kernel⟩

/-- 12 R315, R320, R325: the sign of a field; an indexed register; an index past the demand faults with cause 0x04. -/
theorem test_moves : gives (.bfe h0 .b32 true (.v 0) (.v 1) .push) (put one moves) (fun t => q t 1 == [0xFFFFFFFF]) = true ∧
    gives (.bfi h0 .n64 (.imm 0) (.v 4) (.v 2) .push) (put one moves) (fun t => q t 2 == [0x80000000, 0]) = true ∧
    gives (.ridx h0 (.v 3) 0xFFFFFFFF .push) (put one moves) (fun t => q t 1 == [7]) = true ∧
    gives (.widx h0 (.v 3) (.imm 9)) (put one moves) (fun t => (agentOf t).top.regs.getD 5 0 == 9 && q t 1 == [0]) = true ∧
    moves.readV 16 1 = .fault 0x04 16 ∧
    gives (.dup h0 (.two (.v 4) (.v 5)) .push) (put one moves) (fun t => q t 2 == [8, 7]) = true := by decide +kernel

theorem met_ComparisonResults : Issues (put one mins) 0 mins h0 ∧ Cls.both.forbids mins = false ∧ Cls.thread.forbids mins = false ∧
    mins.srcs [⟨.v 0, 32, .f32⟩, ⟨.v 1, 32, .f32⟩] = .ok [0x80000000, 0xFFFFFFFF] ∧ mins.dstReady (.pred 6) 1 = .ok () ∧
    mins.srcs [⟨.v 2, 64, .f64⟩, ⟨.imm 1, 64, .f64⟩] = .ok [2 ^ 63, 0x3FF0000000000000] ∧
    mins.psel ⟨7, true⟩ = .ok false ∧ mins.psel ⟨0, true⟩ = .ok true :=
  ⟨mins_issues, by decide +kernel⟩

/-- 12 R317, 13 R346: signed and unsigned order; a NaN is unordered. -/
theorem test_compare : gives (.isetp h0 .lt .i32 (.v 0) (.v 1) (.pred 2)) (put one mins) (fun t => (agentOf t).arch.preds == 4) = true ∧
    gives (.isetp h0 .gt .n32 (.v 0) (.v 1) .push) (put one mins) (fun t => q t 1 == [0]) = true ∧
    gives (.fsetp h0 .ge (.v 0) (.v 1) .push) (put one mins) (fun t => q t 1 == [0]) = true ∧
    gives (.fsetp h0 .ne (.v 0) (.v 1) .push) (put one mins) (fun t => q t 1 == [1]) = true ∧
    gives (.dsetp h0 .eq (.v 2) (.imm 0) .push) (put one mins) (fun t => q t 1 == [1]) = true := by decide +kernel

/-- A thread in a loop, in a handler. -/
def looping : Agent :=
  let a := inTrap false 0x13
  { a with arch := { a.arch with loops := [⟨0x20000, 1, 3⟩] } }

theorem met_SpecialRegisters : Issues (put one mins) 0 mins h0 ∧ mins.dstReady (.reg 0) 2 = .ok () ∧ mins.inHandler = false ∧
    mins.arch.loops = [] ∧ Issues (put one looping) 0 looping h0 ∧ looping.arch.loops = [⟨0x20000, 1, 3⟩] ∧
    looping.src ⟨.imm 9, 32, .int⟩ = .ok 9 ∧ looping.flt.entries = ⟨0x13, 0, false, false, []⟩ :: [] ∧ looping.inHandler = true ∧
    looping.src ⟨.imm 0x3F, 64, .int⟩ = .ok (2 ^ 64 - 1) ∧ mins.id.seq = false ∧ 0 < (one.grid mins.id.grid).lrec.tx ∧
    0 < (one.grid mins.id.grid).lrec.ty ∧ 0 < (one.grid mins.id.grid).lrec.gx ∧ 0 < (one.grid mins.id.grid).lrec.gy :=
  ⟨mins_issues, by decide +kernel, by decide +kernel, by decide +kernel,
    put_issues _ _ _ (by decide +kernel) (by decide +kernel), by decide +kernel⟩

/-- 12 R322, R324, 07 R173: a write of the trap cause declares the copy; outside handler mode it is a fault, and without a
trap vector that ends the grid. -/
theorem test_registers : gives (.setsr h0 29 (.imm 5)) (put one looping) (fun t => (agentOf t).flt.entries.all (·.declared) &&
      (agentOf t).arch.trapcause == 5) = true ∧
    gives (.setsr h0 29 (.imm 5)) (put one mins) (fun t => t.agents == []) = true ∧
    gives (.setsr h0 28 (.imm 9)) (put one looping) (fun t => (agentOf t).arch.loops == [⟨0x20000, 1, 9⟩]) = true ∧
    gives (.getsr h0 8 .push) (put one mins) (fun t => q t 1 == [1]) = true := by decide +kernel

/-! Floating point, conversions, lanes. -/

theorem met_FloatRounding : f32F ∈ [f32F, f64F, f16F, bf16F] ∧ (0 : Nat) < 1 ∧
    vcmp (.fin false 1 0) (.fin false (f32F.magVal (f32F.emax * 2 ^ f32F.mb)).m (f32F.magVal (f32F.emax * 2 ^ f32F.mb)).x) = some .lt ∧
    vcmp (.fin false 1 128) (.fin false (f32F.magVal (f32F.emax * 2 ^ f32F.mb)).m (f32F.magVal (f32F.emax * 2 ^ f32F.mb)).x) ≠ some .lt := by
  decide +kernel

/-- 10 R270, R271: a half of the least subnormal ties to zero; just below 2^128 overflows in rne and stops at the greatest in rz. -/
theorem test_rounding : f32F.encVal .rne false (.fin false 1 (-150)) = 0 ∧ f32F.encVal .ru false (.fin false 1 (-150)) = 1 ∧
    f32F.encVal .rne false (.fin false (2 ^ 25 - 1) 103) = 0x7F800000 ∧ f32F.encVal .rz false (.fin true (2 ^ 25 - 1) 103) = 0xFF7FFFFF ∧
    f32F.encVal .ro false (.fin false (2 ^ 25 + 1) 0) = 0x4C000001 := by decide +kernel

/-- 1.0, 2^-24, the greatest f32, a signalling NaN. -/
def floats : Agent := withRegs [0x3F800000, 0x33800000, 0x7F7FFFFF, 0x7F800001]

theorem floats_issues : Issues (put one floats) 0 floats h0 := put_issues _ _ _ (by decide +kernel) (by decide +kernel)

theorem met_FloatResults : Issues (put one floats) 0 floats h0 ∧ Cls.thread.forbids floats = false ∧
    floats.srcs [⟨.v 0, 32, .f32⟩, ⟨.v 1, 32, .f32⟩, ⟨.imm 0x3F, 32, .f32⟩] = .ok [0x3F800000, 0x33800000, 0xBF800000] ∧
    floats.srcs [⟨.v 0, 64, .f64⟩, ⟨.imm 1, 64, .f64⟩] = .ok [0x338000003F800000, 0x3FF0000000000000] ∧
    floats.srcs [⟨.v 0, 32, .f16x2⟩, ⟨.imm 1, 32, .f16x2⟩] = .ok [0x3F800000, 0x3C003C00] ∧ floats.dstReady (.reg 4) 2 = .ok () :=
  ⟨floats_issues, by decide +kernel⟩

/-- 13 R344, R345, R347: a tie to even; overflow; the NaN operand of fmin; a class. -/
theorem test_floats : gives (.fadd h0 .rne (.v 0) (.v 1) .push) (put one floats) (fun t => q t 1 == [0x3F800000]) = true ∧
    gives (.fadd h0 .ru (.v 0) (.v 1) .push) (put one floats) (fun t => q t 1 == [0x3F800001]) = true ∧
    gives (.fmul h0 .rz (.v 2) (.imm 2) .push) (put one floats) (fun t => q t 1 == [0x7F7FFFFF]) = true ∧
    gives (.ffma h0 .rne (.v 0) (.v 1) (.imm 0x3F) .push) (put one floats) (fun t => q t 1 == [0xBF7FFFFF]) = true ∧
    gives (.fmin h0 .f32 (.v 3) (.v 0) .push) (put one floats) (fun t => q t 1 == [0x3F800000]) = true ∧
    gives (.fclass h0 .f32 (.v 3) .push) (put one floats) (fun t => q t 1 == [256]) = true := by decide +kernel

theorem met_SpecialFunctions : Issues (put one floats) 0 floats h0 ∧ floats.id.seq = false ∧
    floats.srcs [⟨.v 3, 32, .f32⟩] = .ok [0x7F800001] ∧ floats.dstReady .push 1 = .ok () ∧ f32F.decFloat 0x7F800001 = .nan ∧
    f32F.decFloat 0x80000001 = .fin true 1 (-149) ∧ (0 : Nat) < 1 :=
  ⟨floats_issues, by decide +kernel⟩

/-- A machine whose slot 3 is bound to image 0 with its plane held, and whose slot 4 is unbound. -/
def bound : State :=
  let s := one.setImage 0 { st := 1, cls := 1, fmt := { w := 8, eb := 4, mb := 3, bias := 7, inf := 0, nanp := 2 } }
  let s := s.setSlot 0 0 3 { st := 1, img := 0 }
  s.setCob 0 { s.cob 0 with planes := [{ img := some 0 }] ++ List.replicate 15 {} }

theorem met_Conversions : Issues (put bound floats) 0 floats h0 ∧ Cls.thread.forbids floats = false ∧
    floats.srcs [⟨.v 2, 32, cAs .f32⟩] = .ok [0x7F7FFFFF] ∧ floats.id.seq = false ∧ ((put bound floats).slot 0 0 3).st = 1 ∧
    floats.dstReady .push 1 = .ok () ∧ floats.src ⟨.imm 0, 32, .int⟩ = .ok 0 ∧
    ((put bound floats).usePlanes (cobOfCore floats.pos.core) 0 [((put bound floats).slot 0 0 3).img]).1 = true ∧
    floats.src ⟨.v 0, 32, .f32⟩ = .ok 0x3F800000 ∧ ((put bound floats).slot 0 0 4).st = 0 :=
  ⟨put_issues _ _ _ (by decide +kernel) (by decide +kernel), by decide +kernel⟩

/-- 13 R354, R359: conversion to i32 saturates or wraps at its end; the worked `pack` of 13. -/
theorem test_convert : gives (.cvt h0 (.scalar .f32 .n32) .rz true (.imm 0x3F) .push) (put one floats) (fun t => q t 1 == [0]) = true ∧
    gives (.pack h0 .bf16x2 .rne (.v 0) (.v 1) .push) (put one (withRegs [0x3F808000, 0x40400000])) (fun t => q t 1 == [0x40403F80]) = true ∧
    gives (.pack h0 .bf16x2 .ru (.v 0) (.v 1) .push) (put one (withRegs [0x3F808000, 0x40400000])) (fun t => q t 1 == [0x40403F81]) = true ∧
    gives (.unpk h0 .bf16x2 (.v 0) .push) (put one (withRegs [0x40403F80])) (fun t => q t 2 == [0x40400000, 0x3F800000]) = true := by
  decide +kernel

/-- The control of an exchange in which only lane 0 takes part, and one that waits for lane 1. -/
def alone : Agent := withRegs [1, 7, 3]

theorem alone_issues : Issues (put one alone) 0 alone h0 := put_issues _ _ _ (by decide +kernel) (by decide +kernel)

theorem met_CrossLaneExchange : Issues (put one alone) 0 alone h0 ∧ alone.id.seq = false ∧
    xArgs ⟨.v 1, 32, .int⟩ ⟨.imm 0x3F, 32, .int⟩ (.v 0) alone = .ok ⟨7, 0xFFFFFFFF, 1⟩ ∧ xReady alone .push 1 3 = .ok () ∧
    (alone.psel ⟨7, false⟩).andThen (fun b => (alone.src ⟨.v 0, 32, .int⟩).andThen fun k => .ok (XArg.mk (b2n b) (b2n true) k)) =
      .ok ⟨1, 1, 1⟩ :=
  ⟨alone_issues, by decide +kernel⟩

/-- 13 R361, R367: a lane alone; a lane whose partner has not come waits. -/
theorem test_lanes : gives (.redux h0 (.iadd .i32) 7 (.v 1) (.imm 1) (.v 0) .push) (put one alone) (fun t => t.agents != [] &&
      (agentOf t).pend.ops.map (·.st) == [OpSt.ready [22]]) = true ∧
    gives (.vote h0 .ballot 7 ⟨7, false⟩ false (.v 0) .push) (put one alone) (fun t =>
      (agentOf t).pend.ops.map (·.st) == [OpSt.ready [1]]) = true := by decide +kernel

theorem met_CrossLaneValues : (0 : Nat) < 16 ∧
    (let v := viewOf [(0, alone, ⟨7, 9, 1⟩)] alone ⟨7, 9, 1⟩
     v.c.length = 16 ∧ v.filled.length = 16 ∧ v.lane < 16 ∧ v.c.getD 0 0 = 7 ∧ v.c.getD 15 0 = 9) ∧
    ((f32F.decFloat 0x7FC00001).isNan = true ∧ (f32F.decFloat 0).isNan = false ∧ vcmp (f32F.decFloat 0x80000000) (f32F.decFloat 0) = some .eq) ∧
    (∀ j w y, (j, w, y) ∈ [(0, alone, XArg.mk 7 9 1)] → w.pos.lane ≠ 1) :=
  ⟨by decide, by decide +kernel, by decide +kernel, fun j w y h => by simp at h; obtain ⟨rfl, rfl, rfl⟩ := h; decide +kernel⟩

/-- A thread whose join slot 2 names lanes 0 and 1. -/
def joined : Agent := { alone with arch := { alone.arch with joins := [0, 0, 3, 1] } }

theorem met_Regrouping : Issues (put one joined) 0 joined h0 ∧ joined.id.seq = false ∧ joined.dstReady .push 1 = .ok () ∧
    joined.arch.joins.getD 0 0 = 0 ∧ joined.arch.joins.getD 3 0 ≠ 0 ∧ joined.pend.rejoin = none ∧
    joined.arch.mac = none ∧ h0.settle = false :=
  ⟨put_issues _ _ _ (by decide +kernel) (by decide +kernel), by decide +kernel⟩

/-- 13 R371 to R373: a thread alone enrols its own lane, and goes on from a slot that names no other lane. -/
theorem test_regroup : gives (.enrol h0 1) (put one joined) (fun t => (agentOf t).arch.joins == [0, 1, 3, 1]) = true ∧
    gives (.groupq h0 3 .push) (put one joined) (fun t => q t 1 == [3]) = true ∧
    gives (.rejoin h0 3) (put one joined) (fun t => (agentOf t).arch.joins == [0, 0, 3, 0] && (agentOf t).arch.pc == 0x10008) = true := by
  decide +kernel

/-! Memory, ordering, scopes. -/

theorem reaches_of {s : State} {a : Agent} {k va n : Nat} (h1 : s.scopeCheck a k = .ok ())
    (h2 : inWindow va = true → s.windowFault a va n = none) : Reaches s a (some k) va n :=
  ⟨fun _ h => Option.some.inj h ▸ h1, h2⟩

theorem reaches_plain {s : State} {a : Agent} {va n : Nat} (h2 : inWindow va = true → s.windowFault a va n = none) :
    Reaches s a none va n := ⟨fun _ h => (nomatch h), h2⟩

theorem fst_of {α β : Type} {x : α × β} {y : α} (h : x.1 = y) : x = (y, x.2) := by subst h; rfl

/-- A team with a scratchpad area of 4 KiB, a barrier object for one arrival at 0x40 of it, and 0x80 of memory holding 5. -/
def memS : State :=
  let s := one.setGrid 1 { one.grid 1 with lrec := { (one.grid 1).lrec with scratch := 4096 } }
  poke (pokeScr s 0x40 (bytesOf (9 + 2 ^ 64) 16)) 0x8080 (bytesOf 5 8)

/-- v0, v1: address 0x8080; v2, v3: the barrier's address; v4, v5: data; v6, v7: an element's bit address, 3 bits into 0x8080;
v8: 6; v10, v11: 0x8081, not aligned. -/
def memA : Agent := withRegs [0x8080, 0, 0x40, 0x1FFFF00, 0x11223344, 0x55667788, 0x40403, 0, 6, 0, 0x8081, 0]

theorem mem_issues : Issues (put memS memA) 0 memA h0 := put_issues _ _ _ (by decide +kernel) (by decide +kernel)

/-- The places an access of the thread touches. -/
def touched (va n : Nat) (acs : Acs) : Touch × State := (put memS memA).touch memA (put memS memA).run.nextId va n acs

theorem met_LoadsAndStoresStart : Issues (put memS memA) 0 memA h0 ∧ memA.src ⟨.v 0, 64, .int⟩ = .ok 0x8080 ∧
    memA.src ⟨.v 10, 64, .int⟩ = .ok 0x8081 ∧ (0x8080 % 8 = 0 ∧ 0x8081 % 8 ≠ 0) ∧ memA.dstReady .push 2 = .ok () ∧
    Reaches (put memS memA) memA (some 3) 0x8080 8 ∧ Reaches (put memS memA) memA none 0x8080 8 ∧ memA.memHeld = false ∧
    memA.hasParked = false ∧ memA.srcs [⟨.v 2, 64, .int⟩, ⟨.v 4, 64, .int⟩] = .ok [0x01FFFF0000000040, 0x5566778811223344] ∧
    Reaches (put memS memA) memA none 0x01FFFF0000000040 8 ∧ memA.id.seq = false ∧ inWindow 0x8080 = false ∧
    inWindow 0x01FFFF0000000000 = true :=
  ⟨mem_issues, by decide +kernel, by decide +kernel, by decide, by decide +kernel, reaches_of (by decide +kernel) (by decide +kernel),
    reaches_plain (by decide +kernel), by decide +kernel, by decide +kernel, by decide +kernel, reaches_plain (by decide +kernel),
    by decide +kernel⟩

/-- Element accesses: slot 3 bound to a format of 8 bits; the last element before the address. -/
theorem met_LoadsAndStoresStart_elements : Issues (put bound memA) 0 memA h0 ∧ memA.src ⟨.v 6, 64, .int⟩ = .ok 0x40403 ∧
    ((put bound memA).slot 0 0 3).st = 1 ∧ memA.memHeld = false ∧
    Reaches (put bound memA) memA none ((0x40403 - 8) / 8) ((3 + 8 + 7) / 8) ∧
    memA.srcs [⟨.v 6, 64, .int⟩, ⟨.v 4, 32, .int⟩] = .ok [0x40403, 0x11223344] :=
  ⟨put_issues _ _ _ (by decide +kernel) (by decide +kernel), by decide +kernel, by decide +kernel, by decide +kernel,
    reaches_plain (by decide +kernel), by decide +kernel⟩

/-- 14 R378, R379: a store to memory and to the scratchpad; a load reads what it finds. -/
theorem test_memory : gives (.st h0 .b16 (-1) 0 false (.v 0) (.v 4)) (put memS memA) (fun t =>
      t.getNat (.mem 0x807E) 2 == 0x3344 && t.getNat (.mem 0x8080) 8 == 5 && (agentOf t).arch.pc == 0x10008) = true ∧
    gives (.st h0 .b64 1 0 false (.v 2) (.v 4)) (put memS memA) (fun t => t.getNat (.scr 0 0x48) 8 == 0x5566778811223344) = true ∧
    gives (.ld h0 .b64 0 0 false (.v 0) .push) (put memS memA) (fun t => (agentOf t).pend.ops.map (·.st) == [OpSt.ready [5, 0]]) = true ∧
    gives (.ld h0 .b64 0 0 false (.v 10) .push) (put memS memA) (fun t => t.agents == [] && t.mem == memS.mem) = true := by decide +kernel

/-- The same under a trap vector, so that a fault is taken and the grid goes on. -/
def vecS : State := memS.setGrid 1 { memS.grid 1 with vector := some (0x20000, 8) }

theorem test_alignment : gives (.ld h0 .b64 0 0 false (.v 10) .push) (put vecS memA) (fun t =>
    (agentOf t).flt.entries.map (·.cause) == [0x0A] && (agentOf t).arch.trapaddr == 0x8081 && (agentOf t).arch.pc == 0x20000) = true := by decide +kernel

theorem met_AtomicsStart : Issues (put memS memA) 0 memA h0 ∧ memA.memHeld = false ∧ memA.hasParked = false ∧
    memA.srcs (atomOps (.cas .b32 (.v 4)) (.v 0) (.v 8)) = .ok [0x8080, 6, 0x11223344] ∧ 0x8080 % (32 / 8) = 0 ∧
    Reaches (put memS memA) memA (some 3) 0x8080 4 ∧ (put memS memA).siteFault memA 3 0x8080 = false ∧
    memA.dstReady (.reg 12) 1 = .ok () ∧ memA.srcs [⟨.v 0, 64, .int⟩, ⟨.imm 0x3F, 64, .int⟩] = .ok [0x8080, 2 ^ 64 - 1] ∧
    Reaches (put memS memA) memA (some 3) 0x8080 8 ∧
    memA.srcs (atomOps (.arith .add .i32) (.v 10) (.v 8)) = .ok [0x8081, 6] ∧ 0x8081 % (32 / 8) ≠ 0 ∧
    Reaches (put memS memA) memA (some 3) 0x8081 4 :=
  ⟨mem_issues, by decide +kernel, by decide +kernel, by decide +kernel, by decide, reaches_of (by decide +kernel) (by decide +kernel),
    by decide +kernel, by decide +kernel, by decide +kernel, reaches_of (by decide +kernel) (by decide +kernel), by decide +kernel,
    by decide, reaches_of (by decide +kernel) (by decide +kernel)⟩

/-- 14 R386, R391: an atomic returns the old value; a counter add of all ones saturates. -/
theorem test_atomics : gives (.atom h0 (.arith .add .i32) 3 .rlx (.v 0) (.imm 0x3F) .push) (put memS memA) (fun t =>
      t.getNat (.mem 0x8080) 4 == 4 && (agentOf t).pend.ops.map (·.st) == [OpSt.ready [5]]) = true ∧
    gives (.red h0 (.cas .b32 (.v 4)) 3 false (.v 0) (.v 8)) (put memS memA) (fun t => t.mem == memS.mem) = true ∧
    gives (.ctadd h0 3 false (.v 0) (.imm 0x3F)) (put memS memA) (fun t => t.getNat (.mem 0x8080) 8 == 2 ^ 64 - 1) = true := by decide +kernel

theorem met_AccessEffects : touched 0x8080 8 .r = (.ok [(.mem 0x8080, 8)], (touched 0x8080 8 .r).2) ∧ 8 ∈ [1, 2, 4, 8, 16] ∧
    touched 0x8080 1 .r = (.ok [(.mem 0x8080, 1)], (touched 0x8080 1 .r).2) ∧
    touched 0x8080 8 .w = (.ok [(.mem 0x8080, 8)], (touched 0x8080 8 .w).2) ∧
    touched 0x8080 4 .w = (.ok [(.mem 0x8080, 4)], (touched 0x8080 4 .w).2) ∧
    touched (0x40403 / 8) ((0x40403 % 8 + 8 + 7) / 8) .r =
      (.ok [(.mem 0x8080, 2)], (touched (0x40403 / 8) ((0x40403 % 8 + 8 + 7) / 8) .r).2) ∧
    touched (0x40403 / 8) ((0x40403 % 8 + 8 + 7) / 8) .w =
      (.ok [(.mem 0x8080, 2)], (touched (0x40403 / 8) ((0x40403 % 8 + 8 + 7) / 8) .w).2) ∧ 8 ≤ 32 ∧ 0xFF < 2 ^ 8 :=
  ⟨fst_of (by decide +kernel), by decide, fst_of (by decide +kernel), fst_of (by decide +kernel), fst_of (by decide +kernel),
    fst_of (by decide +kernel), fst_of (by decide +kernel), by decide, by decide⟩

/-- A load just reserved, at an address that is mapped, one that is beyond the tables and one that is not present. -/
def loadOp (va : Nat) : Op :=
  { id := 5, pc := 0x10000, iword := 0, words := 2, regw := none, preds := [], silent := false, stop := false, acq := false,
    st := .held, acc := some (.load va 8 false), since := 0 }
def loading (va : Nat) : Agent :=
  { memA with pend := { memA.pend with ops := [loadOp va] }
              arch := { memA.arch with queue := [{ pend := some (5, 1) }, { pend := some (5, 0) }] ++ List.replicate 14 {} } }

/-- One that prefetches a line, and one that has ended. -/
def prefOp (va : Nat) : Op := { loadOp va with words := 0, acc := some (.pref va) }
def gone (a : Agent) : Agent := { a with id := { a.id with team := 0, pod := 0 }, pos := { a.pos with out := true } }

theorem met_AccessOutcomes_light : (loading 0x8080).ended = false ∧ (gone (loading 0x8080)).ended = true ∧
    (gone (loading 0x8080)).op 5 = some (loadOp 0x8080) ∧
    ((put memS (gone (loading 0x8080))).attempt (gone (loading 0x8080)) 5 (.load 0x8080 8 false) none).1 = .done [5, 0] ∧
    (prefOp (2 ^ 57)).acc = some (.pref (2 ^ 57)) ∧ ((put memS memA).attempt memA 5 (.pref (2 ^ 57)) none).1 = .done [] := by
  decide +kernel

theorem met_AccessOutcomes : tget (put memS (loading 0x8080)).agents 0 = some (loading 0x8080) ∧
    (loading 0x8080).op 5 = some (loadOp 0x8080) ∧ (loadOp 0x8080).acc = some (.load 0x8080 8 false) ∧
    ((put memS (loading 0x8080)).attempt (loading 0x8080) 5 (.load 0x8080 8 false) none).1 = .done [5, 0] ∧
    ((put memS (loading (2 ^ 57))).attempt (loading (2 ^ 57)) 5 (.load (2 ^ 57) 8 false) none).1 = .fail 0x0B (2 ^ 57) ∧
    ((put memS (loading 0x40000000)).attempt (loading 0x40000000) 5 (.load 0x40000000 8 false) none).1 = .park 0x40000000 0 ∧
    ((put memS (loading 0x40000000)).attempt (loading 0x40000000) 5 (.load 0x40000000 8 false) none).2.bufferRoom 0 = true ∧
    (Acc.tileLd {} 13 0 3).captured = some (0, 3) ∧ ((put memS memA).usePlanes 0 5 [0]).1 = false ∧
    ((put bound memA).usePlanes 0 5 [0]).1 = true ∧
    inWindow 0x01FFFF0000000FF8 = true ∧ memA.parkedOn 5 0x01FFFF0000000FF8 8 = none ∧ memS.areaOf memA = (0, 4096) ∧
    (0 ≤ 0x01FFFF0000000FF8 % 2 ^ 40 ∧ 0x01FFFF0000000FF8 % 2 ^ 40 + 8 ≤ 0 + 4096) ∧
    ¬ (0 ≤ 0x01FFFF0000000FF9 % 2 ^ 40 ∧ 0x01FFFF0000000FF9 % 2 ^ 40 + 8 ≤ 0 + 4096) := by decide +kernel

theorem met_WritesAndReads : (1 : Nat) < (bytesOf 5 8).length ∧ (255 : Nat) < 256 ^ 1 ∧
    (∀ j, j < 8 → placeOf (Loc.mem 0x88) ≠ placeOf ((Loc.mem 0x80).add j)) ∧
    (∀ j, j < 8 → placeOf (Loc.scr 0 0x80) ≠ placeOf ((Loc.mem 0x80).add j)) := by decide +kernel

theorem met_DevicesKeepApart : (0 : Nat) < 4096 ∧
    (memS.resolve 0 0 0x8000 4096 .w) = (.ok [(.mem 0x8000, 4096)], (memS.resolve 0 0 0x8000 4096 .w).2) ∧
    SingleAccess (.store 0x8080 (bytesOf 5 16) false) ∧
    memS.attempt memA 5 (.store 0x8080 (bytesOf 5 16) false) none = (.done [], (memS.attempt memA 5 (.store 0x8080 (bytesOf 5 16) false) none).2) ∧
    granuleOf (2 ^ 30) = some 1 ∧ memS.ownerOf 1 ≠ memA.id.vd ∧
    ¬ (scrKey 0 0 ≤ scrKey 0 4096 ∧ scrKey 0 4096 < scrKey 0 (0 + 4096)) :=
  ⟨by decide, fst_of (by decide +kernel), ⟨by decide, by decide⟩, fst_of (by decide +kernel), by decide +kernel⟩

/-- A thread armed at the counter for 6, and one that a write of 7 has satisfied. -/
def armed (hit : Option Nat) : Agent :=
  { memA with pend := { memA.pend with ct := some ⟨.mem 0x8080, 0x8080, 6, 3, 0, some 9, hit, 0, 0⟩ } }

theorem met_CounterWaits : Issues (put memS memA) 0 memA h0 ∧ memA.pend.ct = none ∧ memA.dstReady .push 2 = .ok () ∧
    memA.srcs [⟨.v 0, 64, .int⟩, ⟨.imm 5, 64, .int⟩] = .ok [0x8080, 5] ∧
    memA.srcs ([⟨.v 0, 64, .int⟩, ⟨.imm 6, 64, .int⟩] ++ [⟨.imm 0, 32, .int⟩]) = .ok ([0x8080, 6] ++ [0]) ∧
    Reaches (put memS memA) memA (some 3) 0x8080 8 ∧
    touched 0x8080 8 .r = (.ok [(.mem 0x8080, 8)], (touched 0x8080 8 .r).2) ∧ (touched 0x8080 8 .r).2.getNat (.mem 0x8080) 8 = 5 ∧
    ownDead memA.pend.own 0x8080 8 false = none ∧ (touched 0x8080 8 .r).2.scopeDenies memA 3 = 0 ∧
    (touched 0x8080 8 .r).2.scopeDenies memA 8 ≠ 0 ∧ (armed (some 7)).pend.ct.map (·.denied) = some 0 ∧
    (armed none).pend.ct.map (·.expired 8) = some false ∧ (armed none).pend.ct.map (·.expired 9) = some true ∧
    Issues (put memS (armed (some 7))) 0 (armed (some 7)) h0 ∧
    Issues (put memS (armed none)) 0 (armed none) h0 ∧ overlaps (.mem 0x8087) 1 (.mem 0x8080) 8 = true ∧
    overlaps (.mem 0x8088) 1 (.mem 0x8080) 8 = false ∧ ((put memS (armed none)).write (.mem 0x8080) [6]).getNat (.mem 0x8080) 8 = 6 :=
  ⟨mem_issues, by decide +kernel, by decide +kernel, by decide +kernel, by decide +kernel, reaches_of (by decide +kernel) (by decide +kernel),
    fst_of (by decide +kernel), by decide +kernel, by decide +kernel, by decide +kernel, by decide +kernel, by decide +kernel,
    by decide +kernel, by decide +kernel, put_issues _ _ _ (by decide +kernel) (by decide +kernel),
    put_issues _ _ _ (by decide +kernel) (by decide +kernel), by decide +kernel⟩

/-- 14 R393: satisfied at once; armed; a timeout of 0 ends a grid without a trap vector. -/
theorem test_ctwait : gives (.ctwait h0 3 none (.v 0) (.imm 5) .push) (put memS memA) (fun t => q t 2 == [0, 5]) = true ∧
    gives (.ctwait h0 3 none (.v 0) (.imm 6) .push) (put memS memA) (fun t => (agentOf t).pend.ct.map (·.thr) == some 6 &&
      (agentOf t).arch.pc == 0x10000) = true ∧
    gives (.ctwait h0 3 (some (.imm 0)) (.v 0) (.imm 6) .push) (put memS memA) (fun t => t.agents == []) = true := by decide +kernel

theorem met_BarrierUpdates : Issues (put memS memA) 0 memA h0 ∧ memA.memHeld = false ∧ memA.hasParked = false ∧
    memA.src ⟨.v 2, 64, .int⟩ = .ok 0x01FFFF0000000040 ∧ memA.src ⟨.v 8, 32, .int⟩ = .ok 6 ∧ memA.dstReady (.reg 12) 2 = .ok () ∧
    0x01FFFF0000000040 % 16 = 0 ∧ inWindow 0x01FFFF0000000040 = true ∧ Reaches (put memS memA) memA none 0x01FFFF0000000040 16 ∧
    Reaches (put memS memA) memA (some 3) 0x01FFFF0000000040 16 ∧ memA.src ⟨.v 0, 64, .int⟩ = .ok 0x8080 ∧ 0x8080 % 16 = 0 ∧
    inWindow 0x8080 = false ∧ (put memS memA).barAt 0 0x40 = ⟨9, 1, 0, 0, 0, 0⟩ :=
  ⟨mem_issues, by decide +kernel, by decide +kernel, by decide +kernel, by decide +kernel, by decide +kernel, by decide, by decide +kernel,
    reaches_plain (by decide +kernel), reaches_of (by decide +kernel) (by decide +kernel), by decide +kernel⟩

/-- 09 R251: the one arrival ends the phase; with bytes expected it does not; 4,096 arrivals are past the limit. -/
theorem test_barrier : gives (.barArrive h0 3 (.v 2) .push) (put memS memA) (fun t => q t 2 == [0, 9] && t.barAt 0 0x40 == ⟨10, 1, 0, 0, 0, 0⟩) = true ∧
    gives (.barArrivex h0 3 (.v 2) (.v 8) .push) (put memS memA) (fun t => q t 2 == [0, 9] && t.barAt 0 0x40 == ⟨9, 1, 1, 0, 6, 0⟩) = true ∧
    gives (.barInit h0 (.v 2) (.v 4)) (put vecS memA) (fun t => (agentOf t).flt.entries.map (·.cause) == [0x1A] && t.scr == vecS.scr) = true ∧
    barNext ⟨2 ^ 64 - 1, 1, 0, 0, 0, 0⟩ 1 0 = some ⟨2 ^ 64 - 1, 1, 0, 0, 0, 0⟩ ∧ barNext ⟨0, 0, 0, 0, 0, 0⟩ 1 0 = none := by decide +kernel

theorem met_OrderingLinesAndPins : Issues (put memS memA) 0 memA h0 ∧ (put memS memA).scopeCheck memA 3 = .ok () ∧
    memA.memHeld = false ∧ memA.hasParked = false ∧ (put memS memA).scopeCheck memA 8 = .fault 0x08 8 ∧
    memA.srcs [⟨.v 0, 64, .int⟩, ⟨.imm 1, 32, .int⟩] = .ok [0x8080, 1] ∧ memA.src ⟨.v 0, 64, .int⟩ = .ok 0x8080 ∧
    memA.srcs [⟨.imm 1, 64, .int⟩, ⟨.v 16, 32, .int⟩] = .fault 0x04 16 ∧ memA.src ⟨.v 16, 64, .int⟩ = .fault 0x04 16 ∧
    inWindow 0x8080 = false ∧ ((put memS memA).core 0).pins.Nodup ∧ ((put memS memA).core 0).pins.length ≤ 256 ∧ ((put memS memA).die 0).l2pins.length ≤ 131072 ∧
    (match memS.walk 0 0 0x8080 .r with
      | .ok p => p.rmt == none && p.pa == 0x8080 && memS.physFail 0 p.pa 128 == none
      | _ => false) = true ∧
    (({ memS with sideCache := [⟨257, 0, 0, true⟩] } : State).cleanRange true memA 0x8080 1).sideCache = [⟨257, 0, 0, false⟩] :=
  ⟨mem_issues, by decide +kernel⟩

/-- 14 R403: a range of one byte pins one line; of 129 from its end two. -/
theorem test_pins : gives (.ipin h0 false (.v 0) (.imm 1)) (put memS memA) (fun t => (t.core 0).pins.map (·.va) == [0x8080]) = true ∧
    gives (.fence h0 .sc 0) (put memS memA) (fun t => (agentOf t).arch.pc == 0x10008) = true := by decide +kernel

/-- A context that may write its scope table; a descriptor of cores 0 and 1, met in the core's die, sited at the die, at 0x8000;
entry 9 VALID for core 0, entry 10 for core 1, entry 11 PENDING. -/
def scopeS : State :=
  let s := memS.setCtx 0 0 { memS.ctx 0 0 with scopew := true }
  let s := s.setScope 0 0 9 { gen := 3, st := .valid, members := 1 }
  let s := s.setScope 0 0 10 { gen := 4, st := .valid, members := 2 }
  let s := s.setScope 0 0 11 { gen := 5, st := .pending, nmembers := 3, nmeet := 1, nsite := 1, nvalid := true }
  poke { s with mem := one.mem } 0x8000 (bytesOf (3 + 2 ^ 1152 + 2 ^ 1153 + 2 ^ 1155) 192)

def scopeA : Agent := withRegs [0x8000, 0, 0x8001, 0]

theorem met_ScopeTable : Issues (put scopeS scopeA) 0 scopeA h0 ∧ scopeA.src ⟨.v 0, 64, .int⟩ = .ok 0x8000 ∧
    scopeA.src ⟨.v 2, 64, .int⟩ = .ok 0x8001 ∧ scopeA.dstReady .push 1 = .ok () ∧ ((put scopeS scopeA).ctx 0 0).scopew = true ∧
    ((put memS memA).ctx 0 0).scopew = false ∧ ((put scopeS scopeA).scope 0 0 8).st ≠ .pending ∧ scopeA.memHeld = false ∧
    ((put scopeS scopeA).touch scopeA (put scopeS scopeA).run.nextId 0x8000 192 .r).1 = .ok [(.mem 0x8000, 192)] ∧
    ((put scopeS scopeA).touch scopeA (put scopeS scopeA).run.nextId 0x8000 192 .w).1 = .ok [(.mem 0x8000, 192)] ∧
    scopewCode (scopeS.getNat (.mem 0x8000) 192) = 0 ∧ scopewCode (2 ^ 1152) = 1 ∧ scopewCode (3 + 2 ^ 1152) = 2 ∧
    scopewCode (3 + 2 ^ 1152 + 2 ^ 1153) = 3 ∧ scopewCode 0 = 0 ∧ ((scopeS.scope 0 0 7).st = .invalid ∧ (scopeS.scope 0 0 9).st = .valid ∧ (scopeS.scope 0 0 11).st = .pending) ∧ (2 ^ 1152 : Nat).testBit 1152 = true :=
  ⟨put_issues _ _ _ (by decide +kernel) (by decide +kernel), by decide +kernel⟩

/-- 14 R399, R400: an entry becomes PENDING with the next generation; the word of a fixed entry; an entry below 8 faults. -/
theorem test_scopes : gives (.scopew h0 9 (.v 0) .push) (put scopeS scopeA) (fun t => q t 1 == [0] && (t.scope 0 0 9).gen == 4 &&
      (t.scope 0 0 9).st == .pending && (t.scope 0 0 9).members == 1) = true ∧
    gives (.scoper h0 2 (.v 0) .push) (put scopeS scopeA) (fun t => q t 1 == [0x10000] && t.getNat (.mem 0x8000) 144 == 0xF) = true ∧
    gives (.scopew h0 7 (.v 0) .push) (put scopeS scopeA) (fun t => t.agents == []) = true := by decide +kernel

theorem met_ScopeChecks : (scopeS.scope 0 0 8).st = .invalid ∧ (scopeS.scope 0 0 9).st = .valid ∧
    (scopeS.scope 0 0 9).members.testBit scopeA.issuer = true ∧ (scopeS.scope 0 0 10).members.testBit scopeA.issuer = false ∧
    (scopeS.scope 0 0 11).st = .pending ∧ scopeS.scopeBusy 0 0 11 = false ∧ scopeS.scopeCheck scopeA 5 = .ok () ∧
    scopeS.scopeCheck scopeA 6 = .fault 0x08 6 := by decide +kernel

/-! Control, issue, traps. -/

theorem met_Advance : tget (put one looping).agents 0 = some looping ∧ looping.arch.mac = none ∧
    looping.arch.loops = [⟨0x20000, 1, 3⟩] ∧ (0x20000 : DWord) + BitVec.ofNat 64 (8 * 1) = 0x20008 ∧ 1 < (3 : Word).toNat ∧
    (1 : Word).toNat ≤ 1 ∧ (0x10008 : DWord) ≠ 0x20008 := by decide +kernel

/-- 12 R335: a body of one word, counted 2, 1 and 0. -/
def inLoop (n : Word) : Agent := { theAgent with arch := { theAgent.arch with loops := [⟨0x10000, 1, n⟩] } }

theorem test_loop_end : gives (.nop h0) (put one (inLoop 2)) (fun t => (agentOf t).arch.pc == 0x10000 && (agentOf t).arch.loops == [⟨0x10000, 1, 1⟩]) = true ∧
    gives (.nop h0) (put one (inLoop 1)) (fun t => (agentOf t).arch.pc == 0x10008 && (agentOf t).arch.loops == []) = true ∧
    gives (.nop h0) (put one (inLoop 0)) (fun t => (agentOf t).arch.pc == 0x10008 && (agentOf t).arch.loops == []) = true := by decide +kernel

/-- v0, v1: a target; v2, v3: one that is no multiple of 8; v4: 2. -/
def ctl : Agent := withRegs [0x10100, 0, 0x10104, 0, 2]
def deepLoops : Agent := { ctl with arch := { ctl.arch with loops := [⟨0x10, 1, 1⟩, ⟨0x20, 1, 1⟩, ⟨0x30, 1, 1⟩, ⟨0x40, 2, 1⟩] } }

theorem ctl_issues : Issues (put one ctl) 0 ctl h0 := put_issues _ _ _ (by decide +kernel) (by decide +kernel)

theorem met_BranchesAndLoops : Issues (put one ctl) 0 ctl h0 ∧ ctl.src ⟨.v 0, 64, .int⟩ = .ok 0x10100 ∧ 0x10100 % 8 = 0 ∧
    ctl.src ⟨.v 2, 64, .int⟩ = .ok 0x10104 ∧ 0x10104 % 8 ≠ 0 ∧ ctl.src ⟨.v 4, 32, .int⟩ = .ok 2 ∧ ctl.src ⟨.imm 0, 32, .int⟩ = .ok 0 ∧
    ctl.arch.loops.length ≤ (0 : Fin 4).val ∧ Issues (put one deepLoops) 0 deepLoops h0 ∧ 4 ≤ deepLoops.arch.loops.length ∧
    deepLoops.arch.loops.drop (3 : Fin 4).val = [⟨0x40, 2, 1⟩] :=
  ⟨ctl_issues, by decide +kernel, by decide, by decide +kernel, by decide, by decide +kernel, by decide +kernel, by decide +kernel,
    put_issues _ _ _ (by decide +kernel) (by decide +kernel), by decide +kernel⟩

/-- 12 R328, R334, R336: back to itself; the target of `brx`; a count of 0 leaves at once; four levels broken. -/
theorem test_branch : gives (.bra h0 0xFFFFFFFF) (put one ctl) (fun t => (agentOf t).arch.pc == 0x10000) = true ∧
    gives (.brx h0 (.v 0) 0xFFFFFFFF) (put one ctl) (fun t => (agentOf t).arch.pc == 0x100F8) = true ∧
    gives (.loop h0 (.imm 0) 2) (put one ctl) (fun t => (agentOf t).arch.pc == 0x10020 && (agentOf t).arch.loops == []) = true ∧
    gives (.loop h0 (.v 4) 2) (put one ctl) (fun t => (agentOf t).arch.pc == 0x10008 && (agentOf t).arch.loops == [⟨0x10008, 3, 2⟩]) = true ∧
    gives (.lbrk h0 3) (put one deepLoops) (fun t => (agentOf t).arch.pc == 0x50 && (agentOf t).arch.loops == []) = true ∧
    gives (.yield h0) (put one ctl) (fun t => (agentOf t).sched.yielded) = true := by decide +kernel

/-- A call depth of 255; a sequencer context whose pool is used up. -/
def deep : Agent := { ctl with arch := { ctl.arch with evicted := List.replicate 255 ⟨0, 8, false, false⟩ } }
def fullSeq : Agent :=
  let a := asSeq ctl
  { a with arch := { a.arch with frames := a.arch.frames.map fun f => { f with gran := upFromZero 16 } } }
where upFromZero (n : Nat) : List Nat := List.range n
def fullLane : Agent := { ctl with arch := { ctl.arch with frames := ctl.arch.frames.map fun f => { f with gran := List.range 57 } } }

theorem met_Calls : Issues (put one ctl) 0 ctl h0 ∧ ctl.pend.freq = none ∧ ctl.depth < 255 ∧ (put one ctl).blockedIn (poolOf 0 ctl) = [] ∧
    (8 * (15 + 1) + 15) / 16 ≤ ((put one ctl).freeGran (poolOf 0 ctl)).length ∧ ctl.src ⟨.v 4, 32, .int⟩ = .ok 2 ∧
    ctl.src ⟨.v 0, 64, .int⟩ = .ok 0x10100 ∧ ctl.src ⟨.v 2, 64, .int⟩ = .ok 0x10104 ∧ Issues (put one deep) 0 deep h0 ∧ 255 ≤ deep.depth ∧
    Issues (put one fullSeq) 0 fullSeq h0 ∧ fullSeq.id.seq = true ∧ ((put one fullSeq).freeGran (poolOf 0 fullSeq)).length < 1 ∧
    Issues (put one fullLane) 0 fullLane h0 ∧ fullLane.id.seq = false ∧ ((put one fullLane).freeGran (poolOf 0 fullLane)).length < 8 :=
  ⟨ctl_issues, by decide +kernel, by decide +kernel, by decide +kernel, by decide +kernel, by decide +kernel, by decide +kernel, by decide +kernel,
    put_issues _ _ _ (by decide +kernel) (by decide +kernel), by decide +kernel,
    put_issues _ _ _ (by decide +kernel) (by decide +kernel), by decide +kernel, by decide +kernel,
    put_issues _ _ _ (by decide +kernel) (by decide +kernel), by decide +kernel⟩

/-- 12 R329, R330: the new frame is zero, with its return address and landing. -/
theorem test_call : gives (.call h0 0 (some (.v 4)) 4) (put one ctl) (fun t => (agentOf t).arch.pc == 0x10028 && (agentOf t).depth == 1 &&
      (agentOf t).top.ret == 0x10008 && (agentOf t).top.hf && (agentOf t).top.land == 2 && (agentOf t).top.regs == List.replicate 8 0) = true ∧
    gives (.call h0 15 none 4) (put one fullLane) (fun t => (agentOf t).arch.pc == 0x10000 && (agentOf t).frameBlocked) = true := by
  decide +kernel

/-- A called frame, of a handler or not, above the thread's own. -/
def called (hf trf : Bool) : Agent :=
  { ctl with arch := { ctl.arch with frames := newFrame 5 8 0x10040 hf trf 2 [1] :: ctl.arch.frames } }

theorem met_Returns : Issues (put one ctl) 0 ctl h0 ∧ ctl.pend.freq = none ∧ ctl.depth = 0 ∧ (∀ g, g ∈ ctl.arch.frames → g.hf = false) ∧
    Issues (put one (called true false)) 0 (called true false) h0 ∧ (called true false).arch.frames =
      [] ++ newFrame 5 8 0x10040 true false 2 [1] :: ctl.arch.frames ∧ ctl.arch.frames ≠ [] ∧
    (newFrame 5 8 0x10040 true false 2 [1]).hf = true ∧ (newFrame 5 8 0x10040 true false 2 [1]).trf = false ∧
    Issues (put one (called false true)) 0 (called false true) h0 ∧ (newFrame 5 8 0x10040 false true 2 [1]).trf = true :=
  ⟨ctl_issues, by decide +kernel, by decide +kernel, by decide +kernel, put_issues _ _ _ (by decide +kernel) (by decide +kernel),
    by decide +kernel, by decide +kernel, by decide +kernel, by decide +kernel, put_issues _ _ _ (by decide +kernel) (by decide +kernel),
    by decide +kernel⟩

theorem test_return : gives (.ret h0) (put one (called true false)) (fun t => (agentOf t).arch.pc == 0x10040 && (agentOf t).depth == 0) = true ∧
    gives (.unwind h0) (put one (called true false)) (fun t => (agentOf t).arch.pc == 0x10050 && (agentOf t).depth == 1) = true ∧
    gives (.ret h0) (put one ctl) (fun t => t.agents == []) = true := by decide +kernel

theorem met_EndsAndTraps : Issues (put one ctl) 0 ctl h0 ∧ ctl.quiet = true ∧ ctl.settling = false ∧ ctl.completions true = [] ∧
    ctl.arch.mac = none ∧ ctl.dstReady .push 1 = .ok () ∧ ((put one ctl).freeGran (poolOf 0 ctl)).length < 128 ∧ ctl.depth < 256 ∧
    Issues (put memS (loading 0x8080)) 0 (loading 0x8080) h0 ∧ (loading 0x8080).quiet = false ∧ (loading 0x8080).late ≠ none :=
  ⟨ctl_issues, by decide +kernel, by decide +kernel, by decide +kernel, by decide +kernel, by decide +kernel, by decide +kernel,
    by decide +kernel, put_issues _ _ _ (by decide +kernel) (by decide +kernel), by decide +kernel⟩

/-- 12 R337, R341: the end of the one thread; a pool of 63 free granules that can serve 128 registers. -/
theorem test_end : gives (.exit h0) (put one ctl) (fun t => t.agents == []) = true ∧
    gives (.frq h0 16 .push) (put one ctl) (fun t => (agentOf t).pend.ops.map (·.st) == [OpSt.ready [0x1003F]]) = true := by decide +kernel

/-- A core whose microprogram 0 is one `exit`. -/
def macS : State := one.setCore 0 { one.core 0 with store := (0x5870000000000000 : DWord) :: List.replicate 2047 0 }
def inMac (a : Agent) : Agent := { a with arch := { a.arch with mac := some ⟨0, 0, 7, false, false, 0xC0, 0xC0, 0xC0, false⟩ } }

theorem met_Microprograms : Stands (put macS ctl) 0 ctl ∧ ctl.guard h0 = .ok true ∧ ctl.guard hOff = .ok false ∧ ctl.arch.mac = none ∧
    ((0 : BitVec 8).toNat < 64 ∧ ((put macS ctl).core ((put macS ctl).teamCore ctl)).store.getD (32 * (0 : BitVec 8).toNat) 0 ≠ 0) ∧
    ¬ ((64 : BitVec 8).toNat < 64) ∧ ¬ (((put macS ctl).core ((put macS ctl).teamCore ctl)).store.getD (32 * (1 : BitVec 8).toNat) 0 ≠ 0) ∧
    (31 : Nat) < 32 ∧ ctl.arch.pc.toNat < 2 ^ 57 :=
  ⟨put_stands _ _ (by decide +kernel), by decide +kernel⟩

theorem test_macro : gives (.macroOp h0 0 (.imm 0) (.imm 0) (.imm 0)) (put macS ctl) (fun t => (agentOf t).curPc == 0x4000000000010000) = true ∧
    gives (.macroOp hOff 1 (.imm 0) (.imm 0) (.imm 0)) (put macS ctl) (fun t => (agentOf t).arch.pc == 0x10008) = true ∧
    gives (.nop h0) (put macS (inMac ctl)) (fun t => (agentOf t).arch.pc == 0x10008 && (agentOf t).arch.mac == none) = true := by decide +kernel

theorem met_IssueAndGuards : encodeNat (.frcp h0 (.v 0) .push) ≠ none ∧ encodeNat (.thad h0 1 (.v 0)) ≠ none ∧
    encodeNat (.rtt h0) ≠ none ∧ Stands (put one (asSeq ctl)) 0 (asSeq ctl) ∧ (asSeq ctl).id.seq = true ∧ threadOp 0x20 = true ∧
    Stands (put one ctl) 0 ctl ∧ ctl.id.seq = false ∧ seqOp 0x70 = true ∧ handlerWord ((encodeNat (.rtt h0)).getD 0) = true ∧
    ctl.inHandler = false ∧ ctl.sched.psaved = none ∧ ctl.guard hOff = .ok false ∧
    regShape (.iadd hOff .i64 false (.v 0) (.imm 1) .push) =
      some ⟨hOff, .both, [⟨.v 0, 64, .int⟩, ⟨.imm 1, 64, .int⟩], .push, 2, false⟩ ∧ ctl.srcWords ⟨.v 0, 64, .int⟩ = .ok [0x10100, 0] ∧
    regShape (.movi hOff 5 .push) = some ⟨hOff, .both, [], .push, 1, false⟩ ∧ ctl.srcWords ⟨.v 16, 32, .int⟩ = .fault 0x04 16 :=
  ⟨by decide +kernel, by decide +kernel, by decide +kernel, put_stands _ _ (by decide +kernel), by decide +kernel, by decide +kernel,
    put_stands _ _ (by decide +kernel), by decide +kernel⟩

/-- 08 R191: a guarded-off 64-bit addition pushes the words of its first source. -/
theorem test_guarded : gives (.iadd hOff .i64 false (.v 0) (.imm 1) (.reg 6)) (put one ctl) (fun t => q t 2 == [0, 0x10100] &&
      (agentOf t).top.regs == ctl.top.regs) = true ∧
    gives (.isetp hOff .eq .i32 (.v 0) (.v 0) (.pred 1)) (put one ctl) (fun t => q t 1 == [0] && (agentOf t).arch.preds == 0) = true ∧
    gives (.unpk hOff .bf16x2 (.v 0) .push) (put one ctl) (fun t => q t 2 == [0, 0x10100]) = true := by decide +kernel

theorem met_RegisterFrame : regShape (.lea h0 3 true (.v 0) (.v 4) (.reg 6)) =
      some ⟨h0, .both, [⟨.v 0, 64, .int⟩, ⟨.v 4, 32, .int⟩], .reg 6, 2, false⟩ ∧
    regShape (.fsin h0 (.v 4) .push) = some ⟨h0, .thread, [⟨.v 4, 32, .f32⟩], .push, 1, true⟩ ∧ Issues (put one ctl) 0 ctl h0 ∧
    Cls.thread.forbids ctl = false ∧ ctl.srcs [⟨.v 0, 64, .int⟩, ⟨.v 4, 32, .int⟩] = .ok [0x10100, 2] ∧ ctl.dstReady (.reg 6) 2 = .ok () ∧
    ctl.srcs [⟨.v 16, 32, .int⟩] = .fault 0x04 16 ∧ ctl.dstReady (.reg 15) 2 = .fault 0x04 15 ∧ ctl.arch.mac = none :=
  ⟨by decide +kernel, by decide +kernel, ctl_issues, by decide +kernel⟩

theorem met_FaultsAreTaken : tget (put one ctl).agents 0 = some ctl ∧ ((put one ctl).grid 1).vector = none ∧
    ((put vecS ctl).grid 1).vector = some (0x20000, 8) ∧ (inTrap false 0x13).flt.entries = ⟨0x13, 0, false, false, []⟩ :: [] ∧
    (∀ e es, (inTrap true 0x13).flt.entries = e :: es → e.declared = true) ∧ ctl.flt.entries = [] ∧ 255 ≤ deep.depth ∧ ctl.depth < 255 :=
  ⟨by decide +kernel, by decide +kernel, by decide +kernel, by decide +kernel, fun e es h => by cases h; rfl, by decide +kernel⟩

/-- 05 R134: a fault in a handler that has not declared its copy ends the grid. -/
theorem test_double_fault : gives (.trap h0 1) (put vecS (inTrap false 0x13)) (fun t => t.agents == [] &&
      (t.grid 1).failed.map (·.1) == some 8) = true ∧
    gives (.trap h0 1) (put vecS (inTrap true 0x0B)) (fun t => (agentOf t).flt.entries.map (·.cause) == [0x13, 0x0B]) = true := by decide +kernel

/-- A thread whose trap is being entered. -/
def entering (a : Agent) : Agent :=
  { a with flt := { a.flt with trapping := true, due := some { cause := 0x13, pc := 0x10000, resume := some 0x10008 } } }

theorem met_TrapEntry : tget (put vecS (entering ctl)).agents 0 = some (entering ctl) ∧ (entering ctl).flt.trapping = true ∧
    (entering ctl).quiet = true ∧ (entering ctl).pos.out = false ∧ (entering ctl).pend.freq = none ∧ (entering ctl).pend.ct = none ∧
    ((put vecS (entering ctl)).grid 1).vector = some (0x20000, 8) ∧
    ((put vecS (entering ctl)).ownOf 0 ((put vecS (entering ctl)).spillBase (entering ctl)) 256 true
      ((put vecS (entering ctl)).writeVa 0 0 ((put vecS (entering ctl)).spillBase (entering ctl))
        (trapArea (put vecS (entering ctl)) (entering ctl) { cause := 0x13, pc := 0x10000, resume := some 0x10008 }))).1 = .ok () ∧
    (put vecS (entering ctl)).blockedIn (poolOf 0 (entering ctl)) = [] ∧
    1 ≤ ((put vecS (entering ctl)).freeGran (poolOf 0 (entering ctl))).length ∧
    ((put vecS (entering fullSeq)).freeGran (poolOf 0 (entering fullSeq))).length < 1 ∧
    (let s := put vecS ctl
     ctl.pos.core < 2 ^ 11 ∧ ctl.pos.lane < 16 ∧ ctl.pos.slot < 32 ∧ ctl.id.tid < 1024 ∧ ctl.id.vd < 64 ∧ ctl.id.ctx < 16 ∧
       s.teamN ctl.id.team < 2 ^ 32 ∧ s.spillBase ctl + 64 < 2 ^ 64 ∧ deepLoops.arch.loops.length ≤ 4) := by decide +kernel

/-- 05 R133, 07 R168: CAUSE, PC and the resume point of a `trap`; the handler has eight zero registers. -/
theorem test_trap : gives (.trap h0 1) (put vecS ctl) (fun t => t.getNat (.mem 0x20000) 4 == 0x13 && t.getNat (.mem 0x20008) 8 == 0x10000 &&
      (agentOf t).arch.trappc == 0x10008 && (agentOf t).arch.pc == 0x20000 && (agentOf t).top.regs == List.replicate 8 0) = true := by
  decide +kernel

/-- In the handler of a trap, with its frame on the chain, to resume at `pc`. -/
def handler (pc : DWord) : Agent :=
  let a := called false true
  { a with flt := { a.flt with entries := [⟨0x13, 0x10000, true, false, []⟩] }, arch := { a.arch with trappc := pc } }

theorem met_ReturnFromTrap : Issues (put vecS (handler 0x10008)) 0 (handler 0x10008) h0 ∧
    (handler 0x10008).flt.entries = ⟨0x13, 0x10000, true, false, []⟩ :: [] ∧ (2 : Nat) ^ 57 ≤ 2 ^ 57 ∧ (2 ^ 57 : Nat) / 2 ^ 62 ≠ 1 ∧
    ((0x10008 : DWord).toNat < 2 ^ 57 ∧ 0x10008 % 8 = 0 ∧ 0x1000C % 8 ≠ 0) ∧ (2 ^ 62 + 31 * 2 ^ 57 + 0x10008) / 2 ^ 62 = 1 ∧
    (((put vecS (handler 0x10008)).ownOf 0 ((put vecS (handler 0x10008)).spillBase (handler 0x10008)) 256 false
      ((put vecS (handler 0x10008)).readVa 0 0 ((put vecS (handler 0x10008)).spillBase (handler 0x10008)) 256)).1 =
        .ok (List.replicate 256 0)) ∧
    ((handler 0x10008).pend.ops.all fun o => !o.st.isParked) = true ∧ (handler 0x10008).pend.freq = none ∧
    (handler 0x10008).arch.frames = [] ++ newFrame 5 8 0x10040 false true 2 [1] :: ctl.arch.frames ∧ ctl.arch.frames ≠ [] ∧
    (let s := put (vecS.setGrid 1 { vecS.grid 1 with lrec := { (vecS.grid 1).lrec with spill := 2 ^ 40 } }) (handler 0x10008)
     (s.ownOf 0 (2 ^ 40) 256 false (s.readVa 0 0 (2 ^ 40) 256)).1 = .fail 0x0B true (2 ^ 40)) :=
  ⟨put_issues _ _ _ (by decide +kernel) (by decide +kernel), by decide +kernel⟩

theorem test_rtt : gives (.rtt h0) (put vecS (handler 0x10008)) (fun t => (agentOf t).arch.pc == 0x10008 && (agentOf t).depth == 0 &&
      (agentOf t).flt.entries == [] && (agentOf t).arch.queue == List.replicate 16 {}) = true := by decide +kernel

/-! The step, reset. -/

theorem test_reset : State.reset.pkg.ready = false ∧ State.reset.agents = [] ∧ (State.reset.vd 63).st = .absent ∧
    State.reset.ownerOf 0 = 0xFE := by decide +kernel

/-- With nothing placed, the first steps after reset run nothing; an input is taken when it is due. -/
theorem test_step_input : gives (.nop h0) { State.reset with run := { State.reset.run with cur := none } } (fun _ => true) = false ∧
    (match step { State.reset with run := { State.reset.run with inputs := [(0, .pwrCapWrite 2000)] } } with
      | .next t => t.pkg.pwrCap == 2000 && t.run.inputs == []
      | _ => false) = true := by decide +kernel

/-- The word of the first instruction after reset, fetched and run (log 2): `movi 7`. -/
def fetchS : State := State.reset.withFetchWord 64 0x0870000000000070

theorem met_StepRunsDecoded : fetchS.run.issueQ = [0] ∧ tget fetchS.agents 0 = some theAgent ∧ theAgent.canIssue = true ∧
    fetchS.mayIssue theAgent = true ∧ theAgent.arch.mac = none ∧ theAgent.arch.pc.toNat < 2 ^ 57 ∧ inWindow theAgent.arch.pc.toNat = false ∧
    (let s1 := { fetchS with run := { fetchS.run with issueQ := [], cur := some 0 } }
     (s1.resolve 0 0 0x10000 8 .x).1 = .ok [(.mem 0x10000, 8)] ∧ ownDead theAgent.pend.own 0x10000 8 false = none ∧
       ((s1.resolve 0 0 0x10000 8 .x).2.atHome 0 false [(.mem 0x10000, 8)]).1 = none ∧
       (s1.resolve 0 0 0x10000 8 .x).2.icGet 0 0 0 0x10000 = none ∧
       ((s1.resolve 0 0 0x10000 8 .x).2.icPut 0 0 0 0x10000 (List.replicate 8 0)).icGet 0 0 0 0x10000 ≠ none) ∧ decode 0x0870000000000070 = .ok (.movi h0 7 .push) := by decide +kernel

theorem test_step : (match step fetchS with
      | .next t => q t 1 == [7] && (agentOf t).arch.pc == 0x10008
      | _ => false) = true ∧
    decodeTableWord 64 0x0870000000000070 = some (.movi h0 7 .push) := by decide +kernel

theorem met_DecodeEncode : (Instr.lea h0 8 true (.v 0) (.imm 63) (.reg 126)).wf = true ∧
    (Instr.lea h0 8 true (.v 0) (.imm 63) (.reg 126)).isEvent = false ∧ decode 0x0870000000000070 = .ok (.movi h0 7 .push) := by decide +kernel

/-- Memory that lists a zero byte, or its bytes out of order, is not canonical. -/
theorem met_StepKeepsMemory : fetchS.memInv ∧ Memory.wf [(5, 0)] = false ∧ Memory.wf [(6, 1), (5, 1)] = false ∧ Memory.wf [(5, 1), (6, 1)] = true :=
  ⟨⟨by decide +kernel, by decide +kernel⟩, by decide +kernel⟩

/-- Two writes and a read of one thread, in program order. -/
def threeEvents : MM.Exec :=
  { evs := [litStore 0 0 0 1 false 0, litStore 0 0 0 2 false 0, litLoad 0 0 0 2 false 0], rf := [none, none, some 1], co := [0, 1], sc := [],
    dieOrd := List.replicate 12 [0, 1], deps := [] }

theorem met_AxiomsOfMemory : threeEvents.allowed = true ∧ Before threeEvents 0 1 ∧ Before threeEvents 1 2 ∧
    (threeEvents.ev 0).loc = (threeEvents.ev 1).loc ∧ (threeEvents.ev 1).loc = (threeEvents.ev 2).loc ∧
    (threeEvents.ev 0).writes = true ∧ (threeEvents.ev 1).writes = true ∧ (threeEvents.ev 2).reads = true :=
  ⟨by decide +kernel, .po 0 1 (by decide) (by decide) (by decide +kernel), .po 1 2 (by decide) (by decide) (by decide +kernel),
    by decide +kernel⟩

/-! Tiles, matrix instructions, launches, copy requests, format slots, moves. -/

/-- A record from its 32-bit words. -/
def recNat (ws : List Nat) : Nat := ofBytes (ws.flatMap fun w => bytesOf w 4)
def recBytes (ws : List Nat) (n : Nat) : List Byte := ((ws.flatMap fun w => bytesOf w 4) ++ List.replicate n 0).take n

/-- Images: 0 of 8 bits, 1 f32, 2 int8, 3 int32; slots 3, 5, 6, 7 bound to them, all in planes; tiles: 10 an accumulator, 11 an
operand tile of 8 bits and 12 another, 13 an accumulator filling for the threads, 14 an operand tile of the threads; their names
1 to 5; an iterator record of two elements at 0x8000, one of 65 rows at 0x8040, a window record at 0x8080 with its header, shape
and strides after it. -/
def tileS : State :=
  let s := memS.setGrid 1 { memS.grid 1 with lrec := { (memS.grid 1).lrec with seq := true } }
  let s := s.setImage 0 { st := 1, cls := 1, fmt := { w := 8, eb := 4, mb := 3, bias := 7, inf := 0, nanp := 2 } }
  let s := s.setImage 1 { st := 1, cls := 0, fmt := {} }
  let s := s.setImage 2 { st := 1, cls := 1, fmt := { w := 8, kind := 1, eb := 0, mb := 0 } }
  let s := s.setImage 3 { st := 1, cls := 1, fmt := { w := 32, kind := 1, eb := 0, mb := 0 } }
  let s := ((s.setSlot 0 0 3 { st := 1, img := 0 }).setSlot 0 0 5 { st := 1, img := 1 }).setSlot 0 0 6 { st := 1, img := 2 }
  let s := (s.setSlot 0 0 7 { st := 1, img := 3 }).setSlot 0 0 9 { st := 2, img := 1, old := some 0, stamp := 4 }
  let s := s.setCob 0 { s.cob 0 with planes := (upFrom 0 4).map (fun n => { img := some n }) ++ List.replicate 12 {} }
  let b : Buf := { cob := 0, pod := 3, acc := true, st := .ready 0 }
  let s := (s.setBuf 10 b).setBuf 11 { b with acc := false, cw := 8, data := 0x38 }
  let s := (s.setBuf 12 { b with acc := false, cw := 8 }).setBuf 13 { b with st := .filling 2 1 }
  let s := s.setBuf 14 { b with acc := false, cw := 8, st := .ready 1 }
  let s := { s with pods := tset s.pods 3 ⟨1, 0, 0, 0, 0, none, true, [(1, 10), (2, 11), (3, 12), (4, 13), (5, 14)], false, [], 0, none⟩ }
  let s := poke (poke { s with mem := one.mem } 0x8000 (recBytes [0x9000, 0, 2, 1, 1, 1, 1, 0, 0, 0] 64)) 0x8040 (recBytes [0x9000, 0, 1, 65, 1, 1, 1, 1, 0, 0] 64)
  let s := poke s 0x8080 (recBytes [0x9000, 0, 0x80C0, 0, 0x10001, 0x01010101, 0, 0, 1, 1, 0, 0] 64)
  poke (poke s 0x80C0 (recBytes [0, 0, 0, 0, 0, 0, 0x8100, 0, 0x8110, 0] 64)) 0x8100 (recBytes [8, 8, 8, 1, 1, 8, 64, 0] 32)

/-- v0, v1: the iterator; v2, v3: the other; v4, v5: word 1 of a tile; v6, v7: word 2,048; v8: a control of count 1 for the threads;
v10, v11: the window; v12: 64. -/
def tileA : Agent := withRegs [0x8000, 0, 0x8040, 0, 77, 1, 77, 2048, 0x10001, 0, 0x8080, 0, 64]
def seqA : Agent := asSeq tileA

theorem tile_issues : Issues (put tileS tileA) 0 tileA h0 := put_issues _ _ _ (by decide +kernel) (by decide +kernel)
theorem seq_issues : Issues (put tileS seqA) 0 seqA h0 := put_issues _ _ _ (by decide +kernel) (by decide +kernel)

theorem free_of {s : State} {i : Nat} {a : Agent} {b : Nat} {c e r : Bool} (h1 : a.pend.ops = []) (h2 : a.pend.mq = [])
    (h3 : s.copies = []) : FreeOf s i a b c e r :=
  by unfold FreeOf; rw [h1, h2, h3]; simp

def bufOf (t : State) (n : Nat) : Buf := tgetD t.bufs n { cob := 0, pod := 0, acc := false, st := .busy }

theorem test_names : (put tileS tileA).nameOf tileA 6 = none ∧
    (put tileS tileA).nameOf tileA 5 = some (14, { cob := 0, pod := 3, acc := false, cw := 8, st := .ready 1 }) ∧
    (put tileS seqA).nameOf seqA 1 = some (10, { cob := 0, pod := 3, acc := true, st := .ready 0 }) := by decide +kernel

theorem met_Tiles : Issues (put tileS tileA) 0 tileA h0 ∧ tget (put tileS tileA).pods 3 ≠ none ∧ tileA.pos.away = false ∧
    tileA.src ⟨.v 8, 32, .int⟩ = .ok 0x10001 ∧
    (put tileS tileA).tallocBuf tileA 3 0x10001 = .ok { cob := 0, pod := 3, acc := false, cw := 8, st := .filling 1 1 } ∧
    (0x10001 : Nat).testBit 16 = true ∧ 1 ≤ (put tileS tileA).freeTiles 0 ∧ ((put tileS tileA).cob 0).tallocQ = [] ∧
    NameAt (put tileS tileA) tileA 4 13 { cob := 0, pod := 3, acc := true, st := .filling 2 1 } ∧
    NameAt (put tileS tileA) tileA 5 14 { cob := 0, pod := 3, acc := false, cw := 8, st := .ready 1 } ∧
    FreeOf (put tileS tileA) 0 tileA 14 true true true ∧ (put tileS tileA).nameOf tileA 6 = none ∧
    Issues (put tileS { tileA with pos := { tileA.pos with away := true } }) 0 { tileA with pos := { tileA.pos with away := true } } h0 ∧
    tileA.src ⟨.v 4, 64, .int⟩ = .ok (2 ^ 32 + 77) ∧ tileA.src ⟨.v 6, 64, .int⟩ = .ok (2048 * 2 ^ 32 + 77) ∧
    tileA.src ⟨.v 7, 32, .int⟩ = .ok 2048 :=
  ⟨tile_issues, by decide +kernel, by decide +kernel, by decide +kernel, by decide +kernel, by decide, by decide +kernel, by decide +kernel,
    ⟨by decide +kernel, by decide +kernel⟩, ⟨by decide +kernel, by decide +kernel⟩, free_of rfl rfl rfl, by decide +kernel,
    put_issues _ _ _ (by decide +kernel) (by decide +kernel), by decide +kernel⟩

/-- A cob whose tile store is used up, and a thread that waits there for the granules of a tile. -/
def noTiles : State := tileS.setBuf 20 { cob := 0, pod := 3, acc := true, st := .ready 0 } |> fun s =>
  { s with bufs := s.bufs ++ (upFrom 21 253).map fun n => (n, { cob := 0, pod := 3, acc := true, st := .ready 0 }) }
def allocating : Agent := { tileA with pend := { tileA.pend with talloc := some (9, 3, 0x10001, false) } }

theorem met_Tiles_waiting : (put noTiles tileA).freeTiles 0 < 1 ∧ ((put noTiles tileA).cob 0).tallocQ = [] ∧
    (let s := put (tileS.setCob 0 { tileS.cob 0 with tallocQ := [0] }) allocating
     allocating.pend.talloc = some (9, 3, 0x10001, false) ∧ allocating.canIssue = true ∧ (s.cob 0).tallocQ = 0 :: [] ∧
       s.tallocBuf allocating 3 0x10001 = .ok { cob := 0, pod := 3, acc := false, cw := 8, st := .filling 1 1 } ∧ 1 ≤ s.freeTiles 0) := by
  decide +kernel

/-- 15 R416 to R419: a new tile; the last contribution; a word written and one beyond the tile; the word of `tq`. -/
theorem test_tiles : gives (.talloc h0 9 3 (.v 8)) (put tileS tileA) (fun t => (t.nameOf (agentOf t) 9).map (·.2.st) == some (.filling 1 1)) = true ∧
    gives (.thand h0 4 (.imm 0)) (put tileS tileA) (fun t => (bufOf t 13).st == .filling 1 1) = true ∧
    gives (.thand h0 5 (.imm 0)) (put tileS tileA) (fun t => (bufOf t 14).st == .ready 0) = true ∧
    gives (.twr h0 5 (.v 4)) (put tileS tileA) (fun t => (bufOf t 14).data == 77 * 2 ^ 32) = true ∧
    gives (.twr h0 5 (.v 6)) (put tileS tileA) (fun t => t.agents == []) = true ∧
    gives (.tzero h0 5) (put tileS tileA) (fun t => (bufOf t 14).data == 0) = true ∧
    gives (.trel h0 5) (put tileS tileA) (fun t => (t.nameOf (agentOf t) 5).isNone && (tget t.bufs 14).isNone) = true ∧
    gives (.tq h0 1) (put tileS seqA) (fun t =>
      (agentOf t).pend.ops.map (fun o => match o.st with | .ready [w] => w.toNat % 8 | _ => 0) == [6]) = true := by decide +kernel

theorem iterAt_of {s : State} {a : Agent} {va : Nat} {drive : Bool} {it : Iter} {l : List (Loc × Nat)} (x : Nat) (h0 : va % 64 = 0)
    (h1 : (s.ownTouch a va 64 .r []).1 = .ok l) (h2 : ofBytes ((s.ownTouch a va 64 .r []).2.readChunks l) = x)
    (h3 : iterBad x (iterOf x drive) = false) (h4 : (iterOf x drive).hdren = false) (h5 : it = iterOf x drive) :
    IterAt s a va drive it (s.ownTouch a va 64 .r []).2 :=
  ⟨h0, _, _, .inl ⟨l, fst_of h1, rfl⟩, by rw [h2]; exact ⟨h3, .inl ⟨h4, h5, rfl⟩⟩⟩

def iter2 : Iter := { base := 0x9000, shape := [2, 1, 1, 1], stride := [1, 0, 0, 0] }
def iter65 : Iter := { base := 0x9000, shape := [1, 65, 1, 1], stride := [1, 1, 0, 0] }

theorem iter_here : ∃ s2, IterAt (put tileS tileA) tileA 0x8000 true iter2 s2 :=
  ⟨_, iterAt_of (recNat [0x9000, 0, 2, 1, 1, 1, 1, 0, 0, 0]) (l := [(.mem 0x8000, 64)]) (by decide) (by decide +kernel) (by decide +kernel)
    (by decide +kernel) (by decide +kernel) (by decide +kernel)⟩

theorem iter_large : ∃ s2, IterAt (put tileS tileA) tileA 0x8040 true iter65 s2 :=
  ⟨_, iterAt_of (recNat [0x9000, 0, 1, 65, 1, 1, 1, 1, 0, 0]) (l := [(.mem 0x8040, 64)]) (by decide) (by decide +kernel) (by decide +kernel)
    (by decide +kernel) (by decide +kernel) (by decide +kernel)⟩

def winHere : Win := { base := 0x9000, ow := 1, oh := 1, shape := [8, 8, 8, 1], stride := [1, 8, 64, 0], extra := 0 }

theorem winAt_of {s : State} {a : Agent} {va : Nat} {w : Win} {l1 l2 l3 l4 : List (Loc × Nat)} {t1 t2 t3 t4 : State} (x y u v : Nat)
    (h0 : va % 64 = 0) (h1 : s.ownTouch a va 64 .r [] = (.ok l1, t1)) (hx : ofBytes (t1.readChunks l1) = x)
    (hb : winBad x (winOf x) = false) (h2 : t1.ownTouch a (x / 2 ^ 64 % 2 ^ 57) 64 .r [] = (.ok l2, t2))
    (hy : ofBytes (t2.readChunks l2) = y) (hc : (headerOf y).bad = false)
    (h3 : t2.ownTouch a (headerOf y).shape 16 .r [] = (.ok l3, t3)) (hu : ofBytes (t3.readChunks l3) = u)
    (h4 : t3.ownTouch a (headerOf y).strides 16 .r [] = (.ok l4, t4)) (hv : ofBytes (t4.readChunks l4) = v)
    (hk : ∀ k, k ∈ words4 u → k ≠ 0)
    (hw : w = { winOf x with shape := words4 u, stride := (words4 v).map fun n => sextInt n 32, extra := (headerOf y).extra }) :
    WinAt s a va w t4 := by
  subst hx hy hu hv
  exact ⟨h0, _, _, _, _, t1, t2, t3, .inl ⟨l1, h1, rfl⟩, hb, .inl ⟨l2, h2, rfl⟩, hc, .inl ⟨l3, h3, rfl⟩, .inl ⟨l4, h4, rfl⟩, hk, hw⟩

theorem win_here : ∃ s2, WinAt (put tileS tileA) tileA 0x8080 winHere s2 :=
  ⟨_, winAt_of (recNat [0x9000, 0, 0x80C0, 0, 0x10001, 0x01010101, 0, 0, 1, 1]) (recNat [0, 0, 0, 0, 0, 0, 0x8100, 0, 0x8110, 0])
    (recNat [8, 8, 8, 1]) (recNat [1, 8, 64, 0]) (l1 := [(.mem 0x8080, 64)]) (l2 := [(.mem 0x80C0, 64)]) (l3 := [(.mem 0x8100, 16)])
    (l4 := [(.mem 0x8110, 16)]) (by decide) (fst_of (by decide +kernel)) (by decide +kernel) (by decide +kernel)
    (fst_of (by decide +kernel)) (by decide +kernel) (by decide +kernel) (fst_of (by decide +kernel)) (by decide +kernel)
    (fst_of (by decide +kernel)) (by decide +kernel) (by decide +kernel) (by decide +kernel)⟩

def e4m3 : Fmt := { w := 8, eb := 4, mb := 3, bias := 7, inf := 0, nanp := 2 }

theorem met_TileMemory : Issues (put tileS tileA) 0 tileA h0 ∧ tileA.src ⟨.v 0, 64, .int⟩ = .ok 0x8000 ∧
    tileA.src ⟨.v 2, 64, .int⟩ = .ok 0x8040 ∧ tileA.src ⟨.v 10, 64, .int⟩ = .ok 0x8080 ∧
    NameAt (put tileS tileA) tileA 5 14 { cob := 0, pod := 3, acc := false, cw := 8, st := .ready 1 } ∧
    (put tileS tileA).capture tileA 3 = .ok 0 ∧ tileA.memHeld = false ∧ ((put tileS tileA).image 0).fmt = e4m3 ∧
    (let it : Iter := { base := 0x9000, shape := [2, 1, 1, 1], stride := [1, 0, 0, 0] }
     let jt : Iter := { base := 0x9000, shape := [1, 65, 1, 1], stride := [1, 1, 0, 0] }
     let x : Buf := { cob := 0, pod := 3, acc := false, cw := 8, st := .ready 1 }
     it.blockOk e4m3 = true ∧ it.fits57 e4m3 = true ∧ x.fits it e4m3 = true ∧ x.fits jt e4m3 = false ∧ jt.blockOk e4m3 = true ∧
       jt.fits57 e4m3 = true ∧ (put tileS tileA).rangeFault tileA (it.ranges e4m3) = none ∧ x.cw = containerOf e4m3.w) ∧
    FreeOf (put tileS tileA) 0 tileA 14 false true true ∧ ((put tileS tileA).usePlanes 0 0 [0]).1 = true ∧ 0x8081 % 64 ≠ 0 ∧
    (put tileS tileA).rangeFault tileA (winHere.ranges e4m3 (tileK 8 e4m3)) = none :=
  ⟨tile_issues, by decide +kernel, by decide +kernel, by decide +kernel, ⟨by decide +kernel, by decide +kernel⟩, by decide +kernel,
    by decide +kernel, by decide +kernel, by decide +kernel, free_of rfl rfl rfl, by decide +kernel, by decide, by decide +kernel⟩

/-- 15 R422: the two elements go to row 0 of the tile. -/
theorem test_tld : gives (.tld h0 5 3 (.v 0)) (put (poke tileS 0x9000 [0x11, 0x22, 0x33]) tileA) (fun t =>
      (bufOf t 14).data == 0x2211) = true ∧
    gives (.tst h0 5 3 (.v 0)) (put (tileS.setBuf 14 { cob := 0, pod := 3, acc := false, cw := 8, data := 0x332211, st := .ready 1 }) tileA) (fun t =>
      t.getNat (.mem 0x9000) 4 == 0x2211) = true := by decide +kernel

/-- The entry of a product of tiles 2 and 3 into accumulator 1, waiting, and on array 1. -/
def entry (array : Option Nat) : MEnt := ⟨7, .mma, 10, 11, 12, 1, 2, 3, 0, 0, 1, [3, 3, 5], .rne, false, 0, 0, array, 0, 0, false⟩
def queued (array : Option Nat) : Agent := { seqA with pend := { seqA.pend with mq := [entry array] } }
def busyS : State := tileS.setBuf 10 { cob := 0, pod := 3, acc := true, st := .busy }

theorem met_MatrixInstructions : Issues (put tileS seqA) 0 seqA h0 ∧ seqA.id.seq = true ∧
    NameAt (put tileS seqA) seqA 1 10 { cob := 0, pod := 3, acc := true, st := .ready 0 } ∧
    NameAt (put tileS seqA) seqA 2 11 { cob := 0, pod := 3, acc := false, cw := 8, data := 0x38, st := .ready 0 } ∧
    NameAt (put tileS seqA) seqA 3 12 { cob := 0, pod := 3, acc := false, cw := 8, st := .ready 0 } ∧
    (put tileS seqA).captures seqA [3, 5, 6, 7] = .ok [0, 1, 2, 3] ∧
    (let f (n : Nat) := ((put tileS seqA).image n).fmt
     ((put tileS seqA).image 0).cls ≠ 0 ∧ (f 1).isF32 = true ∧ (f 3).isI32 = true ∧ (f 2).kind = 1 ∧ (f 0).w = 8 ∧
       tileK 8 (f 0) = tileK 8 (f 2) ∧ 64 % 32 = 0 ∧ 64 + 64 ≤ tileK 8 (f 0) ∧
       ({ cob := 0, pod := 3, acc := false, cw := 8, st := .ready 0 } : Buf).matchesSlot (f 0) = true) ∧
    seqA.src ⟨.v 12, 32, .int⟩ = .ok 64 ∧ seqA.pend.mq.length < 8 ∧
    8 ≤ ({ seqA with pend := { seqA.pend with mq := List.replicate 8 (entry none) } } : Agent).pend.mq.length ∧
    (queued none).nextEntry = some (entry none) ∧ (put tileS (queued none)).arrayBusy 0 1 = false ∧
    (∀ u, u ∈ (entry none).uses → ((put tileS (queued none)).usePlanes 0 7 (entry none).images).2.useAt u = .ok) ∧
    (put tileS (queued none)).atWork 0 = true ∧ (put tileS (queued none)).shedsEntry 0 0 .mma = false ∧
    (put tileS (queued none)).entryReady (queued none) (entry none) = true ∧ (put tileS (queued none)).olderEntry 0 0 7 = false ∧
    ((put tileS (queued none)).usePlanes 0 7 (entry none).images).1 = true ∧
    tget ((put tileS (queued none)).usePlanes 0 7 (entry none).images).2.bufs 10 = some { cob := 0, pod := 3, acc := true, st := .ready 0 } ∧
    (queued (some 1)).pend.mq = entry (some 1) :: [] ∧ tget (put busyS (queued (some 1))).bufs 10 = some { cob := 0, pod := 3, acc := true, st := .busy } ∧
    (let X : Buf := { cob := 0, pod := 3, acc := false, cw := 8, data := 0x38, st := .ready 0 }
     let D : Buf := { cob := 0, pod := 3, acc := true, st := .busy }
     tget (put busyS (queued (some 1))).bufs 11 = some X ∧ tget (put busyS (queued (some 1))).bufs 12 = some { X with data := 0 } ∧
       (entry (some 1)).kind = .mma ∧ (entry (some 1)).hurt = false ∧ D.st = .busy ∧ (busyS.vd 0).shed ≠ 2 ∧
       (entry (some 1)).array = some 1) :=
  ⟨seq_issues, by decide +kernel, ⟨by decide +kernel, by decide +kernel⟩, ⟨by decide +kernel, by decide +kernel⟩,
    ⟨by decide +kernel, by decide +kernel⟩, by decide +kernel, by decide +kernel, by decide +kernel, by decide +kernel, by decide +kernel,
    by decide +kernel⟩

/-- Two products 36 binary places apart, whose sum is cut to the greater; infinities; a block of 64 columns that fits an operand
tile of 8 bits; the widths of a transposition of operand tiles. -/
theorem met_MatrixInstructions_results :
    (let ps : List Val := [.fin false 1 0, .fin true 1 (-36)]
     (ps.all fun p => !p.isNan && !p.isInf) = true ∧ ((-36 : Int) ≤ 0 - 35) ∧
       (2 ^ ((0 : Int) - -36).toNat ≤ 1 * 2 ^ ((0 : Int) - -36).toNat ∧ 1 * 2 ^ ((0 : Int) - -36).toNat < 2 ^ ((0 : Int) + 1 - -36).toNat) ∧
       vcmp (groupSum .rne ps) (.fin false 1 0) = some .eq) ∧
    (groupSum .rne [.inf true, .fin false 1 0] = .inf true ∧ groupSum .rne [.inf true, .inf false] = .nan ∧
      (groupSum .rne [.fin true 0 0]).neg? = true) ∧
    (let f : Fmt := (tileS.image 0).fmt
     let d : Buf := { cob := 0, pod := 3, acc := false, cw := 8, st := .ready 0 }
     d.matchesSlot f = true ∧ 64 % 32 = 0 ∧ 64 + 64 ≤ tileK d.cw f ∧ f.kind = 0 ∧ f.isF32 = false ∧ f.nz = false ∧
       (tileS.image 1).fmt.isF32 = true ∧ 0 < d.cw ∧ 0 + 64 ≤ 1024 / d.cw) := by decide +kernel

/-- A device with a code object at 0x30000 with 4 KiB of code; at 0x9000 the record of a launch of one thread of it, at 0x9100 one
of another version, at 0x9200 one whose TX is 0. -/
def launchRec (ver tx : Nat) : List Byte :=
  recBytes [0x6B52 + ver * 65536, 0, 0x30000, 0, 8, 0, 1, 1, 1, tx + 65536, 1 + 8 * 65536, 0, 0x40000, 0, 4096, 0] 256
def launchS : State :=
  let s := memS.setVd 0 { memS.vd 0 with objs := [(4, { va := 0x30000, secLen := [4096, 0], bytes := 8192 })] }
  poke (poke (poke { s with mem := one.mem } 0x9000 (launchRec 1 1)) 0x9100 (launchRec 2 1)) 0x9200 (launchRec 1 0)
/-- v0, v1: the record; v2, v3: the wrong version; v4, v5: not aligned; v6, v7: TX 0. -/
def launchA : Agent := withRegs [0x9000, 0, 0x9100, 0, 0x9020, 0, 0x9200, 0]
def origin : Origin := ⟨0, 0, none, some 1, 0, 0, some 0, 1⟩

theorem met_Launches : Issues (put launchS launchA) 0 launchA h0 ∧ launchA.src ⟨.v 0, 64, .int⟩ = .ok 0x9000 ∧
    launchA.src ⟨.v 4, 64, .int⟩ = .ok 0x9020 ∧ launchA.id.seq = false ∧ launchA.id.tid = 0 ∧ 0x9020 % 64 ≠ 0 ∧ inWindow 0x9000 = false ∧
    (let s := put launchS launchA
     let s1 := (s.resolve 0 0 0x9000 256 .r).2
     let s2 := (s1.readVa 0 0 0x9000 256).2
     (s.resolve 0 0 0x9000 256 .r).1 = .ok [(.mem 0x9000, 256)] ∧ launchA.pend.own = [] ∧ (s1.grid 1).depth < 10 ∧ launchA.hasParked = false ∧
       launchA.memHeld = false ∧ s1.childrenOn 0 < 4096 ∧ s1.ownsOf 0 = [] ∧ (s1.readVa 0 0 0x9000 256).1 = .ok (launchRec 1 1) ∧
       (s2.writeVa 0 0 0x90C8 (bytesOf (s2.grid 1).lrec.va 8)).1 = .ok () ∧
       (s1.takeRecord origin 0x9000 []).1 = .go (recOf 0x9000 (ofBytes (launchRec 1 1)))) :=
  ⟨put_issues _ _ _ (by decide +kernel) (by decide +kernel), by decide +kernel, by decide +kernel, by decide +kernel, by decide +kernel,
    by decide, by decide +kernel, by refine ⟨?_, ?_, ?_, ?_, ?_, ?_, ?_, ?_, ?_, ?_⟩ <;> decide +kernel⟩

/-- A record beyond the tables; one on a page of device 9, a peer. -/
theorem met_Launches_unreachable : (launchS.resolve 0 0 (2 ^ 56) 256 .r).1 = .fail 0x0B true (2 ^ 56) ∧
    (let t := launchS.write (.mem 0x3000) (bytesOf (0x2F + 9 * 2 ^ 52) 8)
     let s : State := { t with link := { (t.setPort 0 2 7).link with peers := [9] } }
     (s.resolve 0 0 0x9000 256 .r).1 = .remote [(some 9, 0x9000, 256)]) := by decide +kernel

theorem met_Launches_records : ofBytes (launchRec 1 1) % 2 ^ 16 = 0x6B52 ∧ ofBytes (launchRec 1 1) / 2 ^ 16 % 2 ^ 8 = 1 ∧
    ofBytes (launchRec 2 1) / 2 ^ 16 % 2 ^ 8 ≠ 1 ∧ launchS.fetchStatus 0 (recOf 0x9000 (ofBytes (launchRec 1 1))) = none ∧
    launchS.fetchStatus 0 (recOf 0x9200 (ofBytes (launchRec 1 0))) = some 2 ∧
    memS.fetchStatus 0 (recOf 0x9000 (ofBytes (launchRec 1 1))) = some 3 ∧
    launchS.fetchStatus 0 { recOf 0x9000 (ofBytes (launchRec 1 1)) with scratch := 458753 } = some 6 ∧
    launchS.fetchStatus 0 { recOf 0x9000 (ofBytes (launchRec 1 1)) with entry := 4096 } = some 3 := by decide +kernel

/-- 14 R406: a child grid one deeper; a record of another version tells INTCAUSE bit 1 and makes none. -/
theorem test_launch : gives (.launch h0 (.v 0)) (put launchS launchA) (fun t => t.grids.length == 2 &&
      t.grids.any (fun g => g.2.parent == some 1 && g.2.depth == 1 && g.2.lrec.entry == 8)) = true ∧
    gives (.launch h0 (.v 2)) (put launchS launchA) (fun t => t.grids.length == 1 && (t.vd 0).intcause == 2) = true := by decide +kernel

/-- A copy record at 0x100 of the team's scratchpad: 4 elements of 8 bits (slot 3) from 0x9000 to 0xA000, by the iterators at 0x8000 and
0x8040; one at 0x140 that states another byte count. -/
def copyRec (bytes : Nat) : List Byte := recBytes [0, 0, 0x8000, 0, 0x8040, 0, 0xFFFFFFFF, 0, bytes, 0, 0, 0, 0, 0, 0, 0] 64
def copyS : State :=
  let s := pokeScr (pokeScr { tileS with mem := one.mem } 0x100 (copyRec 4)) 0x140 (copyRec 5)
  poke (poke (poke s 0x8000 (recBytes [0x9000, 0, 4, 1, 1, 1, 1, 0, 0, 0, 0, 0, 0, 0, 0x30, 0] 64)) 0x8040
    (recBytes [0xA000, 0, 4, 1, 1, 1, 1, 0, 0, 0, 0, 0, 0, 0, 0x30, 0] 64)) 0x9000 [1, 2, 3, 4]
/-- v0, v1: the record; v2, v3: the other; v4, v5: not aligned; v6, v7: outside the area. -/
def copyA : Agent := withRegs [0x100, 0x1FFFF00, 0x140, 0x1FFFF00, 0x120, 0x1FFFF00, 0x1000, 0x1FFFF00]
def srcIt : Iter := { base := 0x9000, shape := [4, 1, 1, 1], stride := [1, 0, 0, 0], slot := 3 }
def dstIt : Iter := { srcIt with base := 0xA000 }

def copyNat : Nat := recNat [0, 0, 0x8000, 0, 0x8040, 0, 0xFFFFFFFF, 0, 4]

theorem copy_recs : ∃ s2, RecsAt (put copyS copyA) copyA .copy copyNat { src := srcIt, dst := dstIt } s2 := by
  have h1 : copyNat / 2 ^ 64 % 2 ^ 57 = 0x8000 := by decide +kernel
  have h2 : copyNat / 2 ^ 128 % 2 ^ 57 = 0x8040 := by decide +kernel
  unfold RecsAt
  rw [h1, h2]
  exact ⟨_, srcIt, dstIt, ⟨_,
    iterAt_of (recNat [0x9000, 0, 4, 1, 1, 1, 1, 0, 0, 0, 0, 0, 0, 0, 0x30]) (l := [(.mem 0x8000, 64)]) (by decide +kernel) (by decide +kernel)
      (by decide +kernel) (by decide +kernel) (by decide +kernel) (by decide +kernel),
    iterAt_of (recNat [0xA000, 0, 4, 1, 1, 1, 1, 0, 0, 0, 0, 0, 0, 0, 0x30]) (l := [(.mem 0x8040, 64)]) (by decide +kernel) (by decide +kernel)
      (by decide +kernel) (by decide +kernel) (by decide +kernel) (by decide +kernel)⟩, rfl⟩

theorem met_CopyRequests : Issues (put copyS copyA) 0 copyA h0 ∧ copyA.src ⟨.v 0, 64, .int⟩ = .ok 0x01FFFF0000000100 ∧
    copyA.src ⟨.v 4, 64, .int⟩ = .ok 0x01FFFF0000000120 ∧ 0x01FFFF0000000120 % 64 ≠ 0 ∧ copyA.src ⟨.v 6, 64, .int⟩ = .ok 0x01FFFF0000001000 ∧
    (put copyS copyA).inArea copyA 0x1000 64 = false ∧ (put copyS copyA).inArea copyA 0x100 64 = true ∧
    (put copyS copyA).inArea copyA 0xFC0 64 = true ∧ inWindow 0x01FFFF0000000100 = true ∧ copyA.hasParked = false ∧
    copyA.memHeld = false ∧ (put copyS copyA).copies = [] ∧ copyKindOf ((put copyS copyA).getNat (.scr 0 0x100) 64 % 256) = some .copy ∧
    (put copyS copyA).captures copyA [3, 3] = .ok [0, 0] :=
  ⟨put_issues _ _ _ (by decide +kernel) (by decide +kernel), by decide +kernel, by decide +kernel, by decide, by decide +kernel,
    by decide +kernel, by decide +kernel, by decide +kernel, by decide +kernel, by decide +kernel, by decide +kernel, rfl,
    by decide +kernel, by decide +kernel⟩

def request : Copy :=
  copyOf 0 copyA .copy copyNat 0x100 { src := srcIt, dst := dstIt } [3, 3] 0 0 none e4m3 e4m3 0x10000 0

theorem met_CopyRequests_record : recordBad .copy copyNat = false ∧
    pairBad .copy { src := srcIt, dst := dstIt } e4m3 e4m3 = false ∧ (put copyS copyA).barBad copyA request = false ∧ request.bytes = 4 ∧
    request.next = 0 ∧ request.total = 4 ∧ CopyKind.copy.tile = false := by decide +kernel

/-- The request active, at its first element, and at its end. -/
def activeS : State := (put copyS copyA).setCopy 9 request
def endedS : State := (put copyS copyA).setCopy 9 { request with next := 4, finished := 3, failed := 1, firstFail := some (2, 0x0B) }

theorem met_CopyRequests_engine : tget activeS.copies 9 = some request ∧ request.saved = false ∧ request.bar = none ∧ request.parked = [] ∧
    request.redo = [] ∧ request.asking = none ∧ request.next < request.total ∧ activeS.parkedOn 0 < 64 ∧
    (activeS.usePlanes 0 9 [0, 0]).1 = true ∧ tget (activeS.usePlanes 0 9 [0, 0]).2.copies 9 = some request ∧
    (let c := { request with next := 1 }
     let s0 := (activeS.usePlanes 0 9 [0, 0]).2.setCopy 9 c
     (s0.copyTouch c 0x9000 1 .r).1 = .ok [(.mem 0x9000, 1)] ∧
       ((s0.copyTouch c 0x9000 1 .r).2.copyTouch c 0xA000 1 .w).1 = .ok [(.mem 0xA000, 1)] ∧
       tget ((s0.copyTouch c 0x9000 1 .r).2.copyTouch c 0xA000 1 .w).2.copies 9 = some c) ∧
    tget endedS.copies 9 ≠ none ∧ request.ctr = 0 ∧ request.rel = false ∧ (1 : Nat) < 2 ^ 24 ∧ 0x0B < 256 := by
  refine ⟨?_, ?_, ?_, ?_, ?_, ?_, ?_, ?_, ?_, ?_, ⟨?_, ?_, ?_⟩, ?_, ?_, ?_, ?_, ?_⟩ <;> decide +kernel

/-- 15 R435 to R438: STATUS 1; the first element moved; STATUS with FAILED, the first cause and the count. -/
theorem test_copy : gives (.cpyk h0 (.v 0)) (put copyS copyA) (fun t => t.copies.length == 1 && t.getNat (.scr 0 0x128) 8 == 1) = true ∧
    gives (.cpyk h0 (.v 2)) (put copyS copyA) (fun t => t.agents == [] && t.copies == []) = true ∧
    gives (.copyElement 9) activeS (fun t => t.getNat (.mem 0xA000) 4 == 1 && t.copies.map (fun c => (c.2.next, c.2.finished)) == [(1, 1)]) = true ∧
    gives (.copyRequestComplete 9) endedS (fun t => t.copies == [] && t.getNat (.scr 0 0x128) 8 == 3 + 256 * 0x0B + 65536) = true := by decide +kernel

/-- A device that admits the key 77 with leaves from 5; images 12 and 13 of that key at leaves 4 and 5. -/
def keyS : State :=
  let s := tileS.setVd 0 { tileS.vd 0 with keys := [(77, 5)] }
  (s.setImage 12 { st := 1, cls := 1, fmt := e4m3, keyid := 77, leaf := 4 }).setImage 13 { st := 1, cls := 1, fmt := e4m3, keyid := 77, leaf := 5 }
def keyA : Agent := withRegs [12, 13, 1024, 0]

theorem met_FormatSlotsAndPlanes : Issues (put keyS keyA) 0 keyA h0 ∧ keyA.dstReady .push 1 = .ok () ∧ keyA.src ⟨.v 1, 32, .int⟩ = .ok 13 ∧
    keyA.src ⟨.v 2, 32, .int⟩ = .ok 1024 ∧
    (let s := put keyS keyA
     (s.image 13).st = 1 ∧ ((s.vd 0).keys.find? fun k => k.1 == 77) = some (77, 5) ∧ (s.image 12).leaf < 5 ∧ ¬ (s.image 13).leaf < 5 ∧
       (s.slot 0 0 3).st = 1 ∧ (s.slot 0 0 3).img ≠ 13 ∧ (s.slot 0 0 10).st = 0 ∧ keyA.pend.fence = none ∧
       s.rebindsBefore 0 0 4 = false ∧ s.rebindsBefore 0 0 5 = true) :=
  ⟨put_issues _ _ _ (by decide +kernel) (by decide +kernel), by decide +kernel⟩

/-- Slot 9, REBINDING from image 0 to image 1, an old one of long ago, and a cob whose last plane is free. -/
theorem met_FormatSlotsAndPlanes_rebind : (tileS.slot 0 0 9).st = 2 ∧ tileS.slotHeld 0 0 9 = false ∧ (tileS.slot 0 0 3).st ≠ 2 ∧
    (tileS.slot 0 0 9).more = [] ∧ (∀ c, c ∈ tileS.cobsOf 0 0 → (tileS.cob c).holds 1 = true) ∧ (tileS.slot 0 0 9).drained = false ∧
    (tileS.slot 0 0 9).since + 1000000 ≤ ({ tileS with now := 1000000 } : State).now ∧ tileS.now < (tileS.slot 0 0 9).since + 1000000 ∧
    (tileS.cob 0).planes.length = 16 ∧ (tileS.planeFor 0 9 true).isSome = true ∧
    (let s := tileS.setCob 0 { tileS.cob 0 with waitOps := [(0, [9])] }
     (s.wantsPlane 0 9).isSome = true ∧ (s.planeFor 0 9 true).isSome = true) ∧
    (∃ p, p ∈ ((tileS.setCob 0 { tileS.cob 0 with planes := [{ img := some 9, loading := true }] }).cob 0).planes ∧ p.img = some 9 ∧ p.loading = true) := by
  refine ⟨?_, ?_, ?_, ?_, ?_, ?_, ?_, ?_, ?_, ?_, ⟨?_, ?_⟩, ⟨{ img := some 9, loading := true }, ?_⟩⟩ <;> decide +kernel

/-- 15 R442, R443: a leaf below the admitted one; a rebind; the word of a bound slot. -/
theorem test_slots : gives (.fmtbind h0 3 (.v 0) .push) (put keyS keyA) (fun t => q t 1 == [3] && (t.slot 0 0 3).st == 1) = true ∧
    gives (.fmtbind h0 3 (.v 1) .push) (put keyS keyA) (fun t => q t 1 == [0] && (t.slot 0 0 3).st == 2 && (t.slot 0 0 3).img == 13) = true ∧
    gives (.fmtbind h0 3 (.v 2) .push) (put keyS keyA) (fun t => q t 1 == [1]) = true ∧
    gives (.fmtq h0 6 .push) (put keyS keyA) (fun t => q t 1 == [2 + 65536 + 2 ^ 18 + 8 * 2 ^ 24 + 2 ^ 30]) = true := by decide +kernel

/-- Die 1 on, with granule 1 at its home; a thread that waits to move there. -/
def twoDies : State :=
  { memS with dies := [(0, { gate := .on }), (1, { gate := .on })], x := { memS.x with owner := [(0, 0), (1, 0)] } }
def leaving : Agent := { memA with pend := { memA.pend with mig := some (1, 0x8080) } }
def preempted (covered : Bool) : Agent := { (inTrap true 0x20) with sched := { theAgent.sched with covered } }

theorem met_MovesAndSaves : Issues (put memS memA) 0 memA h0 ∧ memA.id.seq = false ∧ memA.src ⟨.v 0, 64, .int⟩ = .ok 0x8080 ∧
    memA.pend.mig = none ∧ ownDead memA.pend.own 0x8080 1 false = none ∧ ((put memS memA).translate 0 0 0x8080 .r).1 = .ok 0x8080 none ∧
    (put memS memA).homeDie 0x8080 = some 0 ∧ ((put memS memA).die 0).lost = false ∧ (granuleOf 0x8080).map (put memS memA).ownerOf = some 0 ∧
    memA.quiet = true ∧ memA.settling = false ∧ memA.hasParked = false ∧ memA.completions true = [] ∧
    leaving.pend.mig = some (1, 0x8080) ∧ leaving.flt.trapping = false ∧ leaving.pos.out = false ∧
    leaving.sched.page = none ∧ ((put twoDies leaving).die 1).gate = .on ∧ leaving.residentRegs ≤ 128 ∧
    ((put twoDies leaving).landingCore leaving 1) = some 96 ∧ leaving.arch.mac = none ∧ leaving.arch.loops = [] ∧
    (inTrap true 0x13).inHandler = true ∧ (inTrap true 0x13).inPreHandler = false ∧ (preempted true).inPreHandler = true ∧
    (preempted true).quiet = true ∧ (preempted true).settling = false ∧ (preempted true).src ⟨.imm 3, 32, .int⟩ = .ok 3 ∧
    (preempted true).sched.psaved = none := by
  refine ⟨mem_issues, ?_, ?_, ?_, ?_, ?_, ?_, ?_, ?_, ?_, ?_, ?_, ?_, ?_, ?_, ?_, ?_, ?_, ?_, ?_, ?_, ?_, ?_, ?_, ?_, ?_, ?_, ?_, ?_⟩ <;> decide +kernel

/-- 08 R209: the thread goes on in a landing slot of die 1 after its `migrate`. -/
theorem test_moves_and_saves : gives (.migrateTransfer 0) (put twoDies leaving) (fun t => (agentOf t).pos == { core := 96, slot := 16, away := true } &&
      (agentOf t).arch.pc == 0x10008) = true ∧
    gives (.psave h0 (.imm 7)) (put memS (preempted true)) (fun t => (agentOf t).sched.psaved == some 3) = true ∧
    gives (.psave h0 (.imm 7)) (put memS (preempted false)) (fun t => (agentOf t).sched.psaved == none && (agentOf t).arch.pc == 0x10008) = true := by
  decide +kernel
/-! Clocks, power, boot, the link, ports, partitions, images, moves: the machine of one thread with a field or two set. -/

/-- One island with a relock going on; a regulator window begun; a die that has missed 8 pulses. -/
def relocking : State := one.setIsl 0 0 { one.isl 0 0 with relock := true, till := 150 }
def windowS : State := { one with run := { one.run with window := true } }
def missedS : State := one.setDie 0 { one.die 0 with missed := 8 }
/-- A checkpoint kept for the next boot; one that is being taken, at a step of it. -/
def ckptS (valid : Bool) (cfg : Nat × Nat × Nat) (stage : Nat) : State :=
  { one with pkg := { one.pkg with stopped := true, ckptStage := stage, ckpt := { one.pkg.ckpt with valid, config := cfg } } }

theorem met_ClocksAndBoot : (∀ e, e < 12 → Nat.testBit 1 e = true → (missedS.die e).missed < 9) ∧ (relocking.isl 0 0).relock = true ∧
    ((relocking.isl 0 0).till < relocking.run.pulse + 1000 ∧ ¬ relocking.run.pulse + 1000 ≤ (relocking.isl 0 0).till) ∧
    one.pkg.exDies.testBit 11 = false ∧ (one.die 11).lost = false ∧ (600 ≠ (one.isl 0 1).mhz ∧ 2400 ≠ (one.isl 0 1).mhz) ∧
    (600 % 100 = 0 ∧ 2400 % 100 = 0 ∧ 2401 % 100 ≠ 0) ∧ (one.isl 0 1).relock = false ∧ windowS.run.window = true ∧
    State.reset.pkg.ckpt.valid = false ∧ one.pkg.ready = true ∧ one.pkg.stopped = false ∧
    (∃ d x, (d, x) ∈ relocking.dies ∧ (x.gate = .gating ∨ x.islA.relock = true ∨ x.islB.relock = true)) ∧
    (∀ e, e ∈ one.dies → e.2.gate ≠ .gating ∧ e.2.islA.relock = false ∧ e.2.islB.relock = false) ∧ State.reset.pkg.ready = false ∧
    ((ckptS true (0, 0, 0) 0).pkg.ckpt.valid = true ∧ (ckptS true (0, 0, 0) 0).pkg.ckpt.config = (0, 0, 0) ∧
      (ckptS true (1, 0, 0) 0).pkg.ckpt.config ≠ (0, 0, 0)) ∧
    (∀ k, k < 7 → (ckptS false (0, 0, 0) k).pkg.ckptStage = k) ∧ (one.pkg.ckptStage = 0 ∧ (ckptS false (0, 0, 0) 6).pkg.ckptStage = 6) ∧
    ((ckptS false (0, 0, 0) 2).settleAll.inFlight = false ∧ ((ckptS false (0, 0, 0) 3).endMoves (ckptS false (0, 0, 0) 3).moves).moves = []) ∧
    (let s := { put memS { memA with pend := { memA.pend with ops := [{ loadOp 0x8080 with det := true }] } } with pkg := { memS.pkg with stopped := true, ckptStage := 2 } }
     s.settleAll.inFlight = true) :=
  ⟨by decide +kernel, by decide +kernel, by decide +kernel, by decide +kernel, by decide +kernel, by decide +kernel, by decide, by decide +kernel, rfl, rfl,
    by decide +kernel, by decide +kernel, ⟨0, relocking.die 0, by decide +kernel, .inr (.inl (by decide +kernel))⟩, by decide +kernel, rfl, by decide +kernel, by decide +kernel, by decide +kernel, by decide +kernel, by decide +kernel⟩

/-- Every island at its lowest frequency; die 1 on, gating, gated and waking. -/
def slowest : State := { one with dies := tmap one.dies fun _ x =>
  { x with islA := { x.islA with mhz := 600 }, islB := { x.islB with mhz := 600 } }, pkg := { one.pkg with exDies := 4094 } }
def die1 (g : GateSt) : State := one.setDie 1 { one.die 1 with gate := g }
def shedAt (n : Nat) : State := { one with pkg := { one.pkg with shed := [(2, { thresh := 4600, en := true, act := n })] } }

theorem met_PowerAndGating : (∀ v, v < 64 → (one.vd v).st = .absent ∨ (one.vd v).st = .destroying ∨
      ({ one with pkg := { one.pkg with pwrCap := 0 % 2 ^ 16 } } : State).actionOf v = (one.vd v).shed) ∧
    (∀ v, v < 64 → (one.vd v).st = .absent ∨ (one.vd v).st = .destroying ∨
      ({ one with pkg := { one.pkg with trayCap := 4600 } } : State).actionOf v = (one.vd v).shed) ∧
    (one.vd 0).st = .active ∧ one.actionOf 0 = (one.vd 0).shed ∧
    ((shedAt 1).actionOf 0 = 1 ∧ (shedAt 2).actionOf 0 = 2 ∧ (shedAt 3).actionOf 0 = 3 ∧ (one.vd 0).shed = 0) ∧
    (∃ e, e ∈ one.islands ∧ 600 < (one.isl e.1 e.2).mhz) ∧ (∀ e, e ∈ slowest.islands → (slowest.isl e.1 e.2).mhz ≤ 600) ∧
    slowest.islands ≠ [] ∧ slowest.pkg.pwrUnmet = false ∧ (die1 .on).pkg.ready = true ∧ ((die1 .on).die 1).gate = .on ∧
    (∀ e, e ∈ (die1 .on).teams → e.2.holds = true → dieOfCore e.2.core ≠ 1) ∧
    (∀ e, e ∈ (die1 .on).agents → e.2.pos.out = false → dieOfCore e.2.pos.core ≠ 1) ∧ (die1 .on).copies = [] ∧
    ((die1 .gating).die 1).gate = .gating ∧ ((die1 .gated).die 1).gate = .gated ∧ ((die1 .waking).die 1).gate = .waking ∧
    (dieOfCore 96 = 1 ∧ dieOfCore 191 = 1 ∧ dieOfCore 95 ≠ 1 ∧ dieOfCob 24 = 1 ∧ dieOfCob 47 = 1) := by decide +kernel

/-- Up: the link; the host holds line 0x8080 / 128 modified; a back-invalidation of it sent at 0. -/
def line0 : Nat := 0x8080
def linkS : State := { memS with link := { memS.link with st := 2 } }
def heldS : State := { linkS with link := { linkS.link with tracker := [(line0, true)] } }
def snoopS (resent inval : Bool) (now : Nat) : State :=
  { heldS with now, link := { heldS.link with snoops := [⟨line0, 0, resent, inval, false⟩] } }

theorem met_HostAccess : (linkS.link.st = 2 ∧ linkS.pkg.ready = true ∧ linkS.pkg.stopped = false) ∧
    linkS.hostSees 0x8080 64 = true ∧ linkS.link.incoherent = false ∧ linkS.link.snoops = [] ∧
    linkS.isFaulty 0x8080 64 = false ∧ linkS.link.tracker.length + (hostLines 0x8080 64).length ≤ 8388608 ∧
    linkS.hostSees 0x0D0000000000 1 = false ∧ linkS.hostSees 0x8080 (bytesOf 5 8).length = true ∧ linkS.hostSees 0x8080 (32 / 8) = true ∧
    (AtomOp.arith .add .n32).width = 32 ∧ memS.link.st = 0 ∧
    ((snoopS false true 99999).link.snoops.find? fun y => y.line == line0) = some ⟨line0, 0, false, true, false⟩ ∧ bytesOf 5 8 ≠ [] ∧
    ((snoopS false false 100000).link.snoops.find? fun y => y.line == line0) = some ⟨line0, 0, false, false, false⟩ ∧
    (line0, true) ∈ heldS.link.tracker ∧ (0 + 100000 ≤ (snoopS false true 100000).now) ∧ (0 + 200000 ≤ (snoopS true true 200000).now) ∧
    ((snoopS false true 99999).now < 0 + 100000 ∧ ∀ y, y ∈ (snoopS false true 99999).link.snoops → y.line = line0 → y = ⟨line0, 0, false, true, false⟩) := by
  refine ⟨?_, ?_, ?_, ?_, ?_, ?_, ?_, ?_, ?_, ?_, ?_, ?_, ?_, ?_, ?_, ?_, ?_⟩ <;> decide +kernel

/-- Port 0 up as device 7, port 1 untrained; both up, and a load of core 0 or 96 that a peer is to answer, or that waits on its way. -/
def portS : State := let s := memS.setPort 0 2 7; { s with link := { s.link with number := some 7 } }
def portsS : State := portS.setPort 1 2 7
def remoteA (core : Nat) (st : OpSt) : Agent :=
  { loading 0x8080 with
    pend := { (loading 0x8080).pend with ops := [{ loadOp 0x8080 with st }] }
    pos := { memA.pos with core } }
/-- The same of a unit of a copy request. -/
def askS (now core : Nat) (w : OpSt) : State :=
  { activeS with now, agents := [], copies := [(9, { request with next := 1, core, asking := some 0, wait := some w, askVa := 0x8080 })] }

theorem met_PortsAndPeers : memS.link.ports.length = 36 ∧ memS.link.number = none ∧ portS.link.number = some 7 ∧ (7 : Nat) ≠ 8 ∧
    memS.spanWaits = false ∧ memS.farOut = [] ∧ (put portsS (remoteA 0 (.remote 9 0))).farOut = [.remote 9 0] ∧
    memS.trained = [] ∧ (1 : Nat) ∈ portsS.trained ∧ (1 : Nat) ∉ portS.trained ∧
    (portsS.trained ≠ [] ∧ (portsS.setPort 1 0 7).trained ≠ []) ∧ (portS.trained ≠ [] ∧ (portS.setPort 0 3 7).trained = []) ∧
    (portsS.link.ports.getD 1 0).toNat % 4 = 2 ∧ ((memS.setPort 1 2 8).link.ports.getD 1 0).toNat / 4 % 256 ≠ 7 ∧
    (portsS.setPort 1 0 7).link.ports.length = 36 ∧
    memS.pkg.ready = true ∧ (9 : Nat) ∈ ({ memS with link := { memS.link with peers := [9] } } : State).link.peers ∧ (9 : Nat) ∉ memS.link.peers ∧
    (peerRange (.load 0x8080 8)).2.1 ≠ 0 ∧ memS.physFail 0 0x8080 8 = none ∧ memS.physFail 1 0x8080 8 = some 0x0C ∧
    ((memS.atHome 0 true [(.mem 0x8080, 8)]).1 = none ∧ (heldS.atHome 0 true [(.mem 0x8080, 8)]).1 = some (.snoop line0)) ∧
    memS.physFail 0 0x800C 4 = none ∧ (memS.atHome 0 true [(.mem 0x800C, 4)]).1 = none := by
  refine ⟨?_, ?_, ?_, ?_, ?_, ?_, ?_, ?_, ?_, ?_, ?_, ?_, ?_, ?_, ?_, ?_, ?_, ?_, ?_, ?_, ?_, ?_, ?_, ?_⟩ <;> decide +kernel

/-- Timeouts: at a peer, on the way to a port, and at another die. -/
theorem met_PortsAndPeers_timeouts : tget (put memS (remoteA 0 (.remote 9 0))).copies 0 = none ∧
    (remoteA 0 (.remote 9 0)).op 5 = some { loadOp 0x8080 with st := .remote 9 0 } ∧ (5 : Nat) ≠ 0 ∧
    (remoteA 0 (.remote 9 0)).live { loadOp 0x8080 with st := .remote 9 0 } = true ∧
    0 + 500000 ≤ ({ memS with now := 500000 } : State).now ∧ 0 + 200000 ≤ ({ memS with now := 200000 } : State).now ∧
    (memS.waitsAt (.regul 1 true) = some 1 ∧ 1 ≠ dieOfCore 0 ∧ memS.waitsAt (.regul 1 true) = some (dieOfCore 96) ∧ memS.waitsAt .held = none) ∧
    (let s := askS 500000 96 (.remote 9 0)
     let t := askS 200000 96 (.regul 0 true)
     (tget s.copies 9).map (fun c => (c.asking, c.wait, c.saved)) = some (some 0, some (.remote 9 0), false) ∧ 0 + 500000 ≤ s.now ∧
       (tget t.copies 9).map (fun c => (c.asking, c.wait, c.saved)) = some (some 0, some (.regul 0 true), false) ∧ 0 + 200000 ≤ t.now ∧
       t.waitsAt (.regul 0 true) = some 0 ∧ (0 : Nat) ≠ dieOfCore 96 ∧ t.waitsAt (.regul 1 true) = some (dieOfCore 96)) := by
  refine ⟨?_, ?_, ?_, ?_, ?_, ?_, ?_, ?_⟩ <;> decide +kernel

/-- A partition descriptor at 0xA000: cob 2, one context, near granule 1 with the stream FIFOs in it, the key list at 0xB000 (empty). -/
def descWords : List Nat :=
  ((((List.replicate 128 0).set 0 4).set 28 1).set 48 0x40000000 |>.set 50 0xB000).set 64 2
def descS : State :=
  poke { one with x := { one.x with owner := [(0, 0), (1, 0xFF)] } } 0xA000 (recBytes descWords 512)
/-- The mailbox with a command and its descriptor. -/
def pcmdS (s : State) (op vd at_ code : Nat) : State := s.setPcmd { w0 := op + 256 * vd, w1 := at_, code }
/-- The mailbox busy with a command of device 0; device 0 in a state. -/
def running (op : Nat) : State := { one with x := { one.x with pcmdRun := some (op, 0) }, agents := [], pods := [] }
def vd0 (st : VdSt) : State := one.setVd 0 { one.vd 0 with st }

/-- 03 R66: each status, and a GO while a command runs. -/
theorem met_Partitions : ((pcmdS one 1 1 0xA000 0).x.pcmd.w0 % 2 ^ 8 = 1 ∧ (pcmdS one 1 1 0xA000 0).x.pcmd.wait = none ∧ (pcmdS one 1 1 0xA000 0).x.pcmd.dead = false ∧
      (pcmdS one 1 1 0xA000 1).x.pcmd.code = 1 ∧ (pcmdS one 1 1 0xA000 0).x.pcmd.code ≠ 1) ∧
    ¬ ((pcmdS one 1 64 0xA000 0).x.pcmd.w0 / 2 ^ 16 = 0 ∧ (pcmdS one 1 64 0xA000 0).x.pcmd.w0 / 2 ^ 8 % 2 ^ 8 < 64) ∧
    ((pcmdS one 1 63 0xA000 0).x.pcmd.w0 / 2 ^ 16 = 0 ∧ (pcmdS one 1 63 0xA000 0).x.pcmd.w0 / 2 ^ 8 % 2 ^ 8 < 64) ∧
    ((pcmdS one 1 0 0xA000 0).vd 0).st ≠ .absent ∧ ((pcmdS one 2 1 0xA000 0).vd 1).st = .absent ∧
    ((pcmdS one 1 1 0xA100 0).x.pcmd.w1 % 512 ≠ 0 ∧ (pcmdS one 1 1 (2 ^ 40) 0).nearBacked (2 ^ 40) 512 = false) := by decide +kernel

/-- Device 0 with a way of die 0; each status of a descriptor, one word of it changed. -/
def waysS : State := descS.setVd 0 { descS.vd 0 with desc := { (descS.vd 0).desc with ways := [1] } }
theorem met_Partitions_statuses : (let c (ws : List Nat) : Option Nat := waysS.descStatus 1 (descOf (recNat ws))
     c (descWords.set 28 0) = some 3 ∧ c (descWords.set 0 5) = some 5 ∧ c (descWords.set 64 3) = some 6 ∧ c (descWords.set 32 1) = some 7 ∧
       c (descWords.set 44 46081) = some 8 ∧ c (descWords.set 44 (3 * 65536)) = some 9 ∧ c (descWords.set 48 0x80000000) = some 10 ∧
       c (descWords.set 0 0) = some 11 ∧ c descWords = none ∧ c ((descWords.set 44 46081).set 48 0x80000000) = some 8) := by decide +kernel

theorem met_Partitions_create : (let s := pcmdS descS 1 1 0xA000 0
     (s.vd 1).st = .absent ∧ s.x.pcmd.w1 % 512 = 0 ∧ s.nearBacked s.x.pcmd.w1 512 = true ∧ s.physGone s.x.pcmd.w1 512 = false ∧
       s.snoopNeeded [(.mem 0xA000, 512)] false = none ∧ s.snoopNeeded [(.mem 0xB000, 2048)] false = none ∧
       s.descStatus 1 (descOf (s.getNat (.mem 0xA000) 512)) = none ∧ (descOf (s.getNat (.mem 0xA000) 512)).granules = [1] ∧
       s.descStatus 1 (descOf (s.getNat (.mem 0xB000) 512)) = some 3 ∧ s.ratesStatus 0 (descOf (s.getNat (.mem 0xA000) 512)) = none ∧
       (s.vd 1).ctxs = [] ∧ s.actionOf 1 = 0) ∧
    (let s := pcmdS descS 2 0 0xA000 0
     (s.vd 0).st = .active ∧ s.descStatus 0 (descOf (s.getNat (.mem 0xA000) 512)) = none ∧
       s.snoopNeeded [(.mem (s.vd 0).desc.sfifo, 16384)] false = none) := by decide +kernel

theorem met_Partitions_rest : (vd0 .active).snoopNeeded [(.mem 0, 16384)] true = none ∧ ((vd0 .held).vd 0).st = .held ∧ ((vd0 .held).vd 0).shed < 2 ∧
    (running 2).x.pcmdRun = some (2, 0) ∧ (running 2).zeroing = false ∧ (running 2).revoking 0 = false ∧ (running 3).x.pcmdRun = some (3, 0) ∧
    (running 4).x.pcmdRun = some (4, 0) ∧ (running 4).unsaved 0 = false ∧ one.x.pcmdRun ≠ some (2, 0) ∧
    (one.setOwner 5 0xFD).ownerOf 5 = 0xFD := by decide +kernel

/-- 03 R64, R66: CREATE of device 1 from the descriptor; a device that is not absent. -/
theorem test_create : gives .create (pcmdS descS 1 1 0xA000 0) (fun t => t.x.pcmd.code == 2 && (t.vd 1).st == .active && t.ownerOf 1 == 1) = true ∧
    gives .create (pcmdS descS 1 0 0xA000 0) (fun t => t.x.pcmd.code == 4) = true := by decide +kernel

/-- Stream 63 enabled, with n entries; the link up. -/
def streamS (st : VdSt) (n : Nat) : State :=
  linkS.setVd 0 { linkS.vd 0 with st, desc := { (linkS.vd 0).desc with streams := 2 ^ 63 }, streams := [(63, { fifo := List.replicate n 0x9000 })] }
def headS (va : DWord) (bytes : List Byte) : State :=
  let s := streamS .active 0
  poke (s.setVd 0 { s.vd 0 with streams := [(63, { fifo := [va] })], objs := (launchS.vd 0).objs } |> fun t => { t with mem := one.mem }) 0x9000 bytes

theorem met_StreamsAndLending : ((linkS.vd 0).st ≠ .absent ∧ (linkS.vd 0).st ≠ .destroying) ∧ (linkS.vd 0).desc.streams.testBit 63 = false ∧
    ((streamS .active 31).vd 0).desc.streams.testBit 63 = true ∧ (2 ^ 57 - 64 < 2 ^ 57 ∧ (2 ^ 57 - 64) % 64 = 0) ∧ ¬ (2 ^ 57 < 2 ^ 57) ∧
    (((streamS .active 31).vd 0).stream 63).fifo.length < 32 ∧ 32 ≤ (((streamS .active 32).vd 0).stream 63).fifo.length ∧
    ((streamS .held 31).vd 0).st ≠ .active ∧ (streamS .active 31).schedules 0 = true ∧
    ((4 : Nat) ≠ 8 ∧ 4 % 8 ≠ 0) ∧ (((headS 0x9000 []).vd 0).stream 63).slot = none := by decide +kernel

/-- The origin of a fetch of stream 63 of device 0. -/
def fromStream : Origin := { vd := 0, fctx := 0, stream := some 63 }
/-- The record of the head with its first line held modified by the host; entries of a full stream that stand in memory. -/
def headHeld : State :=
  let s := headS 0x9000 (launchRec 1 1)
  { s with link := { s.link with tracker := [(0x9000, true)] } }
def reloadS (toPut : List Nat) : State :=
  let s := streamS .active 32
  s.setVd 0 { s.vd 0 with streams := [(63, { (s.vd 0).stream 63 with reload := 32, toPut })] }

theorem met_StreamsAndLending_waits : ((headHeld.takeRecord fromStream 0x9000 []).1 = .wait) ∧
    (((reloadS []).vd 0).stream 63).toPut = [] ∧ 0 < (((reloadS []).vd 0).stream 63).reload ∧
    (∀ k, k < 32 → (reloadS []).snoopNeeded [(.mem ((reloadS []).fifoAt 0 63 k), 8)] false = none) ∧
    (((streamS .held 31).vd 0).stream 63).toPut = [] ∧ (((headS 0x9000 []).vd 0).stream 63).reload = 0 ∧
    ((streamS .held 31).vd 0).st ≠ .active ∧ (((headS 0x9000 []).vd 0).stream 63).own = [] ∧
    (let x := ((streamS .held 31).vd 0).stream 63
     (streamS .held 31).snoopNeeded [(.mem (((streamS .held 31).vd 0).desc.sfifo + 256 * 63 + 8 * (x.accepted % 32)), 8)] true = none ∧
       (streamS .held 31).physGone (((streamS .held 31).vd 0).desc.sfifo + 256 * 63 + 8 * (x.accepted % 32)) 8 = false ∧
       x.own = [] ∧ x.lost = [] ∧ (reloadS []).physGone ((reloadS []).fifoAt 0 63 0) 8 = false) := by
  refine ⟨?_, ?_, ?_, ?_, ?_, ?_, ?_, ?_, ?_⟩ <;> decide +kernel

theorem met_StreamsAndLending_fetch : ((headS 0x9000 []).readVa 0 0 0x9000 256).1 = .ok (List.replicate 256 0) ∧
    (ofBytes (List.replicate 256 (0 : Byte)) % 2 ^ 16 ≠ 0x6B52) ∧
    (∃ c r ad, ((headS (2 ^ 56) []).readVa 0 0 (2 ^ 56) 256).1 = .fail c r ad) ∧
    ((headS 0x9000 (launchRec 1 1)).readVa 0 0 0x9000 256).1 = .ok (launchRec 1 1) ∧
    (let s1 := ((headS 0x9000 (launchRec 1 1)).readVa 0 0 0x9000 256).2
     (s1.writeVa 0 0 0x90C8 (bytesOf (s1.parentVa fromStream) 8)).1 = .ok ()) :=
  ⟨by decide +kernel, by decide +kernel, ⟨_, _, _, by rfl⟩, by decide +kernel, by decide +kernel⟩

/-- Cob 1 in the margin of device 0, which lends to device 1; a ready grid of a device. -/
def lendS (vd : Nat) (lend : Lend) : State :=
  let s := launchS.setVd 0 { launchS.vd 0 with desc := { (launchS.vd 0).desc with gset := 0, mset := 2, lend := 2 } }
  let s := s.setVd 1 { s.vd 0 with desc := { (s.vd 0).desc with mset := 0, lend := 0 } }
  let s := { s with now := 5000, grids := [(5, { vd, st := .ready, lrec := recOf 0x9000 (ofBytes (launchRec 1 1)), obj := 4 })] }
  { (s.setCob 1 { s.cob 1 with lend }) with agents := [], teams := [], pods := [] }

theorem met_StreamsAndLending_lend : (lendS 1 .own).marginOf 1 = some 0 ∧ (lendS 1 .own).qualifies 1 1 = some 0 ∧ (lendS 1 .own).idle 1 = true ∧
    (lendS 1 .own).pkg.stopped = false ∧ (lendS 0 .own).qualifies 1 1 = none ∧ (lendS 1 (.lent 1)).idle 1 = false ∧
    (∀ v, v ∈ (lendS 1 .own).vds.map (·.1) → ((lendS 1 .own).qualifies 1 v = none ∨ 1 ≤ v)) ∧
    (lendS 0 (.lent 1)).wanted 1 1 0 = true ∧ (lendS 1 (.lent 1)).wanted 1 1 0 = false ∧ ((lendS 1 (.revoking 1 7)).cob 1).lend = .revoking 1 7 := by
  refine ⟨?_, ?_, ?_, ?_, ?_, ?_, ?_, ?_, ?_, ?_⟩ <;> decide +kernel

/-- 03 R73, R74, R79, R80: a kick accepted, one of a misaligned address; the cob lent; revoked. -/
theorem test_kick_and_lend : gives (.kick 0 (8 * 63) 8 0x9000) (streamS .active 31) (fun t => ((t.vd 0).stream 63).fifo.length == 32 &&
      ((t.vd 0).stream 63).last == 1) = true ∧
    gives (.kick 0 (8 * 63) 8 0x9001) (streamS .active 31) (fun t => ((t.vd 0).stream 63).last == 4 && (t.vd 0).intcause == 1) = true ∧
    gives (.marginCobLend 1 1) (lendS 1 .own) (fun t => (t.cob 1).lend == .lent 1 && (t.vd 0).intcause == 16) = true ∧
    gives (.revocation 1) (lendS 0 (.lent 1)) (fun t => (t.cob 1).lend == .revoking 1 5000) = true := by
  refine ⟨?_, ?_, ?_, ?_⟩ <;> decide +kernel
/-- FIPS 202: SHAKE256 over 64 zero bytes, and the feature hash, by another implementation. -/
theorem test_shake256 : shakeNat (List.replicate 64 0) = recNat [0xeaf2a57e, 0xde87949e, 0x8b915347, 0xeb0853bf, 0x1864fa91, 0x556c2389, 0xb4ec08d7, 0x366a66d9] ∧
    featureHash = recNat [0x820d072b, 0xb3d01142] := by decide +kernel

/-- An image container at 0x9000 with the format e4m3 and 64 zero bytes of bitstream, and the machine with a command on it. -/
def contWords : List Nat :=
  [0x14946, 64, 64, 0, 0x12000000] ++ List.replicate 27 0 ++ [1 + 8 * 65536 + 3 * 2 ^ 26 + 2 ^ 31, 4 + 3 * 256 + 7 * 65536, 0, 0,
    0xeaf2a57e, 0xde87949e, 0x8b915347, 0xeb0853bf, 0x1864fa91, 0x556c2389, 0xb4ec08d7, 0x366a66d9]
def imgS (op n at_ code : Nat) : State :=
  let s := poke { memS with mem := one.mem } 0x9000 (recBytes contWords 192)
  s.setImg { w0 := op + 65536 * n, w1 := at_, code }
def withImage (i : Image) : State := (imgS 2 12 0 0).setImage 12 i

theorem met_ImagesAndObjects : ((imgS 1 12 0x9000 0).x.img.wait = none ∧ (imgS 1 12 0x9000 0).x.att.wait = none ∧ (imgS 1 12 0x9000 0).x.img.dead = false ∧
      (imgS 1 12 0x9000 0).x.att.dead = false) ∧
    (imgS 1 12 0x9000 1).x.img.code = 1 ∧ (imgS 257 12 0x9000 0).x.img.w0 / 2 ^ 8 % 2 ^ 8 ≠ 0 ∧
    ((imgS 1 11 0x9000 0).x.img.w0 / 2 ^ 16 % 2 ^ 10 < 12 ∧ 12 ≤ (imgS 1 12 0x9000 0).x.img.w0 / 2 ^ 16 % 2 ^ 10) ∧
    (withImage { st := 1 }).image 12 = { st := 1 } ∧ ((imgS 1 12 0x9000 0).image 12).st = 0 ∧
    (0x9020 % 64 ≠ 0 ∧ (imgS 1 12 (2 ^ 40) 0).nearBacked (2 ^ 40) 0x80 = false ∧ (imgS 1 12 0x9000 0).nearBacked 0x9000 0x80 = true) ∧
    (imgS 1 12 0x9000 0).snoopNeeded [(.mem 0x9000, 135108)] false = none ∧ (imgS 1 12 0x9000 0).nearBacked 0x9000 3076 = true ∧
    (imgS 1 12 0x9000 0).unreadable 0x9000 3076 = false ∧
    ({ imgS 1 12 0x9000 0 with faulty := [0x9000 / 128] } : State).unreadable 0x9000 3076 = true ∧
    ((withImage { st := 1, binds := 3 }).image 12).binds ≠ 0 ∧
    (imgS 1 12 0x9000 0).unreadable ((imgS 1 12 0x9000 0).imageStore 12) 163840 = false ∧
    (let s := imgS 1 12 0x9000 0
     ({ s with faulty := [s.imageStore 12 / 128] } : State).unreadable (s.imageStore 12) 163840 = true) := by decide +kernel

/-- The container is in order but for its signature, which only an opaque function judges; one whose first word is another. -/
theorem met_ImagesAndObjects_container : contBad ((imgS 1 12 0x9000 0).contAt 0x9000) = false ∧
    fmtValid (ofBytes (((imgS 1 12 0x9000 0).contAt 0x9000).head.drop 0x80)) 64 = true ∧
    bits (ofBytes (((imgS 1 12 0x9000 0).contAt 0x9000).head.drop 0x80)) 128 256 = shakeNat ((imgS 1 12 0x9000 0).contAt 0x9000).bitstream ∧
    contStatus ((imgS 1 12 0xA000 0).contAt 0xA000) = some 3 ∧
    (let c (ws : List Nat) : Option Nat := contStatus ((poke { memS with mem := one.mem } 0x9000 (recBytes ws 192)).contAt 0x9000)
     c (contWords.set 32 2) = some 4 ∧ c (contWords.set 36 0) = some 5) := by decide +kernel

/-- An attestation request for device 0 with its nonce at 0x9000 and its report at 0xC000, and with `leaf` leaves used. -/
def attS (vd leaf : Nat) : State :=
  let s := imgS 0 0 0 0
  { s with x := { s.x with att := { w0 := vd, w1 := 0x9000, w2 := 0xC000 }, attLeaf := leaf } }

theorem met_ImagesAndObjects_attestation : ((attS 64 0).x.att.w0 / 64 ≠ 0 ∧ (attS 0 0).x.att.w0 < 64 ∧ (attS 0 0).x.att.code ≠ 1) ∧
    ((attS 0 0).nearBacked 0x9000 32 = true ∧ 0xC000 % 16384 = 0 ∧ (attS 0 0).nearBacked 0xC000 16384 = true) ∧
    ((attS 63 0).vd 63).st = .absent ∧ ((attS 0 0).vd 0).st = .active ∧ 2 ^ 20 ≤ (attS 0 (2 ^ 20)).x.attLeaf ∧
    (attS 0 (2 ^ 20 - 1)).x.attLeaf < 2 ^ 20 ∧ (attS 0 0).unreadable 0x9000 32 = false ∧ (attS 0 0).unreadable 0xC000 16384 = false ∧
    ({ attS 0 0 with faulty := [0xC000 / 128] } : State).unreadable 0xC000 16384 = true ∧
    (attS 0 0).snoopNeeded [(.mem 0x9000, 32)] false = none ∧ (attS 0 0).snoopNeeded [(.mem 0xC000, 16384)] true = none ∧
    (2 ^ 20 < (attS 0 (2 ^ 20 - 4095)).x.attLeaf + 4096 ∧ (attS 0 0).x.idLeaf < 2 ^ 20) := by decide +kernel

/-- A code object at 0x9000 with one instruction, with the part's feature hash or 0, and with an import. -/
def codeWords (hash : List Nat) (imp : Nat) : List Nat :=
  (([0x14F43, 0] ++ hash ++ [128, 8] ++ List.replicate 12 0 ++ [0xFFFFFFFF] ++ List.replicate 13 0).set 16 192).set 17 imp
def codeS (op vd num dst : Nat) (hash : List Nat) (imp : Nat) : State :=
  let s := poke { launchS with mem := one.mem } 0x9000 (recBytes (codeWords hash imp) 256)
  s.setCode { w0 := op + 256 * vd + 65536 * num, w1 := 0x9000, w2 := dst, w3 := 0x50000 }
def okHash : List Nat := [0x820d072b, 0xb3d01142]
def okCode : State := codeS 1 0 7 0x50000 okHash 0

theorem met_ImagesAndObjects_code : okCode.x.code.wait = none ∧ okCode.x.code.dead = false ∧ okCode.x.code.code ≠ 1 ∧ okCode.x.code.w0 % 2 ^ 8 = 1 ∧
    (okCode.vd 0).st = .active ∧ ((codeS 1 63 7 0 okHash 0).vd 63).st = .absent ∧
    ((codeS 1 64 7 0 okHash 0).x.code.w0 / 2 ^ 14 % 2 ^ 2 ≠ 0 ∧ okCode.x.code.w0 / 2 ^ 14 % 2 ^ 2 = 0 ∧ okCode.x.code.w0 / 2 ^ 24 % 2 ^ 40 = 0) ∧
    (0x9000 % 64 = 0 ∧ 0x50000 % 65536 = 0 ∧ 0x51000 % 65536 ≠ 0) ∧ tget (okCode.vd 0).objs 4 ≠ none ∧ tget (okCode.vd 0).objs 7 = none ∧
    codeBytes (okCode.getNat (.mem 0x9000) 128) = 136 ∧ okCode.snoopNeeded [(.mem 0x9000, 136)] false = none ∧
    okCode.snoopNeeded [(.mem 0x50000, 136)] true = none ∧ okCode.ownsRange 0 0x9000 128 = true ∧ okCode.ownsRange 1 0x9000 128 = false ∧
    okCode.ownsRange 0 0x50000 136 = true ∧ okCode.unreadable 0x9000 136 = false ∧ okCode.unreadable 0x50000 136 = false ∧
    ({ okCode with faulty := [0x50000 / 128] } : State).unreadable 0x50000 136 = true ∧
    okCode.objNamed 0 4 = false ∧
    (let s := okCode.setGrid 1 { okCode.grid 1 with obj := 4, lrec := { (okCode.grid 1).lrec with code := 0x30000 } }
     s.objNamed 0 4 = true) := by decide +kernel

theorem met_ImagesAndObjects_sections : (let x := ofBytes (okCode.getBytes (.mem 0x9000) 136)
     codeBad x = false ∧ admitted x = true ∧ secLen x 6 / 16 = 0) ∧
    codeBad 0 = true ∧ codeBytes 0 = 128 ∧
    (let bad (k w : Nat) : Bool := codeBad (recNat ((codeWords okHash 0).set k w))
     bad 5 12 = true ∧ bad 18 4 = true ∧ bad 13 8 = true ∧ bad 19 1 = true) ∧ admitted (ofBytes ((codeS 1 0 7 0 [0, 0] 0).getBytes (.mem 0x9000) 136)) = false ∧
    (let s := codeS 1 0 7 0 okHash 16
     let x := ofBytes (s.getBytes (.mem 0x9000) 208)
     codeBad x = false ∧ (0 : Nat) < secLen x 6 / 16 ∧ resolveName (s.vd 0).objs (importName x 0) = none) := by decide +kernel

/-- 05 R118, R120: LOAD; no export of the name. -/
theorem test_load : gives .load okCode (fun t => t.x.code.code == 2 && t.getNat (.mem 0x50000) 4 == 0x14F43) = true ∧
    gives .load (codeS 1 0 7 0x50000 okHash 16) (fun t => t.x.code.code == 6) = true := by decide +kernel

/-- A ring of F-die 8 at 0xC000 with a record that moves the 4 KiB at 0x9000 of device `vd` to 2 MiB further, with its leaf at 0xD000
and its counter at 0xE000; the first slot running it, and its leaf mapping the page or not. -/
def moveS (vd tail : Nat) : State :=
  let s := poke (poke { memS with mem := one.mem } 0x9000 [5, 6]) 0xC000 (recBytes [1 + 65536 * vd, 0, 0x9000, 0, 0x209000, 0, 0xD000, 0, 0xE000, 0] 64)
  s.setDie 8 { s.die 8 with ringBase := 0xC000, ringTail := tail }
def mig (phase status : Nat) : Mig :=
  { ring := 8, recAt := 0xC000, pgsz := 0, vd := 0, src := 0x9000, dst := 0x209000, leaf := 0xD000, ctr := 0xE000, phase, log := [], status }
def movingS (vd phase status : Nat) : State := (poke (moveS 0 1) 0xD000 (bytesOf 0x900F 8)).setMig 8 0 { mig phase status with vd }

theorem met_PageMoves : ((moveS 0 1).die 8).freeSlot = some 0 ∧ (0 : Nat) ≠ ((moveS 0 1).die 8).ringTail % 256 ∧ (0 : Nat) = ((moveS 0 256).die 8).ringTail % 256 ∧
    (moveS 0 1).pkg.stopped = false ∧ ((moveS 0 1).die 8).ringDead = false ∧ (moveS 0 1).physGone 0xC000 64 = false ∧
    ({ moveS 0 1 with faulty := [0xC000 / 128] } : State).physGone 0xC000 64 = true ∧ (moveS 0 1).snoopNeeded [(.mem 0xC000, 64)] false = none ∧ ((moveS 0 1).die 8).migs = [] ∧
    (let r := movRecOf ((moveS 0 1).getNat (.mem 0xC000) 64)
     (moveS 0 1).movStatus r = none ∧ r.src = 0x9000 ∧ r.dst = 0x209000 ∧ pageBytes r.pgsz = 4096) ∧
    (moveS 63 1).movStatus (movRecOf ((moveS 63 1).getNat (.mem 0xC000) 64)) = some 7 ∧
    (moveS 64 1).movStatus (movRecOf ((moveS 64 1).getNat (.mem 0xC000) 64)) = some 2 ∧
    (moveS 0 1).snoopNeeded [(.mem 0x9000, 4096)] false = none ∧ (moveS 0 1).snoopNeeded [(.mem 0x209000, 4096)] true = none ∧
    tget ((movingS 0 1 0).die 8).migs 0 = some (mig 1 0) ∧ ((movingS 0 1 0).vd 0).st = .active ∧ ((movingS 63 1 0).vd 63).st = .absent ∧
    (movingS 0 1 0).moveBroken (mig 1 0) = false ∧ ((movingS 0 1 0).pageOk 0 0x9000 = true ∧ (movingS 0 1 0).pageOk 0 0x209000 = true ∧
      (movingS 0 1 0).pageOk 63 0x9000 = false) ∧ ((mig 1 0).dead = false ∧ (movingS 0 1 0).physFail 0 0xD000 8 = none ∧
      ({ movingS 0 2 0 with faulty := [0xD000 / 128] } : State).physFail 0 0xD000 8 ≠ none) ∧
    (let e := (movingS 0 1 0).getNat (.mem 0xD000) 8
     e.testBit 0 = true ∧ e.testBit 3 = true ∧ e.testBit 5 = false ∧ e / 2 ^ 12 % 2 ^ 40 * 4096 = 0x9000 ∧
       ((moveS 0 1).getNat (.mem 0xD000) 8).testBit 0 = false) ∧
    ([(0xD000, 8, false), (0xD000, 8, true), (0xC000 + 40, 1, true), (0xE000, 8, true)].all fun (pa, k, w) =>
      ((movingS 0 2 0).snoopNeeded [(.mem pa, k)] w).isNone) = true ∧
    (let broken (n : Nat) : State := { movingS 0 n 0 with faulty := [0x9000 / 128] }
     (broken 1).moveBroken (mig 1 0) = true ∧ (broken 2).moveBroken (mig 2 0) = true) ∧ Memory.wf memS.mem = true := by
  refine ⟨?_, ?_, ?_, ?_, ?_, ?_, ?_, ?_, ?_, ?_, ?_, ?_, ?_, ?_, ?_, ?_, ?_, ?_, ?_, ?_, ?_, ?_, ?_, ?_⟩ <;> decide +kernel

/-- 01 R19, R21: a record is taken and copied; the end names DST in the leaf and counts. -/
theorem test_move : gives (.move 8) (moveS 0 1) (fun t => t.getNat (.mem 0x209000) 2 == 0x605 && (t.die 8).ringHead == 1) = true ∧
    gives (.migrationComplete 8 0) (movingS 0 2 0) (fun t => t.getNat (.mem 0xD000) 8 == 0x20900F && t.getNat (.mem 0xE000) 8 == 1 &&
      t.getNat (.mem 0xC028) 1 == 1) = true := by decide +kernel
/-! Issue, slices, placement, ends, results, registers. -/

/-- An island with clocks left before the next pulse, and with none. -/
def clocked (done : Nat) : State := memS.setIsl 0 0 { memS.isl 0 0 with done }
def seqB (age : Nat) : Agent := { seqA with sched := { seqA.sched with age } }
def seqS : State := put tileS (seqB 7)
def seqAt (n : Option Nat) : State := seqS.setCob 0 { seqS.cob 0 with seqAt := n }

theorem met_IssueOfGroups : (clocked (1000 * tickUnit)).clocksLeft 0 0 = 0 ∧ 0 < (clocked 0).clocksLeft 0 0 ∧
    (∀ y, y ∈ (put memS memA).agents → y.2.sched.age < 2 ^ 64 ∧ y.2.pos.lane < 16) ∧ (put memS memA).agents ≠ [] ∧
    ((0, seqB 7) ∈ seqS.agents ∧ (0, seqB 6) ∈ (put tileS (seqB 6)).agents) ∧ ((seqB 7).id.seq = true ∧ (seqB 7).pos.out = false) ∧
    cobOfCore (seqB 7).pos.core = 0 ∧ (seqS.issuable 0 (seqB 7) = true ∧ (put tileS (seqB 6)).issuable 0 (seqB 6) = true) ∧
    (6 < 7 ∧ (seqB 7).sched.age = 7) ∧ (seqS.vd 0).shed ≠ 1 ∧ (∀ e, e ∈ seqS.agents → e = (0, seqB 7)) ∧ (seqS.cob 0).seqAt ≠ some (seqS.isl 0 0).cyc ∧
    (∀ e, e ∈ (put memS memA).agents → e.2.id.seq = false) := by
  refine ⟨?_, ?_, ?_, ?_, ?_, ?_, ?_, ?_, ?_, ?_, ?_, ?_, ?_⟩ <;> decide +kernel

/-- A slice of context 0 of device 0 on cob 0 with its clocks and start; a rival grid of context 1 of priority 7 that would fit only there. -/
def slicedS (clocks start now : Nat) (rival : Bool) : State :=
  let s := launchS.setVd 0 { launchS.vd 0 with slice := 2, desc := { (launchS.vd 0).desc with nctx := 2 } }
  let r := recOf 0x9000 (ofBytes (launchRec 1 1))
  let s := if rival then s.setGrid 9 { vd := 0, st := .ready, lrec := { r with ctx := 1, prio := 7, scratch := 458752 }, obj := 4 } else s
  let s := { s with teams := (upFrom 0 4).map fun c => (c + 20, { tgetD s.teams 2 ⟨1, 0, 3, 0, 0, 1, 0, .resident, 1, true, false, 0, [], [], 0⟩ with core := c }) }
  { s with now, slices := [(cobKey 0 0 0, ⟨clocks, start, 2⟩)] }
def dogS (vec : Option (Nat × Nat)) (n : Nat) : State := memS.setGrid 1 { memS.grid 1 with vector := vec, wdog := n }

theorem met_SlicesAndSaves : tget (slicedS 3600 0 0 false).slices (cobKey 0 0 0) = some ⟨3600, 0, 2⟩ ∧ ((slicedS 3600 0 0 false).vd 0).slice = 2 ∧
    (slicedS 3600 0 0 false).workOn 0 0 0 = true ∧ (1800 * 2 ≤ 3600 ∧ 3599 < 1800 * 2 ∧ 0 + 200 * 2 ≤ (slicedS 3599 0 400 false).now) ∧
    (slicedS 3600 0 0 false).contended 0 0 0 = false ∧ (slicedS 3600 0 0 true).contended 0 0 0 = true ∧
    tget (slicedS 3600 0 0 true).preReqs (cobKey 0 0 0) = none ∧ (memS.vd 0).wdog = 200000 ∧
    (((dogS none (1000 * 200000 * 65536 - 1)).grid 1).wdog / 65536 < 1000 * 200000) ∧
    (1000 * 200000 ≤ ((dogS none (1000 * 200000 * 65536)).grid 1).wdog / 65536) ∧
    tget memS.slices (cobKey 0 0 0) = none ∧ (((dogS none 0).grid 1).vector = none ∧ ((dogS (some (0, 8)) 0).grid 1).vector ≠ none) := by
  refine ⟨?_, ?_, ?_, ?_, ?_, ?_, ?_, ?_, ?_, ?_, ?_, ?_⟩ <;> decide +kernel

/-- A request in force since clock 0; the thread covered, with `psave` executed or not; a save under way. -/
def coveredS (psaved : Option Nat) (saving : Bool) (cyc : Nat) : State :=
  let s := put vecS { memA with sched := { memA.sched with covered := true, psaved } }
  { s.setIsl 0 0 { s.isl 0 0 with cyc } with preReqs := [(cobKey 0 0 0, ⟨0, false, saving, if saving then [3] else []⟩)] }
def descheduling : State := (put vecS memA).setVd 0 { (put vecS memA).vd 0 with st := .held, cmd := true }

theorem met_SlicesAndSaves_preemption : ((descheduling.vd 0).st = .held ∧ (descheduling.vd 0).cmd = true) ∧
    (∃ e, e ∈ descheduling.pods ∧ e.2.vd = 0 ∧ e.2.ctx = 0 ∧ e.2.cob = 0 ∧ e.2.out = false) ∧ (memS.vd 0).cmd = false ∧
    tget (put vecS memA).preReqs (cobKey 0 0 0) = none ∧ (∀ e, e ∈ (put vecS memA).pods → ((put vecS memA).grid e.2.grid).vector ≠ none) ∧
    tget (coveredS none false 49999).preReqs (cobKey 0 0 0) = some ⟨0, false, false, []⟩ ∧
    (∀ e, e ∈ (coveredS (some 3) false 0).coveredBy 0 0 0 → e.2.sched.psaved ≠ none) ∧
    ((coveredS none false 0).coveredBy 0 0 0).map (fun e => e.2.sched.psaved) = [none] ∧ ((coveredS none false 50000).isl 0 0).cyc = 50000 ∧
    tget (coveredS none true 0).preReqs (cobKey 0 0 0) = some ⟨0, false, true, [3]⟩ := by
  refine ⟨?_, ⟨(3, tgetD descheduling.pods 3 ⟨1, 0, 0, 0, 0, none, true, [], false, [], 0, none⟩), ?_⟩, ?_, ?_, ?_, ?_, ?_, ?_, ?_, ?_⟩ <;> decide +kernel

/-- Two ready grids of device 0, the second blocking or not, the first tried at 0; a team in child wait whose core the child needs. -/
def readyS (now : Nat) : State :=
  let g : Grid := { vd := 0, st := .ready, lrec := recOf 0x9000 (ofBytes (launchRec 1 1)), obj := 4 }
  { launchS with now, grids := tset (tset launchS.grids 8 { g with tried := some 0 }) 9 { g with blocking := true, readyAt := 1, lrec := { g.lrec with ctx := 5 } } }
def waitingA : Agent := { memA with pend := { memA.pend with ct := some ⟨.mem 0x8080, 0x8080, 6, 3, 0, none, none, 0, 0⟩ } }
def childS (area : Bool) : State :=
  let s := put launchS waitingA
  let g : Grid := { vd := 0, st := .ready, parent := some 1, pteam := 2, blocking := true, obj := 4
                    lrec := { recOf 0x9000 (ofBytes (launchRec 1 1)) with scratch := 458752 } }
  let s := { s with grids := tset s.grids 9 g }
  if area then s.setCtx 0 0 { s.ctx 0 0 with saveBase := 0x1000000, saveRes := 0, savePages := 16 } else s

theorem met_PlacementAndEnd : (readyS 0).schedules 0 = true ∧ ({ readyS 0 with pkg := { (readyS 0).pkg with stopped := true } } : State).schedules 0 = false ∧
    ((readyS 0).setGrid 1 { (readyS 0).grid 1 with acqWait := true }).issuable 0 theAgent = false ∧
    ((readyS 0).readyOrder 0).map (·.2) = [Entry.fresh 8, .fresh 9] ∧ ((readyS 0).placeEntry (.fresh 8)).isSome = true ∧
    ((readyS 0).setGrid 8 { (readyS 0).grid 8 with lrec := { ((readyS 0).grid 8).lrec with scratch := 2 ^ 20 } }).placeEntry (.fresh 8) = none ∧
    ((readyS 0).grid 9).blocking = true ∧ ((readyS 0).grid 8).blocking = false ∧ ((readyS 0).grid 9).tried = none ∧
    tget (readyS 10000).grids 8 = some ((readyS 0).grid 8) ∧ ((readyS 0).grid 8).placed = false ∧ ((readyS 0).grid 8).st = .ready ∧
    ((readyS 0).grid 8).tried = some 0 ∧ 0 + 10000 ≤ (readyS 10000).now ∧ (readyS 9999).now < 0 + 10000 := by
  refine ⟨?_, ?_, ?_, ?_, ?_, ?_, ?_, ?_, ?_, ?_, ?_, ?_, ?_, ?_, ?_⟩ <;> decide +kernel

def theTeam : Team := tgetD (childS true).teams 2 ⟨0, 0, 0, 0, 0, 0, 0, .saved, 0, true, true, 0, [], [], 0⟩
theorem met_PlacementAndEnd_swap : tget (childS true).teams 2 = some theTeam ∧ (childS true).childWait 2 theTeam = true ∧
    (childS true).helps 2 theTeam = true ∧ (∀ e, e ∈ (childS true).teamAgents 2 → e.2.pend.ops = []) ∧ (childS true).copies = [] ∧
    (childS true).teams = [(2, theTeam)] ∧ ((childS true).swapTeam 2 theTeam).isSome = true ∧
    (∀ e, e ∈ launchS.teams → launchS.childWait e.1 e.2 = false) := by
  refine ⟨?_, ?_, ?_, ?_, ?_, ?_, ?_, ?_⟩ <;> decide +kernel

/-- The pod group of `one` saved, its team to return. -/
def savedS : State :=
  let p : Pod := tgetD memS.pods 3 ⟨1, 0, 0, 0, 0, none, true, [], true, [], 0, none⟩
  { memS with pods := [(3, { p with out := true })], teams := memS.teams.map fun e => (e.1, { e.2 with place := .saved, pod := 3 }) }

theorem met_PlacementAndEnd_back : savedS.pods.map (·.1) = [3] ∧ (savedS.pods.all fun e => savedS.mayReturn e.1 e.2 && e.2.vd == 0) = true ∧
    ((savedS.readyOrder 0).map (·.2)) = [.back 3] ∧ savedS.gridAt (.back 3) = 1 := by decide +kernel

/-- A grid at its end: with a completion record at 0x8000 and a counter at 0x8080, without failure, with one, with a release it
may not make; a peer's page as its record. -/
def endRec : LRec := { done := 0x8000, sigs := [(0x8080, 3)], fail := (0x8088, 1) }
def endS (failed : Option (Nat × Nat × DWord)) (l : LRec) : State :=
  { memS with grids := [(1, { memS.grid 1 with st := .ending, failed, lrec := l })], pods := [], teams := [], agents := [] }

theorem met_PlacementAndEnd_end : ((endS none endRec).grid 1).st = .ending ∧ (∀ e, e ∈ (endS none endRec).grids → e.2.parent ≠ some 1) ∧
    (∀ e, e ∈ (endS none endRec).pods → e.2.grid ≠ 1) ∧ (endS none endRec).releaseWaits ((endS none endRec).grid 1) = false ∧
    ¬ (endRec.rel = true ∧ 6 ≤ endRec.rscope) ∧
    (({ endRec with rel := true, rscope := 6 } : LRec).rel = true ∧ ((endS none endRec).scope 0 0 6).st = .invalid) ∧
    ((endS none endRec).grid 1).own = [] ∧
    ((endS none endRec).placesFor 0 0 [] [(0x8000, 32), (0x8080, 8)]).1.at_ = [some [(.mem 0x8000, 32)], some [(.mem 0x8080, 8)]] ∧
    ((endS none endRec).placesFor 0 0 [] [(0x8000, 32), (0x8080, 8)]).1.waits = false ∧
    ((endS (some (8, 0x0B, 0)) endRec).placesFor 0 0 [] [(0x8000, 32), (0x8088, 8)]).1.waits = false ∧
    (let s := endS none endRec
     ({ s with link := { s.link with st := 2, tracker := [(0x8080, true)] } } : State).placesFor 0 0 [] [(0x8000, 32), (0x8080, 8)]).1.waits = true := by
  refine ⟨?_, ?_, ?_, ?_, ?_, ?_, ?_, ?_, ?_, ?_, ?_⟩ <;> decide +kernel

/-- 05 R126 to R128: the record and the counters of a success and of a failure. -/
theorem test_launch_end : gives (.launchEnd 1) (endS none endRec) (fun t => t.getNat (.mem 0x8000) 1 == 1 && t.getNat (.mem 0x8080) 8 == 8 && t.grids == []) = true ∧
    gives (.launchEnd 1) (endS (some (8, 0x0B, 0x70)) endRec) (fun t => t.getNat (.mem 0x8000) 2 == 0x0B08 && t.getNat (.mem 0x8010) 8 == 0x70 &&
      t.getNat (.mem 0x8088) 8 == 1 && (t.vd 0).intcause == 4) = true := by decide +kernel
/-- A value that has come back for the two words a load reserved; a load parked at the buffer; one that a peer has. -/
def opIn (st : OpSt) : Agent := { loading 0x8080 with pend := { (loading 0x8080).pend with ops := [{ loadOp 0x8080 with st }] } }
def predOp : Agent := { memA with pend := { memA.pend with ops := [{ loadOp 0x8080 with st := .ready [], words := 0, preds := [(6, true)] }] } }
/-- A frame request for 3 granules after some clocks, the lane having that many others free or none; an older one. -/
def asks (cycles : Nat) : Agent := { memA with pend := { memA.pend with freq := some { pool := .lane 0 0 0 false, want := 3, own := false, since := 9, cycles } } }
def older (s : State) : State := { s with agents := s.agents ++ [(1, { asks 0 with pend := { (asks 0).pend with freq := some { pool := .lane 0 0 0 false, want := 3, own := false, since := 1 } } })] }
def fullOf (a : Agent) : Agent := { a with arch := { a.arch with frames := a.arch.frames.map fun f => { f with gran := List.range 57 } } }
/-- A `ctwait` whose 9 ticks run from 0; a `rejoin` of join 3 that began at clock 0. -/
def waitingS (now : Nat) (hit : Option Nat) : State := { put vecS (armed hit) with now }
def rejoining : Agent := { theAgent with pend := { theAgent.pend with rejoin := some (3, 0, false) } }
def clockS (cyc : Nat) : State := let s := put one rejoining; s.setIsl 0 0 { s.isl 0 0 with cyc }

theorem met_ReturnsAndTimeouts : tget (put memS (opIn (.ready [5, 0]))).agents 0 = some (opIn (.ready [5, 0])) ∧
    tget (put memS (opIn (.ready [5, 0]))).copies 0 = none ∧ (opIn (.ready [5, 0])).op 5 = some { loadOp 0x8080 with st := .ready [5, 0] } ∧
    (loadOp 0x8080).regw = none ∧ (loadOp 0x8080).preds = [] ∧ (predOp.op 5).map (fun o => (o.st, o.preds)) = some (.ready [], [(6, true)]) ∧
    ((opIn (.remote 9 0)).op 5).map (·.st) = some (.remote 9 0) ∧
    ((opIn (.walker 0 0x8080)).op 5).map (·.st) = some (.walker 0 0x8080) ∧ (memS.bufferRoom 0 = true ∧ (memS.islOfCore 0).relock = false) ∧
    (relocking.islOfCore 0).relock = true ∧ ((opIn (.parked 0 0)).op 5).map (·.st) = some (.parked 0 0) ∧
    (asks 1023).pend.freq = some { pool := .lane 0 0 0 false, want := 3, own := false, since := 9, cycles := 1023 } ∧
    ((put memS (asks 0)).oldestBlocked (.lane 0 0 0 false)).map (·.1) = some 0 ∧ 3 ≤ ((put memS (asks 0)).freeGran (.lane 0 0 0 false)).length ∧
    ((older (put memS (asks 0))).oldestBlocked (.lane 0 0 0 false)).map (·.1) = some 1 ∧
    (waitingS 9 none).nextWord 0 (armed none) = (((waitingS 9 none).nextWord 0 (armed none)).1, ((waitingS 9 none).nextWord 0 (armed none)).2) ∧
    (0 + 9 ≤ (waitingS 9 none).now) ∧ (armed none).pos.out = false ∧ (armed (some 7)).pend.ct.map (·.hit) = some (some 7) ∧
    rejoining.pend.rejoin = some (3, 0, false) ∧ 0 + 4096 ≤ ((clockS 4096).islOfCore 0).cyc ∧ ((clockS 4095).islOfCore 0).cyc < 0 + 4096 := by
  refine ⟨?_, ?_, ?_, ?_, ?_, ?_, ?_, ?_, ?_, ?_, ?_, ?_, ?_, ?_, ?_, rfl, ?_, ?_, ?_, ?_, ?_, ?_⟩ <;> decide +kernel

/-- A checkpoint that ends a move whose leaf the host holds; one whose relock goes on past the next pulse; a device that has had a
request held in the window. -/
theorem met_ClocksAndBoot_waits :
    (let s := movingS 0 2 0
     let t : State := { s with link := { s.link with st := 2, tracker := [(0xD000, true)] }, pkg := { s.pkg with stopped := true, ckptStage := 3 } }
     t.pkg.ckptStage = 3 ∧ (t.endMoves t.moves).moves ≠ []) ∧
    (let s := one.setIsl 0 0 { one.isl 0 0 with relock := true, till := 1100 }
     (s.isl 0 0).relock = true ∧ s.run.pulse + 1000 ≤ (s.isl 0 0).till) ∧
    ((one.setVd 0 { one.vd 0 with windowHeld := true }).vd 0).windowHeld = true := by
  refine ⟨?_, ?_, ?_⟩ <;> decide +kernel

/-- What the spill engine answers of a pool for a request: 0 served, 1 waits, 2 short. -/
def spillOf (s : State) : Nat :=
  match evictFor 0 (s.victims (.lane 0 0 0 false)) s with
  | .served _ => 0
  | .wait _ => 1
  | .short _ => 2
  | .fail _ _ => 3
/-- The oldest request of a lane of which another thread has everything, and is blocked too or is not. -/
def crowded (blocked : Bool) : State :=
  let b := { asks 0 with pend := { (asks 0).pend with freq := some { pool := .lane 0 0 0 false, want := 3, own := false, since := 10 } } }
  let b := { b with arch := { b.arch with frames := [newFrame 8 8 0 false false 0 (List.range 57)] } }
  { memS with agents := [(0, { asks 1024 with arch := { (asks 1024).arch with frames := [] } }), (1, if blocked then b else { b with pend := {} })] }

theorem met_ReturnsAndTimeouts_spill : ((crowded true).oldestBlocked (.lane 0 0 0 false)).map (·.1) = some 0 ∧ (1024 : Nat) ≤ 1024 ∧
    spillOf (crowded true) = 0 ∧ spillOf (crowded false) = 2 := by decide +kernel

/-- 08 R192, 13 R372: the words arrive in the queue; `rejoin` goes on and clears its join. -/
theorem test_returns : gives (.deferredResultReturn 0 5 .fixed) (put memS (opIn (.ready [5, 0]))) (fun t => q t 2 == [0, 5] &&
      (agentOf t).pend.ops == []) = true ∧
    gives (.rejoinTimeout 0) (clockS 4096) (fun t => (agentOf t).pend.rejoin == none && (agentOf t).arch.pc == 0x10008) = true ∧
    gives (.ctwaitTimeout 0) (waitingS 9 none) (fun t => (agentOf t).flt.entries.map (·.cause) == [0x17] && (agentOf t).arch.trapaddr == 0x8080) = true := by
  decide +kernel

/-- A shoot-down of device 0, context 3 under way, with translations of two contexts held. -/
def invS : State :=
  let e (ctx : Nat) : TlbEnt := { vd := 0, ctx, page := 8, pa := 0x8000, w := true, x := true, rmt := none, w2 := true, x2 := true, lg := 12 }
  { memS with tlb := [e 0, e 3], x := { memS.x with invRun := [(0, some 3, none)] } }

theorem met_DeviceRegisters : memS.used 0 0 = 0 ∧ ({ memS.setCtx 0 0 { memS.ctx 0 0 with tilePages := [(0, [(4, 0)])] } with run := {} } : State).used 0 0 ≠ 0 ∧
    invS.x.invRun ≠ [] ∧ invS.invWaits = false ∧ (0, theAgent) ∈ one.agents ∧
    (theAgent.id.seq = false ∧ theAgent.pos.out = false ∧ theAgent.pos.core = 0 ∧ theAgent.pos.pip = 0 ∧ theAgent.pos.lane = 0) ∧
    heldReg theAgent.arch.frames 15 = some (0, 15, 0) ∧ (∀ e, e ∈ one.agents → e = (0, theAgent)) ∧
    (∀ e, e ∈ one.agents → heldReg e.2.arch.frames 16 = none) := by
  refine ⟨?_, ?_, ?_, ?_, ?_, ?_, ?_, ?_, ?_⟩ <;> decide +kernel

/-- 03 R66, 08 R219, R201: a register written and read; the shoot-down drops context 3 alone; a debug read. -/
theorem test_device_registers : gives (.registerWrite (.xdie 0x3008) (2 ^ 64 - 1)) memS (fun t => t.regRead 0x3008 == 2 ^ 52 - 1) = true ∧
    gives .shootdownComplete invS (fun t => t.tlb.map (·.ctx) == [0] && t.x.invRun == []) = true ∧
    gives (.debugRegisterRead 0 0 0 15) (put one (withRegs (List.replicate 15 0 ++ [77]))) (fun t => t.run.out == [.debugReg true 77 0 0 15]) = true := by
  decide +kernel

end Sys2Proof.Tests
end

namespace Sys2Proof.Machine

/-- Settles O35: every listed field is a default of `State`, and an empty memory is in canonical form. -/
theorem resetState : Obligations.ResetState := by
  unfold Obligations.ResetState
  refine ⟨rfl, rfl, rfl, rfl, rfl, rfl, rfl, rfl, rfl, rfl, rfl, rfl, rfl, rfl, rfl, rfl, rfl, rfl, rfl, fun _ => rfl, fun _ => rfl, fun _ => rfl, fun _ => ⟨rfl, rfl, rfl⟩, reset_memWf⟩

/-! Bits of a number, and entries of a table. -/

theorem bitAt_eq_testBit (x i : Nat) : bitAt x i = x.testBit i := by
  rw [bitAt, Nat.testBit_eq_decide_div_mod_eq, Bool.beq_eq_decide_eq]

theorem mem_upFrom {n : Nat} : ∀ {a k : Nat}, k ∈ upFrom a n ↔ a ≤ k ∧ k < a + n := by
  induction n with
  | zero => intro a k; simp only [upFrom, List.not_mem_nil, false_iff]; omega
  | succ n ih => intro a k; simp only [upFrom, List.mem_cons, ih]; omega

/-- Every entry of a table changed is every entry read changed, where an absent one stands for one that stays. -/
theorem tgetD_tmap {α β : Type} (f : α → β) (g : Nat → α → α) (t : Tab α) (i : Nat) (d : α) (h : ∀ x, f (g i x) = f x) :
    f (tgetD (tmap t g) i d) = f (tgetD t i d) := by
  rw [tgetD, tgetD, tget_tmap]
  cases tget t i with
  | none => rfl
  | some x => exact h x

@[simp] theorem die_setDie_self (s : State) (d : Nat) (x : Die) : (s.setDie d x).die d = x := tgetD_tset_self _ _ _ _

theorem die_setDie (s : State) (d e : Nat) (x : Die) : (s.setDie d x).die e = if e = d then x else s.die e :=
  tgetD_tset _ _ _ _ _

/-! What traffic on its way to memory leaves as it is: it changes what the slices hold, the regulators' counts and the free
values, and sends snoops (01 R22, 02 R48, 03 R76). -/

/-- Nothing but the slices, the devices' counts and the model's own data differ. -/
def Passes (s t : State) : Prop := t = { s with sideCache := t.sideCache, run := t.run, vds := t.vds }

theorem Passes.refl (s : State) : Passes s s := rfl

theorem Passes.trans {s t u : State} (h : Passes s t) (k : Passes t u) : Passes s u := by
  unfold Passes at *
  rw [k, h]

section
variable {s t : State} (h : Passes s t)
include h

theorem Passes.mem : t.mem = s.mem := (congrArg State.mem h).trans rfl
theorem Passes.dies : t.dies = s.dies := (congrArg State.dies h).trans rfl
theorem Passes.pkg : t.pkg = s.pkg := (congrArg State.pkg h).trans rfl
theorem Passes.x : t.x = s.x := (congrArg State.x h).trans rfl
theorem Passes.faulty : t.faulty = s.faulty := (congrArg State.faulty h).trans rfl
theorem Passes.tlb : t.tlb = s.tlb := (congrArg State.tlb h).trans rfl
theorem Passes.die (d : Nat) : t.die d = s.die d := by rw [State.die, h.dies, State.die]

end

theorem accessLine_passes (s : State) (vd : Option Nat) (d line : Nat) (wr : Bool) :
    Passes s (s.accessLine vd d line wr).2 := by
  unfold State.accessLine
  split
  · cases wr <;> rfl
  · split <;> rfl

theorem accessLines_passes (vd : Option Nat) (d : Nat) (wr : Bool) (n : Nat) :
    ∀ (s : State) (line : Nat), Passes s (s.accessLines vd d wr line n).2 := by
  induction n with
  | zero => exact fun _ _ => rfl
  | succ n ih => exact fun s line => (accessLine_passes s vd d line wr).trans (ih _ _)

theorem accessMem_passes (s : State) (vd : Option Nat) (pa n : Nat) (wr : Bool) : Passes s (s.accessMem vd pa n wr).2 :=
  accessLines_passes _ _ _ _ _ _

theorem passMem_passes (s : State) (vd : Nat) (c : Bool) (pa n : Nat) (wr : Bool) : Passes s (s.passMem vd c pa n wr) := by
  have h := accessMem_passes s (some vd) pa n wr
  unfold State.passMem
  dsimp only
  split
  · exact h
  · exact h.trans rfl

theorem passLines_passes (l : List (Nat × Nat × Bool)) : ∀ s : State, Passes s (s.passLines l) := by
  induction l with
  | nil => exact fun _ => rfl
  | cons e l ih => exact fun s => (accessMem_passes s none e.1 e.2.1 e.2.2).trans (ih _)

/-! Bytes of memory copied and filled. -/

theorem memGet_eq_tget (m : List Host.Cell) (a : Nat) : memGet m a = (tget m a).getD 0 := by
  induction m with
  | nil => rfl
  | cons e t ih =>
    obtain ⟨k, v⟩ := e
    simp only [memGet, tget]
    split
    · rfl
    · exact ih

theorem tget_filter_key {α : Type} (p : Nat → Bool) (t : Tab α) (i : Nat) :
    tget (t.filter fun e => p e.1) i = if p i then tget t i else none := by
  induction t with
  | nil => simp [tget]
  | cons e t ih =>
    obtain ⟨k, v⟩ := e
    simp only [List.filter_cons, tget]
    by_cases hk : i = k
    · subst hk
      by_cases hp : p i = true <;> simp [hp, tget, ih]
    · split <;> simp [tget, hk, ih]

theorem tget_eq_none_of_lt {α : Type} {t : Tab α} {i : Nat} (h : ∀ e ∈ t, i < e.1) : tget t i = none := by
  induction t with
  | nil => rfl
  | cons e t ih =>
    obtain ⟨k, v⟩ := e
    have hk : i < k := h _ List.mem_cons_self
    rw [tget, if_neg (by omega), ih fun e he => h e (List.mem_cons_of_mem _ he)]

theorem memGet_filter_key (p : Nat → Bool) (m : List Host.Cell) (a : Nat) :
    memGet (m.filter fun c => p c.1) a = if p a then memGet m a else 0 := by
  rw [memGet_eq_tget, tget_filter_key, memGet_eq_tget]
  split <;> rfl

theorem memGet_memZero (m : List Host.Cell) (a n c : Nat) :
    memGet (memZero m a n) c = if a ≤ c ∧ c < a + n then 0 else memGet m c := by
  rw [memZero, memGet_filter_key fun k => !(decide (a ≤ k) && decide (k < a + n))]
  by_cases h : a ≤ c ∧ c < a + n <;> simp [h]

/-- Cells put at other addresses change nothing at one. -/
theorem memGet_foldl_memIns_ne (g : Host.Cell → Nat) (a : Nat) (l : List Host.Cell) :
    ∀ m : List Host.Cell, (∀ c ∈ l, g c ≠ a) → memGet (l.foldl (fun m c => memIns m (g c) c.2) m) a = memGet m a := by
  induction l with
  | nil => exact fun _ _ => rfl
  | cons c l ih =>
    intro m h
    rw [List.foldl_cons, ih _ fun d hd => h d (List.mem_cons_of_mem _ hd), memGet_memIns,
      if_neg (Ne.symm (h c List.mem_cons_self))]

/-- Cells of rising addresses from `src` upward, put as far from `dst`. -/
theorem memGet_foldl_memIns_shift (src dst a : Nat) (ha : dst ≤ a) (l : List Host.Cell) :
    ∀ m : List Host.Cell, l.Pairwise (fun x y => x.1 < y.1) → (∀ c ∈ l, src ≤ c.1) →
      memGet (l.foldl (fun m c => memIns m (c.1 - src + dst) c.2) m) a = (tget l (a - dst + src)).getD (memGet m a) := by
  induction l with
  | nil => exact fun _ _ _ => rfl
  | cons c l ih =>
    intro m hp hs
    obtain ⟨k, v⟩ := c
    obtain ⟨hk, hp⟩ := List.pairwise_cons.1 hp
    have hsrc : src ≤ k := hs _ List.mem_cons_self
    rw [List.foldl_cons, ih _ hp fun d hd => hs d (List.mem_cons_of_mem _ hd), memGet_memIns, tget]
    by_cases he : a - dst + src = k
    · rw [if_pos he, if_pos (by dsimp only; omega), tget_eq_none_of_lt fun d hd => by have := hk d hd; dsimp only at this; omega]
      rfl
    · rw [if_neg he, if_neg (by dsimp only; omega)]

theorem memGet_memCopy {m : List Host.Cell} (h : Memory.wf m = true) (src dst n a : Nat) :
    memGet (memCopy m src dst n) a = if dst ≤ a ∧ a < dst + n then memGet m (a - dst + src) else memGet m a := by
  unfold memCopy
  by_cases ha : dst ≤ a
  · rw [memGet_foldl_memIns_shift src dst a ha _ _ (((wf_iff m).1 h).1.filter _) fun c hc => by
        have := (List.mem_filter.1 hc).2; simp at this; omega,
      tget_filter_key fun k => decide (src ≤ k) && decide (k < src + n), memGet_memZero, memGet_eq_tget m (a - dst + src)]
    by_cases hn : a < dst + n
    · rw [if_pos (by simp; omega), if_pos ⟨ha, hn⟩, if_pos ⟨ha, hn⟩]
    · rw [if_neg (by simp; omega), if_neg (by omega), if_neg (by omega)]
      rfl
  · rw [memGet_foldl_memIns_ne _ _ _ _ fun c _ => by omega, memGet_memZero, if_neg (by omega), if_neg (by omega)]

theorem mem_fillCells {c : Host.Cell} : ∀ {n a f : Nat}, c ∈ fillCells a n f → a ≤ c.1 ∧ c.1 < a + n := by
  intro n
  induction n with
  | zero => intro a f h; simp [fillCells] at h
  | succ n ih =>
    intro a f h
    have later (k : c ∈ fillCells (a + 1) n (f / 256)) : a ≤ c.1 ∧ c.1 < a + (n + 1) := by have := ih k; omega
    simp only [fillCells] at h
    split at h
    · simp at h
    · split at h
      · exact later h
      · rcases List.mem_cons.1 h with rfl | h
        · dsimp only; omega
        · exact later h

theorem memGet_memFill_of_not_mem (m : List Host.Cell) (a n f c : Nat) (h : c < a ∨ a + n ≤ c) :
    memGet (memFill m a n f) c = memGet m c := by
  rw [memFill, memGet_foldl_memIns_ne _ _ _ _ fun d hd => by have := mem_fillCells hd; omega, memGet_memZero,
    if_neg (by omega)]

/-! Numbers in memory. -/

theorem memGets_length (m : List Host.Cell) (a n : Nat) : (memGets m a n).length = n := by rw [memGets_eq]; simp

theorem bytesOf_length (n : Nat) : ∀ x : Nat, (bytesOf x n).length = n := by
  induction n with
  | zero => exact fun _ => rfl
  | succ n ih => exact fun x => by rw [bytesOf, List.length_cons, ih]

theorem ofBytes_bytesOf (n : Nat) : ∀ x : Nat, ofBytes (bytesOf x n) = x % 256 ^ n := by
  induction n with
  | zero => intro x; simp [bytesOf, ofBytes, Nat.mod_one]
  | succ n ih =>
    intro x
    rw [bytesOf, ofBytes, ih, BitVec.toNat_ofNat, Nat.pow_succ' (m := 256)]
    exact Nat.mod_mul.symm

theorem ofBytes_lt (l : List Byte) : ofBytes l < 256 ^ l.length := by
  induction l with
  | nil => simp [ofBytes]
  | cons b l ih =>
    have := b.isLt
    rw [ofBytes, List.length_cons, Nat.pow_succ]
    omega

theorem getNat_lt (s : State) (a n : Nat) : s.getNat (.mem a) n < 256 ^ n := by
  have h := ofBytes_lt (memGets s.mem a n)
  rwa [memGets_length] at h

/-- A number is read as its bytes are. -/
theorem getNat_congr {s t : State} {a n : Nat} (h : ∀ k, k < n → t.getByte (.mem (a + k)) = s.getByte (.mem (a + k))) :
    t.getNat (.mem a) n = s.getNat (.mem a) n := by
  simp only [State.getNat, State.getBytes, memGets_eq]
  exact congrArg ofBytes (List.map_congr_left fun k hk => h k (List.mem_range.1 hk))

theorem getNat_putBytes (s : State) (a n x : Nat) : (s.putBytes (.mem a) (bytesOf x n)).getNat (.mem a) n = x % 256 ^ n := by
  have h := memGets_memPuts s.mem a (bytesOf x n)
  rw [bytesOf_length] at h
  rw [State.getNat, State.getBytes, State.putBytes_mem_mem, h, ofBytes_bytesOf]

/-! What reaches a physical address: the home map, the dies that are there, and the lines with errors (01 R13, R22, R25). -/

/-- Every address is homed, there and sound in one state as in the other. -/
def SameReach (s t : State) : Prop := t.pkg = s.pkg ∧ t.faulty = s.faulty ∧ ∀ d, (t.die d).lost = (s.die d).lost

theorem SameReach.trans {s t u : State} (h : SameReach s t) (k : SameReach t u) : SameReach s u :=
  ⟨k.1.trans h.1, k.2.1.trans h.2.1, fun d => (k.2.2 d).trans (h.2.2 d)⟩

theorem Passes.reach {s t : State} (h : Passes s t) : SameReach s t := ⟨h.pkg, h.faulty, fun d => by rw [h.die]⟩

theorem homeDie_congr {s t : State} (h : t.pkg = s.pkg) (pa : Nat) : t.homeDie pa = s.homeDie pa := by
  cases s; cases t; cases h; rfl

theorem SameReach.physGone {s t : State} (h : SameReach s t) (pa n : Nat) : t.physGone pa n = s.physGone pa n := by
  simp only [State.physGone, State.isFaulty, homeDie_congr h.1, h.2.1, h.2.2]

theorem Passes.physFail {s t : State} (h : Passes s t) (vd pa n : Nat) : t.physFail vd pa n = s.physFail vd pa n := by
  rw [show t = _ from h]
  rfl

theorem Passes.getNat {s t : State} (h : Passes s t) (a n : Nat) : t.getNat (.mem a) n = s.getNat (.mem a) n := by
  rw [State.getNat, State.getBytes, h.mem]
  rfl

theorem written_reach (s : State) (l : Loc) (n : Nat) : SameReach s (s.written l n) :=
  ⟨rfl, rfl, fun d => tgetD_tmap Die.lost (fun _ x => { x with migs := tmap x.migs fun _ m => logBlocks l n m }) s.dies d {} fun _ => rfl⟩

theorem write_reach (s : State) (l : Loc) (bs : List Byte) : SameReach s (s.write l bs) :=
  SameReach.trans (t := s.putBytes l bs) (by cases l <;> exact ⟨rfl, rfl, fun _ => rfl⟩) (written_reach _ _ _)

theorem setDie_reach (s : State) (d : Nat) (x : Die) (h : x.lost = (s.die d).lost) : SameReach s (s.setDie d x) :=
  ⟨rfl, rfl, fun e => by rw [die_setDie]; split <;> simp_all⟩

/-! Lines the host holds (02 R48). -/

theorem linesWait_eq_none {s : State} {l : List (Nat × Nat × Bool)}
    (h : ∀ e ∈ l, s.snoopNeeded [(.mem e.1, e.2.1)] e.2.2 = none) : s.linesWait l = none := by
  rw [State.linesWait, List.findSome?_eq_none_iff]
  intro e he
  simp only [h e he, Option.map_none]

@[simp] theorem deadLine_false (w : Option Nat) (pa n : Nat) : deadLine w false pa n = false := rfl

/-! The engines of the F-dies (01 R18 to R21): the slots of an engine, and what the parts of a move write. -/

/-- The move that a record at a place of a ring asks for. -/
def MovRec.mig (r : MovRec) (die at0 phase status : Nat) : Mig :=
  { ring := die, recAt := at0, pgsz := r.pgsz, vd := r.vd, src := r.src, dst := r.dst, leaf := r.leaf, ctr := r.ctr
    phase, log := [], status }

theorem die_takeMove (s : State) (die i : Nat) (m : Mig) : ((s.takeMove die i m).die die).ringHead = ((s.die die).ringHead + 1) % 256 ∧
    tget ((s.takeMove die i m).die die).migs i = some m := by
  simp [State.takeMove]

theorem migs_setMig (s : State) (die i : Nat) (m : Mig) : tget ((s.setMig die i m).die die).migs i = some m := by simp

/-- The next command of a ring, its record readable or out of reach, is taken with the status its check gives, or copied. -/
theorem execMove_taken {s : State} {die i : Nat} {gone : Bool} (hlo : 8 ≤ die) (hhi : die < 12)
    (hslot : (s.die die).freeSlot = some i) (hring : (s.die die).ringHead % 256 ≠ (s.die die).ringTail % 256)
    (hstop : s.pkg.stopped = false) (hdead : (s.die die).ringDead = false) {at0 : Nat}
    (hat : (s.die die).ringBase + 64 * ((s.die die).ringHead % 256) = at0) (hgone : s.physGone at0 64 = gone)
    (hfree : gone = false → s.snoopNeeded [(.mem at0, 64)] false = none) {r : MovRec}
    (hr : movRecOf (if gone then 0 else s.getNat (.mem at0) 64) = r)
    (hshare : ∀ k m, (k, m) ∈ (s.die die).migs → sharesPage r m = false) :
    ∃ t, Passes s t ∧
      (∀ st, s.movStatus r = some st → exec (.move die) s = .next (t.takeMove die i (r.mig die at0 3 st))) ∧
      (s.movStatus r = none → s.snoopNeeded [(.mem r.src, pageBytes r.pgsz)] false = none →
        s.snoopNeeded [(.mem r.dst, pageBytes r.pgsz)] true = none →
        exec (.move die) s = .next (((t.copyPage r.vd r.src r.dst (pageBytes r.pgsz)).written (.mem r.dst)
          (pageBytes r.pgsz)).takeMove die i (r.mig die at0 1 0))) := by
  have hgo : ¬(die < 8 ∨ 12 ≤ die ∨ (s.die die).ringHead % 256 = (s.die die).ringTail % 256 ∨ s.pkg.stopped = true) := by
    simp [hring, hstop]; omega
  have hline : (if gone then none else s.linesWait [(at0, 64, false)]) = none := by
    cases gone
    · exact linesWait_eq_none fun e he => by obtain rfl := List.mem_singleton.1 he; exact hfree rfl
    · rfl
  have hany : ((s.die die).migs.any fun x => sharesPage r x.2) = false :=
    List.any_eq_false.2 fun x hx => by simp [hshare x.1 x.2 hx]
  have hp : Passes s (if gone then s else s.passLines [(at0, 64, false)]) := by
    cases gone
    · exact passLines_passes _ s
    · exact Passes.refl s
  refine ⟨_, hp, fun st hst => ?_, fun hst h1 h2 => ?_⟩
  · show execMove die s = _
    simp only [execMove, hslot, if_neg hgo, hat, hgone, hdead, deadLine_false, Bool.or_false, hline, hr, hany, hst]
    rfl
  · have hpages : s.linesWait [(r.src, pageBytes r.pgsz, false), (r.dst, pageBytes r.pgsz, true)] = none :=
      linesWait_eq_none fun e he => by
        rcases List.mem_cons.1 he with rfl | he
        · exact h1
        · obtain rfl := List.mem_singleton.1 he; exact h2
    show execMove die s = _
    simp only [execMove, hslot, if_neg hgo, hat, hgone, hdead, deadLine_false, Bool.or_false, hline, hr, hany, hst, hpages]
    rfl

theorem getByte_copyPage {s : State} (h : Memory.wf s.mem = true) (vd src dst n a : Nat) :
    (s.copyPage vd src dst n).getByte (.mem a) =
      s.getByte (.mem (if dst ≤ a ∧ a < dst + n then a - dst + src else a)) := by
  have hm : ((s.passMem vd true src n false).passMem vd true dst n true).mem = s.mem :=
    (passMem_passes _ _ _ _ _ _).mem.trans (passMem_passes _ _ _ _ _ _).mem
  rw [State.getByte, State.copyPage, hm, memGet_memCopy h]
  split <;> rfl

theorem copyPage_reach (s : State) (vd src dst n : Nat) : SameReach s (s.copyPage vd src dst n) :=
  ((passMem_passes s vd true src n false).trans (passMem_passes _ vd true dst n true)).reach.trans ⟨rfl, rfl, fun _ => rfl⟩

theorem copyPage_mem_wf {s : State} (h : Memory.wf s.mem = true) (vd src dst n : Nat) :
    Memory.wf (s.copyPage vd src dst n).mem = true := by
  have hm : ((s.passMem vd true src n false).passMem vd true dst n true).mem = s.mem :=
    (passMem_passes _ _ _ _ _ _).mem.trans (passMem_passes _ _ _ _ _ _).mem
  rw [State.copyPage, hm]
  exact memCopy_wf _ _ _ h

theorem leafMaps_iff (s : State) (m : Mig) (k : Nat) : s.leafMaps m k = true ↔
    s.physFail m.vd (m.leaf + 8 * k) 8 = none ∧ (s.getNat (.mem (m.leaf + 8 * k)) 8).testBit 0 = true ∧
      (s.getNat (.mem (m.leaf + 8 * k)) 8).testBit 3 = true ∧ (s.getNat (.mem (m.leaf + 8 * k)) 8).testBit 5 = false ∧
      s.getNat (.mem (m.leaf + 8 * k)) 8 / 2 ^ 12 % 2 ^ 40 * 4096 = m.src + 4096 * k ∧
      (m.pgsz = 1 → (s.getNat (.mem (m.leaf + 8 * k)) 8).testBit 4 = true) := by
  simp only [State.leafMaps, bitAt_eq_testBit, bits, Bool.and_eq_true, Bool.or_eq_true, Bool.not_eq_true', Option.isNone_iff_eq_none,
    beq_iff_eq, bne_iff_ne, and_assoc, ne_eq, ← Decidable.imp_iff_not_or]

theorem Passes.leafMaps {s t : State} (h : Passes s t) (m : Mig) (k : Nat) : t.leafMaps m k = s.leafMaps m k := by
  rw [show t = _ from h]
  rfl

theorem all_leafMaps_iff (s : State) (m : Mig) :
    ((upFrom 0 (leavesOf m)).all fun k => s.leafMaps m k) = true ↔ ∀ k, k < leavesOf m → s.leafMaps m k = true := by
  simp [List.all_eq_true, mem_upFrom]

section
variable {s : State} {die i : Nat} {m : Mig} (hm : tget (s.die die).migs i = some m)
include hm

theorem migrationPhase2_absent (h1 : m.phase = 1) (hv : (s.vd m.vd).st = .absent ∨ (s.vd m.vd).st = .destroying) :
    exec (.migrationPhase2 die i) s = .next (s.setMig die i (m.over 7)) := by
  show execMigrationPhase2 die i s = _
  simp only [execMigrationPhase2, hm, h1, ne_eq, not_true, if_false, if_pos hv]

variable (h1 : m.phase = 1) (hv : ¬((s.vd m.vd).st = .absent ∨ (s.vd m.vd).st = .destroying))
include h1 hv

theorem migrationPhase2_broken (hb : s.moveBroken m = true) :
    exec (.migrationPhase2 die i) s = .next (s.breakMove die i m) := by
  show execMigrationPhase2 die i s = _
  simp only [execMigrationPhase2, hm, h1, ne_eq, not_true, if_false, if_neg hv, hb, if_true]

variable (hb : s.moveBroken m = false)
include hb

theorem migrationPhase2_disowned (ho : ¬(s.pageOk m.vd m.src = true ∧ s.pageOk m.vd m.dst = true)) :
    exec (.migrationPhase2 die i) s = .next (s.setMig die i (m.over 4)) := by
  have ho : (!s.pageOk m.vd m.src) = true ∨ (!s.pageOk m.vd m.dst) = true := by
    rwa [Bool.not_eq_true', Bool.not_eq_true', ← Bool.not_eq_true, ← Bool.not_eq_true, ← Decidable.not_and_iff_not_or_not]
  show execMigrationPhase2 die i s = _
  simp only [execMigrationPhase2, hm, h1, ne_eq, not_true, if_false, if_neg hv, hb, Bool.false_eq_true, if_pos ho]

/-- The page's leaves are read on their way through the slices; whether they map the page is as it was before. -/
theorem migrationPhase2_leaves (ho : s.pageOk m.vd m.src = true ∧ s.pageOk m.vd m.dst = true) (hd : m.dead = false)
    (hl : s.snoopNeeded [(.mem m.leaf, 8 * leavesOf m)] false = none) : ∃ t, Passes s t ∧
    exec (.migrationPhase2 die i) s = .next (if ∀ k, k < leavesOf m → s.leafMaps m k = true then
      State.setMig { t with tlb := t.tlb.filter fun e => !(e.rmt.isNone && decide (m.src < e.pa + 2 ^ e.lg) &&
        decide (e.pa < m.src + pageBytes m.pgsz)) } die i { m with phase := 2 } else t.setMig die i (m.over 5)) := by
  have hp := passMem_passes s m.vd true m.leaf (8 * leavesOf m) false
  have hw : s.linesWait [(m.leaf, 8 * leavesOf m, false)] = none :=
    linesWait_eq_none fun e he => by obtain rfl := List.mem_singleton.1 he; exact hl
  refine ⟨_, hp, ?_⟩
  show execMigrationPhase2 die i s = _
  have hall := all_leafMaps_iff s m
  simp only [execMigrationPhase2, hm, h1, ne_eq, not_true, if_false, if_neg hv, hb, Bool.false_eq_true, ho.1, ho.2, Bool.not_true,
    or_self, hd, deadLine_false, hw, hp.leafMaps]
  by_cases hk : ∀ k, k < leavesOf m → s.leafMaps m k = true
  · rw [if_pos hk, hall.2 hk]; rfl
  · rw [if_neg hk, Bool.eq_false_iff.2 fun h => hk (hall.1 h)]; rfl

end

theorem breakMove_mem (s : State) (die i : Nat) (m : Mig) :
    ∃ f, (s.breakMove die i m).mem = memFill s.mem m.dst (pageBytes m.pgsz) f := ⟨_, rfl⟩

theorem migs_breakMove (s : State) (die i : Nat) (m : Mig) :
    tget ((s.breakMove die i m).die die).migs i = some { m with phase := 3, status := 6 } := migs_setMig _ _ _ _

/-! The end of a move. -/

theorem pageBytes_mod (p : Nat) : pageBytes p % 4096 = 0 := by
  unfold pageBytes
  split
  · rfl
  · split <;> rfl

/-- Blocks of a page copied again one after the other: of each of them the bytes of SRC. -/
theorem getByte_recopied {src dst n vd a : Nat} (hn : n % 4096 = 0) (hsd : src + n ≤ dst ∨ dst + n ≤ src) (l : List Nat) :
    ∀ s : State, Memory.wf s.mem = true → (∀ b ∈ l, 4096 * b < n) →
      (l.foldl (fun s b => s.copyPage vd (src + 4096 * b) (dst + 4096 * b) 4096) s).getByte (.mem a) =
        s.getByte (.mem (if dst ≤ a ∧ a < dst + n ∧ (a - dst) / 4096 ∈ l then a - dst + src else a)) := by
  induction l with
  | nil => intro s _ _; simp
  | cons b l ih =>
    intro s h hl
    have hb : 4096 * b < n := hl b List.mem_cons_self
    rw [List.foldl_cons, ih _ (copyPage_mem_wf h _ _ _ _) fun c hc => hl c (List.mem_cons_of_mem _ hc), getByte_copyPage h]
    congr 2
    by_cases hm : dst ≤ a ∧ a < dst + n ∧ (a - dst) / 4096 ∈ l
    · have hm' : dst ≤ a ∧ a < dst + n ∧ (a - dst) / 4096 ∈ b :: l := ⟨hm.1, hm.2.1, List.mem_cons_of_mem _ hm.2.2⟩
      rw [if_pos hm, if_pos hm', if_neg (by omega)]
    · rw [if_neg hm]
      by_cases he : dst + 4096 * b ≤ a ∧ a < dst + 4096 * b + 4096
      · have hb' : (a - dst) / 4096 = b := by omega
        rw [if_pos he, if_pos ⟨by omega, by omega, hb' ▸ List.mem_cons_self⟩]; omega
      · rw [if_neg he, if_neg]
        rintro ⟨h1, h2, h3⟩
        rcases List.mem_cons.1 h3 with h3 | h3
        · omega
        · exact hm ⟨h1, h2, h3⟩

theorem getByte_recopy {s : State} (h : Memory.wf s.mem = true) {m : Mig}
    (hsd : m.src + pageBytes m.pgsz ≤ m.dst ∨ m.dst + pageBytes m.pgsz ≤ m.src) (a : Nat) :
    (s.recopy m).getByte (.mem a) = s.getByte (.mem
      (if m.dst ≤ a ∧ a < m.dst + pageBytes m.pgsz ∧ (a - m.dst) / 4096 ∈ m.log then a - m.dst + m.src else a)) := by
  rw [State.recopy, getByte_recopied (pageBytes_mod _) hsd _ _ h fun b hb => by simpa using (List.mem_filter.1 hb).2]
  congr 2
  refine ite_congr (propext (and_congr_right fun h1 => and_congr_right fun h2 => ?_)) (fun _ => rfl) fun _ => rfl
  rw [List.mem_filter, decide_eq_true_eq]
  exact and_iff_left (by omega)

theorem recopy_reach (s : State) (m : Mig) : SameReach s (s.recopy m) := by
  unfold State.recopy
  generalize m.log.filter _ = l
  induction l generalizing s with
  | nil => exact ⟨rfl, rfl, fun _ => rfl⟩
  | cons b l ih => exact (copyPage_reach s _ _ _ _).trans (ih _)

theorem getByte_write_mem (s : State) (a c : Nat) (bs : List Byte) (h : c < a ∨ a + bs.length ≤ c) :
    (s.write (.mem a) bs).getByte (.mem c) = s.getByte (.mem c) := getByte_putBytes_mem s a c bs h

theorem getNat_write_mem (s : State) (a n x : Nat) : (s.write (.mem a) (bytesOf x n)).getNat (.mem a) n = x % 256 ^ n :=
  getNat_putBytes s a n x

/-- A leaf entry with another page number. -/
theorem setBits_page {e : Nat} (h : e < 2 ^ 64) (v : Nat) :
    setBits e 12 40 v % 256 ^ 8 = e % 2 ^ 12 + v % 2 ^ 40 * 2 ^ 12 + e / 2 ^ 52 * 2 ^ 52 := by
  simp only [setBits, bits]
  omega

/-- What the first leaves of a move come to, and that nothing else is written. -/
theorem moveLeaves_mem (s : State) (m : Mig) : ∀ k,
    (∀ a, a < m.leaf ∨ m.leaf + 8 * k ≤ a → (s.moveLeaves m k).getByte (.mem a) = s.getByte (.mem a)) ∧
    ∀ j, j < k → (s.moveLeaves m k).getNat (.mem (m.leaf + 8 * j)) 8 =
      setBits (s.getNat (.mem (m.leaf + 8 * j)) 8) 12 40 ((m.dst + 4096 * j) / 4096) % 256 ^ 8 := by
  intro k
  induction k with
  | zero => exact ⟨fun _ _ => rfl, fun j hj => absurd hj (by omega)⟩
  | succ k ih =>
    obtain ⟨hrest, hleaf⟩ := ih
    have hp := passMem_passes (s.moveLeaves m k) m.vd true (m.leaf + 8 * k) 8 true
    have hb (a : Nat) : ((s.moveLeaves m k).passMem m.vd true (m.leaf + 8 * k) 8 true).getByte (.mem a) =
        (s.moveLeaves m k).getByte (.mem a) := by rw [State.getByte, hp.mem]; rfl
    have hout (a : Nat) (ha : a < m.leaf + 8 * k ∨ m.leaf + 8 * k + 8 ≤ a) :
        (s.moveLeaves m (k + 1)).getByte (.mem a) = (s.moveLeaves m k).getByte (.mem a) := by
      rw [State.moveLeaves, getByte_write_mem _ _ _ _ (by rwa [bytesOf_length]), hb]
    refine ⟨fun a ha => (hout a (by omega)).trans (hrest a (by omega)), fun j hj => ?_⟩
    by_cases hjk : j = k
    · subst hjk
      rw [State.moveLeaves, getNat_write_mem, getNat_congr fun i hi => hrest _ (by omega)]
    · rw [getNat_congr fun i hi => hout _ (by omega), hleaf j (by omega)]

theorem moveLeaves_reach (s : State) (m : Mig) : ∀ k, SameReach s (s.moveLeaves m k) := by
  intro k
  induction k with
  | zero => exact ⟨rfl, rfl, fun _ => rfl⟩
  | succ k ih => exact ih.trans ((passMem_passes _ _ _ _ _ _).reach.trans (write_reach _ _ _))

theorem finishMove_reach (s : State) (m : Mig) : SameReach s (s.finishMove m) :=
  ((recopy_reach s m).trans (moveLeaves_reach _ m _)).trans ⟨rfl, rfl, fun _ => rfl⟩

/-- Where SRC, DST and LEAF lie apart: DST comes to hold the logged blocks, each leaf to name its part of DST. -/
theorem finishMove_mem {s : State} (h : Memory.wf s.mem = true) {m : Mig}
    (hsd : m.src + pageBytes m.pgsz ≤ m.dst ∨ m.dst + pageBytes m.pgsz ≤ m.src)
    (hld : m.leaf + 8 * leavesOf m ≤ m.dst ∨ m.dst + pageBytes m.pgsz ≤ m.leaf) :
    (∀ j, j < pageBytes m.pgsz → (s.finishMove m).getByte (.mem (m.dst + j)) =
      s.getByte (.mem (if j / 4096 ∈ m.log then m.src + j else m.dst + j))) ∧
    (∀ j, j < leavesOf m → ∀ e, s.getNat (.mem (m.leaf + 8 * j)) 8 = e → (s.finishMove m).getNat (.mem (m.leaf + 8 * j)) 8 =
      e % 2 ^ 12 + (m.dst / 4096 + j) % 2 ^ 40 * 2 ^ 12 + e / 2 ^ 52 * 2 ^ 52) ∧
    ∀ a, a < m.dst ∨ m.dst + pageBytes m.pgsz ≤ a → ¬(m.leaf ≤ a ∧ a < m.leaf + 8 * leavesOf m) →
      (s.finishMove m).getByte (.mem a) = s.getByte (.mem a) := by
  obtain ⟨hrest, hleaf⟩ := moveLeaves_mem (s.recopy m) m (leavesOf m)
  have hkeep (a : Nat) (ha : a < m.dst ∨ m.dst + pageBytes m.pgsz ≤ a) : (s.recopy m).getByte (.mem a) = s.getByte (.mem a) := by
    rw [getByte_recopy h hsd, if_neg (by omega)]
  refine ⟨fun j hj => (hrest _ (by omega)).trans ?_, fun j hj e he => (hleaf j hj).trans ?_, fun a ha hn =>
    (hrest a (by omega)).trans (hkeep a ha)⟩
  · rw [getByte_recopy h hsd, Nat.add_sub_cancel_left]
    congr 2
    by_cases hl : j / 4096 ∈ m.log
    · rw [if_pos ⟨by omega, by omega, hl⟩, if_pos hl, Nat.add_comm]
    · rw [if_neg fun k => hl k.2.2, if_neg hl]
  · have hnat : (s.recopy m).getNat (.mem (m.leaf + 8 * j)) 8 = e :=
      (getNat_congr fun i hi => hkeep _ (by omega)).trans he
    have he : e < 2 ^ 64 := he ▸ getNat_lt s _ 8
    rw [hnat, setBits_page he, Nat.add_mul_div_left _ _ (by decide)]

/-! The completion of a command (01 R21). -/

/-- Bytes that a completion writes, where it does. -/
def State.putIf (b : Bool) (s : State) (pa : Nat) (bs : List Byte) : State :=
  if b then (s.passLines [(pa, bs.length, true)]).write (.mem pa) bs else s

theorem putIf_mem (b : Bool) (s : State) (pa : Nat) (bs : List Byte) :
    (s.putIf b pa bs).mem = if b then memPuts s.mem pa bs else s.mem := by
  have hm : (s.passLines [(pa, bs.length, true)]).mem = s.mem := (passLines_passes _ s).mem
  cases b
  · rfl
  · simp [State.putIf, hm]

theorem putIf_reach (b : Bool) (s : State) (pa : Nat) (bs : List Byte) : SameReach s (s.putIf b pa bs) := by
  cases b
  · exact ⟨rfl, rfl, fun _ => rfl⟩
  · exact (passLines_passes _ s).reach.trans (write_reach _ _ _)

/-- A write changes no slot of an engine from or to empty. -/
theorem putIf_migs_none {b : Bool} {s : State} {pa d i : Nat} {bs : List Byte} (h : tget (s.die d).migs i = none) :
    tget ((s.putIf b pa bs).die d).migs i = none := by
  cases b
  · exact h
  · have hd : ((s.passLines [(pa, bs.length, true)]).putBytes (.mem pa) bs).die d = s.die d := (passLines_passes _ s).die d
    have := tgetD_tmap (fun x : Die => (tget x.migs i).isNone)
      (fun _ x => { x with migs := tmap x.migs fun _ m => logBlocks (.mem pa) bs.length m })
      ((s.passLines [(pa, bs.length, true)]).putBytes (.mem pa) bs).dies d {} fun x => by simp
    exact Option.isNone_iff_eq_none.1 (this.trans (Option.isNone_iff_eq_none.2 (by
      rw [← State.die, hd]
      exact h)))

/-- What a command that ends does to its page. -/
def State.finished (s : State) (m : Mig) : State := if m.phase = 2 then s.finishMove m else s

theorem finished_reach (s : State) (m : Mig) : SameReach s (s.finished m) := by
  unfold State.finished
  split
  · exact finishMove_reach s m
  · exact ⟨rfl, rfl, fun _ => rfl⟩

theorem completeMove_eq (s : State) (die i : Nat) (m : Mig) : s.completeMove die i m =
    let s0 := (s.finished m).setDie die { (s.finished m).die die with migs := tdel ((s.finished m).die die).migs i }
    let s1 := s0.putIf (s0.putsStatus m) (m.recAt + 40) (bytesOf (if m.phase = 2 then 1 else m.status) 1)
    let s2 := s1.putIf (s1.putsCtr m) m.ctr (bytesOf (satAdd (s1.getNat (.mem m.ctr) 8) 1) 8)
    (s2.send (.pfMsix (die - 3))).retryHeld := rfl

/-- The memory a completion leaves, by what it writes where it can reach it. -/
theorem completeMove_spec (s : State) (die i : Nat) {m : Mig} (hd : m.dead = false) : ∃ (t : State) (p : OpSt → Bool),
    s.completeMove die i m = (t.send (.pfMsix (die - 3))).retry p ∧ (∀ o, p o = true ↔ o = .held) ∧
    tget (t.die die).migs i = none ∧
    (let st := if m.phase = 2 then 1 else m.status
     let w := if s.physGone (m.recAt + 40) 1 = true then s.finished m else (s.finished m).putBytes (.mem (m.recAt + 40)) (bytesOf st 1)
     t.mem = (if m.status = 2 ∨ s.physGone m.ctr 8 = true then w
       else w.putBytes (.mem m.ctr) (bytesOf (min (w.getNat (.mem m.ctr) 8 + 1) (2 ^ 64 - 1)) 8)).mem) := by
  let s0 := (s.finished m).setDie die { (s.finished m).die die with migs := tdel ((s.finished m).die die).migs i }
  let s1 := s0.putIf (s0.putsStatus m) (m.recAt + 40) (bytesOf (if m.phase = 2 then 1 else m.status) 1)
  have h0 : SameReach s s0 := (finished_reach s m).trans (setDie_reach _ _ _ rfl)
  have h1 : SameReach s s1 := h0.trans (putIf_reach _ _ _ _)
  have hst : s0.putsStatus m = !s.physGone (m.recAt + 40) 1 := by
    simp only [State.putsStatus, hd, deadLine_false, Bool.not_false, Bool.and_true, h0.physGone]
  have hct : s1.putsCtr m = !(m.status == 2 || s.physGone m.ctr 8) := by
    simp only [State.putsCtr, hd, deadLine_false, Bool.not_false, Bool.and_true, h1.physGone, Bool.not_or]; rfl
  refine ⟨_, _, completeMove_eq s die i m, fun o => beq_iff_eq, putIf_migs_none (putIf_migs_none ?_), ?_⟩
  · rw [die_setDie_self]; exact tget_tdel_self _ _
  · intro st w
    show (s1.putIf (s1.putsCtr m) m.ctr (bytesOf (satAdd (s1.getNat (.mem m.ctr) 8) 1) 8)).mem = _
    have hw : s1.mem = w.mem := by
      rw [show s1.mem = _ from putIf_mem _ _ _ _, hst]
      cases hg : s.physGone (m.recAt + 40) 1 <;> simp [w, hg, s0, st]
    have hn : s1.getNat (.mem m.ctr) 8 = w.getNat (.mem m.ctr) 8 := by simp only [State.getNat, State.getBytes, hw]
    rw [putIf_mem, hct, hn, hw, satAdd]
    by_cases hc : m.status = 2 ∨ s.physGone m.ctr 8 = true
    · rw [if_pos hc, if_neg (by simpa only [Bool.not_eq_true', Bool.or_eq_false_iff, beq_eq_false_iff_ne, ne_eq, Decidable.not_and_iff_not_or_not, Decidable.not_not, Bool.not_eq_false] using hc)]
    · rw [if_neg hc, if_pos (by simpa only [Bool.not_eq_true', Bool.or_eq_false_iff, beq_eq_false_iff_ne, not_or, Bool.not_eq_true] using hc)]; rfl

section
variable {s : State} {die i : Nat} {m : Mig} (hm : tget (s.die die).migs i = some m)
include hm

theorem migrationComplete_eq (h : m.phase = 2 ∨ m.phase = 3) : exec (.migrationComplete die i) s = .next (s.endMove die i m) := by
  have h : ¬(m.phase ≠ 2 ∧ m.phase ≠ 3) := by omega
  show execMigrationComplete die i s = _
  simp only [execMigrationComplete, hm, if_neg h]

theorem migrationComplete_broken (h : m.phase = 2) (hb : s.moveBroken m = true) :
    exec (.migrationComplete die i) s = .next (s.breakMove die i m) := by
  rw [migrationComplete_eq hm (.inl h)]
  simp [State.endMove, State.moveFails, h, hb]

theorem migrationComplete_disowned (h : m.phase = 2) (hb : s.moveBroken m = false) (hd : m.dead = false)
    (ho : ¬(s.pageOk m.vd m.src = true ∧ s.pageOk m.vd m.dst = true)) :
    exec (.migrationComplete die i) s = .next (s.setMig die i (m.over 4)) := by
  have ho : s.pageOk m.vd m.src = false ∨ s.pageOk m.vd m.dst = false := by
    rwa [← Bool.not_eq_true, ← Bool.not_eq_true, ← Decidable.not_and_iff_not_or_not]
  rw [migrationComplete_eq hm (.inl h)]
  simp [State.endMove, State.moveFails, h, hb, hd, ho]

theorem migrationComplete_leafless (h : m.phase = 2) (hb : s.moveBroken m = false) (hd : m.dead = false)
    (ho : s.pageOk m.vd m.src = true ∧ s.pageOk m.vd m.dst = true)
    (hl : ∃ k, k < leavesOf m ∧ s.physFail m.vd (m.leaf + 8 * k) 8 ≠ none) :
    exec (.migrationComplete die i) s = .next (s.setMig die i (m.over 5)) := by
  have hany : ((upFrom 0 (leavesOf m)).any fun k => (s.physFail m.vd (m.leaf + 8 * k) 8).isSome) = true := by
    obtain ⟨k, hk, hf⟩ := hl
    exact List.any_eq_true.2 ⟨k, mem_upFrom.2 (by omega), Option.isSome_iff_ne_none.2 hf⟩
  rw [migrationComplete_eq hm (.inl h)]
  simp [State.endMove, State.moveFails, h, hb, hd, ho.1, ho.2, hany]

end

/-- Nothing is in the way of a command's end. -/
theorem moveFails_eq_none {s : State} {m : Mig} (hd : m.dead = false)
    (h : (m.phase = 2 ∧ s.moveBroken m = false ∧ (s.pageOk m.vd m.src = true ∧ s.pageOk m.vd m.dst = true) ∧
      ∀ k, k < leavesOf m → s.physFail m.vd (m.leaf + 8 * k) 8 = none) ∨ m.phase = 3) : s.moveFails m = none := by
  rcases h with ⟨h2, hb, ⟨ho, ho'⟩, hl⟩ | h3
  · have hany : ((upFrom 0 (leavesOf m)).any fun k => (s.physFail m.vd (m.leaf + 8 * k) 8).isSome) = false :=
      List.any_eq_false.2 fun k hk => by simp [hl k (by have := mem_upFrom.1 hk; omega)]
    simp [State.moveFails, h2, hb, hd, ho, ho', hany]
  · simp [State.moveFails, h3]

/-- The host holds nothing of what a completion reads and writes. -/
theorem moveLines_free {s : State} {m : Mig}
    (h2 : m.phase = 2 → s.snoopNeeded [(.mem m.src, pageBytes m.pgsz)] false = none ∧
      s.snoopNeeded [(.mem m.dst, pageBytes m.pgsz)] true = none ∧ s.snoopNeeded [(.mem m.leaf, 8 * leavesOf m)] true = none)
    (hst : s.snoopNeeded [(.mem (m.recAt + 40), 1)] true = none) (hct : s.snoopNeeded [(.mem m.ctr, 8)] true = none) :
    ∀ e ∈ s.moveLines m, s.snoopNeeded [(.mem e.1, e.2.1)] e.2.2 = none := by
  intro e he
  rcases List.mem_append.1 he with he | he
  · rcases List.mem_append.1 he with he | he
    · split at he
      · obtain ⟨hsrc, hdst, hleaf⟩ := h2 ‹_›
        simp only [List.mem_cons, List.not_mem_nil, or_false] at he
        rcases he with rfl | rfl | rfl <;> assumption
      · cases he
    · split at he
      · obtain rfl := List.mem_singleton.1 he; exact hst
      · cases he
  · split at he
    · obtain rfl := List.mem_singleton.1 he; exact hct
    · cases he

theorem endMove_complete {s : State} {die i : Nat} {m : Mig} (hf : s.moveFails m = none)
    (hl : ∀ e ∈ s.moveLines m, s.snoopNeeded [(.mem e.1, e.2.1)] e.2.2 = none) :
    s.endMove die i m = s.completeMove die i m := by
  simp only [State.endMove, hf, linesWait_eq_none hl]

theorem ringHead_copied (t : State) (die vd src dst n : Nat) (l : Loc) (k : Nat) :
    (((t.copyPage vd src dst n).written l k).die die).ringHead = (t.die die).ringHead :=
  (tgetD_tmap Die.ringHead (fun _ x => { x with migs := tmap x.migs fun _ m => logBlocks l k m }) _ _ _ fun _ => rfl).trans
    (congrArg Die.ringHead (((passMem_passes t vd true src n false).trans (passMem_passes _ vd true dst n true)).die die))

/-- The memory after a move has been taken and its page copied. -/
theorem getByte_copied {s t : State} (ht : Passes s t) (h : Memory.wf s.mem = true) (vd src dst n die i k : Nat) (l : Loc)
    (m : Mig) (a : Nat) : (((t.copyPage vd src dst n).written l k).takeMove die i m).getByte (.mem a) =
      s.getByte (.mem (if dst ≤ a ∧ a < dst + n then a - dst + src else a)) :=
  (getByte_copyPage (ht.mem ▸ h) vd src dst n a).trans (congrArg (memGet · _) ht.mem)

/-- The record of zeros is malformed (01 R19). -/
theorem movStatus_zero (s : State) : s.movStatus (movRecOf 0) = some 2 := if_pos (.inl (by decide))

/-- Settles O55: each outcome of an engine is one clause of its step; the bytes of a move follow from those of its copies. -/
theorem pageMoves : Obligations.PageMoves := by
  unfold Obligations.PageMoves
  intro s die hlo hhi d head at_ r n free ready taken leaves here owned maps free1
  refine ⟨?_, ?_, ?_, ?_, ?_, ?_, ?_, ?_, ?_, ?_⟩
  · rintro i st ⟨⟨hs, hr, hstop, hdead, hshare⟩, hgone, hfree⟩ hst
    obtain ⟨t, ht, hmove, -⟩ := execMove_taken (r := r) hlo hhi hs hr hstop hdead rfl hgone (fun _ => hfree) rfl hshare
    refine ⟨_, hmove st hst, ⟨?_, _, (die_takeMove t die i _).2, rfl, rfl, rfl, rfl, rfl, rfl, rfl, rfl, rfl⟩, ht.mem⟩
    rw [(die_takeMove t die i _).1, ht.die, Nat.mod_add_mod]
  · rintro i ⟨hs, hr, hstop, hdead, hshare⟩ hgone
    obtain ⟨t, ht, hmove, -⟩ := execMove_taken hlo hhi hs hr hstop hdead rfl hgone (fun h => by cases h) rfl hshare
    refine ⟨_, hmove 2 (movStatus_zero s), ht.mem, ?_, _, (die_takeMove t die i _).2, rfl, rfl⟩
    rw [(die_takeMove t die i _).1, ht.die, Nat.mod_add_mod]
  · rintro i ⟨⟨hs, hr, hstop, hdead, hshare⟩, hgone, hfree⟩ hst h1 h2
    obtain ⟨t, ht, -, hmove⟩ := execMove_taken (r := r) hlo hhi hs hr hstop hdead rfl hgone (fun _ => hfree) rfl hshare
    refine ⟨_, hmove hst h1 h2, ⟨?_, _, (die_takeMove _ die i _).2, rfl, rfl, rfl, rfl, rfl, rfl, rfl, rfl, rfl⟩,
      fun hwf => ⟨fun j hj => ?_, fun a ha => ?_⟩⟩
    · rw [(die_takeMove _ die i _).1, ringHead_copied, ht.die, Nat.mod_add_mod]
    · rw [getByte_copied ht hwf, if_pos (by omega), Nat.add_sub_cancel_left, Nat.add_comm]
    · rw [getByte_copied ht hwf, if_neg (by omega)]
  · intro h
    show execMove die s = _
    unfold execMove
    rcases h with h | h
    · cases hs : d.freeSlot with
      | none => simp only [d] at hs; simp only [hs]
      | some i => simp only [d] at hs; simp only [hs]; rw [if_pos (.inr (.inr (.inl h)))]
    · simp only [d] at h; simp only [h]
  · intro i m hm h1 hv hb
    have hv : ¬((s.vd m.vd).st = .absent ∨ (s.vd m.vd).st = .destroying) := not_or.2 hv
    refine ⟨migrationPhase2_disowned hm h1 hv hb, fun ho hd hl => ?_⟩
    obtain ⟨t, ht, hphase⟩ := migrationPhase2_leaves hm h1 hv hb ho hd hl
    refine ⟨fun hall => ⟨_, hphase.trans (congrArg _ (if_pos fun k hk => (leafMaps_iff s m k).2 (hall k hk))), migs_setMig _ _ _ _,
      ht.mem, fun e => ?_⟩, fun ⟨k, hk, hn⟩ => ⟨_, hphase.trans (congrArg _ (if_neg fun hall =>
        hn ((leafMaps_iff s m k).1 (hall k hk)))), ht.mem, migs_setMig _ _ _ _⟩⟩
    show e ∈ t.tlb.filter _ ↔ _
    rw [List.mem_filter, ht.tlb]
    simp only [Bool.not_eq_true', ← Bool.not_eq_true, Bool.and_eq_true, Option.isNone_iff_eq_none, decide_eq_true_eq, and_assoc]
  · intro i m hm h1 hv
    exact migrationPhase2_absent hm h1 (by simpa only [here, ne_eq, Decidable.not_and_iff_not_or_not, Decidable.not_not] using hv)
  · intro i m ins hm hins hb
    have hexec : exec ins s = .next (s.breakMove die i m) := by
      rcases hins with ⟨h1, rfl, hv⟩ | ⟨h2, rfl⟩
      · exact migrationPhase2_broken hm h1 (not_or.2 hv) hb
      · exact migrationComplete_broken hm h2 hb
    exact ⟨_, hexec, migs_breakMove s die i m, fun _ a ha => memGet_memFill_of_not_mem _ _ _ _ _ ha⟩
  · exact fun i m hm h2 hb hd => ⟨migrationComplete_disowned hm h2 hb hd, migrationComplete_leafless hm h2 hb hd⟩
  · intro i m hm hd hend hst hct
    obtain ⟨t, p, hc, hp, hnone, hmem⟩ := completeMove_spec s die i hd
    have hfail : s.moveFails m = none :=
      moveFails_eq_none hd (hend.imp (fun ⟨h2, hb, ho, hl, _⟩ => ⟨h2, hb, ho, hl⟩) id)
    have hlines := moveLines_free (s := s) (m := m) (fun h => hend.elim (fun k => k.2.2.2.2) fun k => by omega) hst hct
    refine ⟨t, s.finished m, p, ?_, hp, hnone, rfl, hmem⟩
    rw [migrationComplete_eq hm (hend.imp And.left id), endMove_complete hfail hlines, hc]
  · exact fun m hwf hsd hld => finishMove_mem hwf hsd hld

/-! Islands (01 R23, R24): one written, the others as they were. -/

theorem isl_setIsl (s : State) {d i e j : Nat} (x : Island) (hi : i < 2) (hj : j < 2) :
    (s.setIsl d i x).isl e j = if (e, j) = (d, i) then x else s.isl e j := by
  obtain rfl | rfl : i = 0 ∨ i = 1 := by omega
  all_goals
    obtain rfl | rfl : j = 0 ∨ j = 1 := by omega
    all_goals by_cases he : e = d <;> simp [State.setIsl, State.isl, die_setDie, he]

theorem isl_setIsl_self (s : State) (d : Nat) {i : Nat} (x : Island) (hi : i < 2) : (s.setIsl d i x).isl d i = x := by
  rw [isl_setIsl s x hi hi, if_pos rfl]

theorem isl_setIsl_ne (s : State) {d i e j : Nat} (x : Island) (hi : i < 2) (hj : j < 2) (h : (e, j) ≠ (d, i)) :
    (s.setIsl d i x).isl e j = s.isl e j := by
  rw [isl_setIsl s x hi hj, if_neg h]

/-- Storage, the time and the run, and of each die all but its islands, are as they were. -/
structure KeepsDies (s t : State) : Prop where
  mem : t.mem = s.mem
  scr : t.scr = s.scr
  now : t.now = s.now
  run : t.run = s.run
  gate : ∀ e, (t.die e).gate = (s.die e).gate
  lost : ∀ e, (t.die e).lost = (s.die e).lost
  missed : ∀ e, (t.die e).missed = (s.die e).missed

theorem KeepsDies.refl (s : State) : KeepsDies s s := ⟨rfl, rfl, rfl, rfl, fun _ => rfl, fun _ => rfl, fun _ => rfl⟩

theorem KeepsDies.trans {s t u : State} (h : KeepsDies s t) (k : KeepsDies t u) : KeepsDies s u :=
  ⟨k.mem.trans h.mem, k.scr.trans h.scr, k.now.trans h.now, k.run.trans h.run, fun e => (k.gate e).trans (h.gate e),
    fun e => (k.lost e).trans (h.lost e), fun e => (k.missed e).trans (h.missed e)⟩

theorem setIsl_keeps (s : State) (d i : Nat) (x : Island) : KeepsDies s (s.setIsl d i x) := by
  by_cases hi : i = 0
  all_goals
    simp only [State.setIsl, hi, if_true, if_false]
    refine ⟨rfl, rfl, rfl, rfl, fun e => ?_, fun e => ?_, fun e => ?_⟩
    all_goals by_cases he : e = d <;> simp [die_setDie, he]

theorem countClocks_keeps (s : State) (d i n : Nat) : KeepsDies s (s.countClocks d i n) :=
  ⟨rfl, rfl, rfl, rfl, fun _ => rfl, fun _ => rfl, fun _ => rfl⟩

theorem clocksLeft_congr {s t : State} (h : KeepsDies s t) {d i : Nat} (hx : t.isl d i = s.isl d i) :
    t.clocksLeft d i = s.clocksLeft d i := by
  have hc : t.hasClock d i = s.hasClock d i := by simp only [State.hasClock, h.gate, h.lost, hx]
  simp only [State.clocksLeft, hc, hx]

/-- An island that relocks has no clock (01 R24). -/
theorem clocksLeft_relock {s : State} {d i : Nat} (h : (s.isl d i).relock = true) : s.clocksLeft d i = 0 := by
  simp [State.clocksLeft, State.hasClock, h]

/-- What is done to islands one after the other, to each alone, is done to one of them once. -/
theorem isl_foldl {F : State → Nat × Nat → State} (hk : ∀ s p, KeepsDies s (F s p))
    (hne : ∀ s e j d i, j < 2 → i < 2 → (d, i) ≠ (e, j) → (F s (e, j)).isl d i = s.isl d i) {d i : Nat} (hi : i < 2) :
    ∀ (l : List (Nat × Nat)) (s : State), (∀ p ∈ l, p.2 < 2) → l.Nodup → KeepsDies s (l.foldl F s) ∧
      ((d, i) ∉ l → (l.foldl F s).isl d i = s.isl d i) ∧
      ((d, i) ∈ l → ∃ t, KeepsDies s t ∧ t.isl d i = s.isl d i ∧ (l.foldl F s).isl d i = (F t (d, i)).isl d i) := by
  intro l
  induction l with
  | nil => exact fun s _ _ => ⟨KeepsDies.refl s, fun _ => rfl, fun h => absurd h List.not_mem_nil⟩
  | cons p l ih =>
    intro s hl hn
    obtain ⟨hp, hn⟩ := List.nodup_cons.1 hn
    obtain ⟨h1, h2, h3⟩ := ih (F s p) (fun q hq => hl q (List.mem_cons_of_mem _ hq)) hn
    have hj : p.2 < 2 := hl p List.mem_cons_self
    refine ⟨(hk s p).trans h1, fun h => ?_, fun h => ?_⟩
    · rw [List.mem_cons, not_or] at h
      exact (h2 h.2).trans (hne s p.1 p.2 d i hj hi h.1)
    · by_cases he : (d, i) = p
      · subst he
        exact ⟨s, KeepsDies.refl s, rfl, h2 hp⟩
      · obtain ⟨t, ht, hx, hf⟩ := h3 ((List.mem_cons.1 h).resolve_left he)
        exact ⟨t, (hk s p).trans ht, hx.trans (hne s p.1 p.2 d i hj hi he), hf⟩

/-! The parts of a synchronisation pulse (01 R25). -/

/-- The island's part of the 10 µs that end. -/
def State.fillClock (s : State) (p : Nat × Nat) : State :=
  if s.clocksLeft p.1 p.2 = 0 ∧ (s.isl p.1 p.2).done = 0 then s.countClocks p.1 p.2 (s.clocksLeft p.1 p.2)
  else (s.countClocks p.1 p.2 (s.clocksLeft p.1 p.2)).setIsl p.1 p.2
    { ((s.countClocks p.1 p.2 (s.clocksLeft p.1 p.2)).isl p.1 p.2).tick (s.clocksLeft p.1 p.2) with done := 0 }

theorem fillClocks_eq_foldl (l : List (Nat × Nat)) : ∀ s : State, s.fillClocks l = l.foldl State.fillClock s := by
  induction l with
  | nil => exact fun _ => rfl
  | cons p l ih => exact fun s => ih _

theorem endRelocks_eq_foldl (n : Nat) (l : List (Nat × Nat)) :
    ∀ s : State, s.endRelocks n l = l.foldl (fun s p => s.endRelock n p.1 p.2) s := by
  induction l with
  | nil => exact fun _ => rfl
  | cons p l ih => exact fun s => ih _

theorem fillClock_keeps (s : State) (p : Nat × Nat) : KeepsDies s (s.fillClock p) := by
  unfold State.fillClock
  split
  · exact countClocks_keeps _ _ _ _
  · exact (countClocks_keeps _ _ _ _).trans (setIsl_keeps _ _ _ _)

theorem fillClock_isl_ne (s : State) (e j d i : Nat) (hj : j < 2) (hi : i < 2) (h : (d, i) ≠ (e, j)) :
    (s.fillClock (e, j)).isl d i = s.isl d i := by
  unfold State.fillClock
  split
  · rfl
  · exact isl_setIsl_ne _ _ hj hi h

theorem fillClock_isl (s : State) (d : Nat) {i : Nat} (hi : i < 2) :
    ((s.fillClock (d, i)).isl d i).mhz = (s.isl d i).mhz ∧ ((s.fillClock (d, i)).isl d i).done = 0 ∧
      ((s.fillClock (d, i)).isl d i).cyc = (s.isl d i).cyc + s.clocksLeft d i ∧
      ((s.fillClock (d, i)).isl d i).relock = (s.isl d i).relock := by
  unfold State.fillClock
  split
  · next h => exact ⟨rfl, h.2, by rw [h.1]; rfl, rfl⟩
  · rw [isl_setIsl_self _ _ _ hi]
    exact ⟨rfl, rfl, rfl, rfl⟩

theorem startClock_keeps (s : State) (d i n : Nat) : KeepsDies s (s.startClock d i n) := setIsl_keeps _ _ _ _

theorem endRelock_keeps (s : State) (n d i : Nat) : KeepsDies s (s.endRelock n d i) := by
  unfold State.endRelock
  dsimp only
  split
  · exact (setIsl_keeps _ _ _ _).trans (startClock_keeps _ _ _ _)
  · exact KeepsDies.refl s

theorem endRelock_isl_ne (s : State) (n e j d i : Nat) (hj : j < 2) (hi : i < 2) (h : (d, i) ≠ (e, j)) :
    (s.endRelock n e j).isl d i = s.isl d i := by
  unfold State.endRelock State.startClock
  dsimp only
  split
  · rw [isl_setIsl_ne _ _ hj hi h, isl_setIsl_ne _ _ hj hi h]
  · rfl

/-- The end of a relock starts the island's clocks and changes no count of them. -/
theorem relockEnd_isl (s : State) (d n : Nat) {i : Nat} (hi : i < 2) :
    let y := ((s.setIsl d i { s.isl d i with relock := false }).startClock d i n).isl d i
    y.relock = false ∧ y.mhz = (s.isl d i).mhz ∧ y.cyc = (s.isl d i).cyc ∧ y.ncyc = (s.isl d i).ncyc := by
  rw [State.startClock, isl_setIsl_self _ _ _ hi, isl_setIsl_self _ _ _ hi]
  exact ⟨rfl, rfl, rfl, rfl⟩

theorem endRelock_isl_stays {s : State} {n d i : Nat} (h : ¬((s.isl d i).relock = true ∧ (s.isl d i).till ≤ n)) :
    (s.endRelock n d i).isl d i = s.isl d i := by
  simp only [State.endRelock, if_neg h]

theorem endRelock_isl_ends {s : State} {n d i : Nat} (hi : i < 2) (h : (s.isl d i).relock = true ∧ (s.isl d i).till ≤ n) :
    ((s.endRelock n d i).isl d i).relock = false ∧ ((s.endRelock n d i).isl d i).mhz = (s.isl d i).mhz := by
  obtain ⟨h1, h2, -, -⟩ := relockEnd_isl s d (s.isl d i).till hi
  simp only [State.endRelock, if_pos h]
  exact ⟨h1, h2⟩

theorem timeTo_now (s : State) (n : Nat) : (s.timeTo n).now = max s.now n := by
  unfold State.timeTo
  split
  · next h => exact (Nat.max_eq_right (Nat.le_of_lt h)).symm
  · next h => exact (Nat.max_eq_left (Nat.le_of_not_lt h)).symm

/-- The time goes on, and storage, dies and the run stay. -/
theorem timeTo_keeps (s : State) (n : Nat) :
    (s.timeTo n).mem = s.mem ∧ (s.timeTo n).scr = s.scr ∧ (s.timeTo n).run = s.run ∧ (s.timeTo n).dies = s.dies := by
  unfold State.timeTo
  split <;> exact ⟨rfl, rfl, rfl, rfl⟩

/-- One die's pulse: received, or missed. -/
def State.missDie (s : State) (missed e : Nat) : State :=
  if bitAt missed e then
    let t := s.setDie e { s.die e with missed := (s.die e).missed + 1 }
    if 10 ≤ (s.die e).missed + 1 then t.loseDie e else t
  else if (s.die e).missed = 0 then s else s.setDie e { s.die e with missed := 0 }

theorem missPulse_cons (s : State) (missed e : Nat) (l : List Nat) :
    s.missPulse missed (e :: l) = (s.missDie missed e).missPulse missed l := rfl

/-- Pulses that a state has come to count: nothing but the dies' counts of missed pulses differs. -/
def CountsPulses (s t : State) : Prop :=
  t.mem = s.mem ∧ t.scr = s.scr ∧ t.now = s.now ∧ t.run = s.run ∧
    ∀ d, (t.die d).lost = (s.die d).lost ∧ (t.die d).islA = (s.die d).islA ∧ (t.die d).islB = (s.die d).islB

theorem CountsPulses.trans {s t u : State} (h : CountsPulses s t) (k : CountsPulses t u) : CountsPulses s u := by
  obtain ⟨h1, h2, h3, h4, h5⟩ := h
  obtain ⟨k1, k2, k3, k4, k5⟩ := k
  exact ⟨k1.trans h1, k2.trans h2, k3.trans h3, k4.trans h4, fun d => ⟨(k5 d).1.trans (h5 d).1,
    (k5 d).2.1.trans (h5 d).2.1, (k5 d).2.2.trans (h5 d).2.2⟩⟩

theorem CountsPulses.isl {s t : State} (h : CountsPulses s t) (d i : Nat) : t.isl d i = s.isl d i := by
  obtain ⟨-, ha, hb⟩ := h.2.2.2.2 d
  simp only [State.isl, ha, hb]

theorem setMissed_counts (s : State) (e n : Nat) : CountsPulses s (s.setDie e { s.die e with missed := n }) ∧
    ∀ d, ((s.setDie e { s.die e with missed := n }).die d).missed = if d = e then n else (s.die d).missed := by
  refine ⟨⟨rfl, rfl, rfl, rfl, fun d => ?_⟩, fun d => ?_⟩ <;> by_cases h : d = e <;> simp [die_setDie, h]

/-- A die that does not miss its tenth pulse in a row is not lost by it. -/
theorem missDie_counts {s : State} {missed e : Nat} (h : missed.testBit e = true → (s.die e).missed < 9) :
    CountsPulses s (s.missDie missed e) ∧ ∀ d, ((s.missDie missed e).die d).missed =
      if d = e then (if missed.testBit e then (s.die e).missed + 1 else 0) else (s.die d).missed := by
  unfold State.missDie
  rw [bitAt_eq_testBit]
  by_cases hb : missed.testBit e = true
  · have := h hb
    simp only [hb, if_true, if_neg (show ¬10 ≤ (s.die e).missed + 1 by omega)]
    exact setMissed_counts s e _
  · simp only [if_neg hb]
    split
    · next h0 => exact ⟨⟨rfl, rfl, rfl, rfl, fun _ => ⟨rfl, rfl, rfl⟩⟩, fun d => by split <;> simp_all⟩
    · exact setMissed_counts s e 0

theorem missPulse_counts (missed : Nat) : ∀ (l : List Nat) (s : State), l.Nodup →
    (∀ e ∈ l, missed.testBit e = true → (s.die e).missed < 9) →
    CountsPulses s (s.missPulse missed l) ∧ ∀ d, ((s.missPulse missed l).die d).missed =
      if d ∈ l then (if missed.testBit d then (s.die d).missed + 1 else 0) else (s.die d).missed := by
  intro l
  induction l with
  | nil => exact fun s _ _ => ⟨⟨rfl, rfl, rfl, rfl, fun _ => ⟨rfl, rfl, rfl⟩⟩, fun _ => rfl⟩
  | cons e l ih =>
    intro s hn hm
    obtain ⟨he, hn⟩ := List.nodup_cons.1 hn
    obtain ⟨h1, h2⟩ := missDie_counts (hm e List.mem_cons_self)
    obtain ⟨h3, h4⟩ := ih (s.missDie missed e) hn fun k hk hb => by
      rw [h2, if_neg fun (h : k = e) => he (h ▸ hk)]
      exact hm k (List.mem_cons_of_mem _ hk) hb
    rw [missPulse_cons]
    refine ⟨h1.trans h3, fun d => ?_⟩
    rw [h4, h2]
    by_cases hd : d = e
    · subst hd; simp [he]
    · simp [hd]

/-- The islands of the twelve dies. -/
def allIslands : List (Nat × Nat) := (upFrom 0 12).flatMap fun d => [(d, 0), (d, 1)]

theorem mem_allIslands {d i : Nat} (hd : d < 12) (hi : i < 2) : (d, i) ∈ allIslands := by
  rw [allIslands, List.mem_flatMap]
  refine ⟨d, mem_upFrom.2 (by omega), ?_⟩
  obtain rfl | rfl : i = 0 ∨ i = 1 := by omega
  all_goals simp

theorem upFrom_nodup : (upFrom 0 12).Nodup := by decide
theorem allIslands_nodup : allIslands.Nodup := by decide
theorem allIslands_lt : ∀ p ∈ allIslands, p.2 < 2 := by decide

/-- The state at the end of the 10 µs before a pulse. -/
def State.swept (s : State) : State :=
  ((s.endRelocks (s.run.pulse + 1000 - 1) allIslands).fillClocks allIslands).timeTo (s.run.pulse + 1000)

/-- The state a pulse leaves before the missed ones are counted. -/
def State.pulsed (s : State) : State :=
  { s.swept with run := { s.swept.run with window := true, pulse := s.run.pulse + 1000 } }

theorem pulsed_fields (s : State) : s.pulsed.now = s.swept.now ∧ s.pulsed.run.pulse = s.run.pulse + 1000 ∧
    s.pulsed.mem = s.swept.mem ∧ s.pulsed.scr = s.swept.scr ∧ s.pulsed.dies = s.swept.dies := by
  simp only [State.pulsed, and_self]

theorem exec_syncPulse (missed : Nat) (s : State) :
    exec (.syncPulse missed) s = .next (s.pulsed.missPulse missed (upFrom 0 12)) := by
  show execSyncPulse missed s = _
  simp only [execSyncPulse, State.pulsed, State.swept, allIslands]

/-- What a pulse leaves of storage, of the dies, and of one island. -/
theorem pulsed_spec (s : State) {d i : Nat} (hd : d < 12) (hi : i < 2) :
    s.pulsed.now = max s.now (s.run.pulse + 1000) ∧ s.pulsed.run.pulse = s.run.pulse + 1000 ∧ s.pulsed.mem = s.mem ∧
      s.pulsed.scr = s.scr ∧ (∀ e, (s.pulsed.die e).missed = (s.die e).missed ∧ (s.pulsed.die e).lost = (s.die e).lost) ∧
      (s.pulsed.isl d i).mhz = (s.isl d i).mhz ∧ (s.pulsed.isl d i).done = 0 ∧
      ((s.isl d i).relock = false ∨ s.run.pulse + 1000 ≤ (s.isl d i).till →
        (s.pulsed.isl d i).cyc = (s.isl d i).cyc + s.clocksLeft d i ∧ (s.pulsed.isl d i).relock = (s.isl d i).relock) ∧
      ((s.isl d i).relock = true → (s.isl d i).till < s.run.pulse + 1000 → (s.pulsed.isl d i).relock = false) := by
  let n := s.run.pulse + 1000 - 1
  obtain ⟨hk1, -, h1⟩ := isl_foldl (F := fun s p => s.endRelock n p.1 p.2) (fun s p => endRelock_keeps s n p.1 p.2)
    (fun s e j d i => endRelock_isl_ne s n e j d i) hi allIslands s allIslands_lt allIslands_nodup
  obtain ⟨t, ht, htx, h1⟩ := h1 (mem_allIslands hd hi)
  rw [← endRelocks_eq_foldl] at hk1 h1
  obtain ⟨hk2, -, h2⟩ := isl_foldl fillClock_keeps fillClock_isl_ne hi allIslands (s.endRelocks n allIslands) allIslands_lt
    allIslands_nodup
  obtain ⟨u, hu, hux, h2⟩ := h2 (mem_allIslands hd hi)
  rw [← fillClocks_eq_foldl] at hk2 h2
  have hk := hk1.trans hk2
  obtain ⟨hmem, hscr, -, hdies⟩ := timeTo_keeps ((s.endRelocks n allIslands).fillClocks allIslands) (s.run.pulse + 1000)
  have hnow := timeTo_now ((s.endRelocks n allIslands).fillClocks allIslands) (s.run.pulse + 1000)
  rw [show State.timeTo _ _ = s.swept from rfl] at hmem hscr hdies hnow
  obtain ⟨pnow, ppulse, pmem, pscr, pdies⟩ := pulsed_fields s
  have hdie (e : Nat) : s.pulsed.die e = ((s.endRelocks n allIslands).fillClocks allIslands).die e := by
    rw [State.die, pdies, hdies, State.die]
  have hisl : s.pulsed.isl d i = (u.fillClock (d, i)).isl d i := by
    rw [← h2]
    simp only [State.isl, hdie]
  obtain ⟨f1, f2, f3, f4⟩ := fillClock_isl u d hi
  have hxu : u.isl d i = (t.endRelock n d i).isl d i := hux.trans h1
  have hmhz : ((t.endRelock n d i).isl d i).mhz = (t.isl d i).mhz := by
    by_cases hr : (t.isl d i).relock = true ∧ (t.isl d i).till ≤ n
    · exact (endRelock_isl_ends hi hr).2
    · rw [endRelock_isl_stays hr]
  refine ⟨by rw [pnow, hnow, hk.now], ppulse, pmem.trans (hmem.trans hk.mem), pscr.trans (hscr.trans hk.scr),
    fun e => ⟨by rw [hdie, hk.missed], by rw [hdie, hk.lost]⟩, ?_, ?_, fun h => ?_, fun hr hl => ?_⟩
  · rw [hisl, f1, hxu, hmhz, htx]
  · rw [hisl, f2]
  · have hx : u.isl d i = s.isl d i := by
      rw [hxu, endRelock_isl_stays, htx]
      rintro ⟨hr, hl⟩
      rw [htx] at hr hl
      rcases h with h | h
      · simp [hr] at h
      · omega
    rw [hisl, f3, f4, hx, clocksLeft_congr (hk1.trans hu) hx]
    exact ⟨rfl, rfl⟩
  · rw [hisl, f4, hxu]
    exact (endRelock_isl_ends hi ⟨by rw [htx]; exact hr, by rw [htx]; omega⟩).1

/-! A change of an island's frequency (01 R24). -/

/-! Frequencies, relocks, lost dies and regulator windows (01 R24, R25, 03 R76). -/

/-- The clocks an island has had since it was last counted, when its frequency changes. -/
def State.clocksNow (s : State) (d i : Nat) : Nat :=
  min ((s.sincePulse - (s.isl d i).done) / (s.isl d i).period) (s.clocksLeft d i)

theorem setMhz_eq (s : State) (d i f full : Nat) : s.setMhz d i f full =
    (s.countClocks d i (s.clocksNow d i)).fresh.2.setIsl d i { (s.isl d i).tick (s.clocksNow d i) with
      mhz := f, relock := true, till := s.now + Config.freeNat s.run.free % 201, full } := rfl

theorem legalMhz_iff (f : Nat) : legalMhz f = true ↔ 600 ≤ f ∧ f ≤ 2400 ∧ f % 100 = 0 := by
  simp only [legalMhz, Bool.and_eq_true, decide_eq_true_eq, beq_iff_eq, and_assoc]

/-- A legal frequency other than the present one starts a relock. -/
theorem exec_frequencyStep_legal {s : State} {d i f : Nat} (hd : d < 12) (hi : i < 2) (hf : legalMhz f = true)
    (hx : f ≠ (s.isl d i).mhz) (hr : (s.isl d i).relock = false) :
    exec (.frequencyStep d i f) s = .next (s.setMhz d i f 0) := by
  show execFrequencyStep d i f s = _
  simp [execFrequencyStep, hd, hi, hf, hx, hr]

theorem exec_frequencyStep_illegal {s : State} {d i f : Nat} (hf : legalMhz f = false) :
    exec (.frequencyStep d i f) s = .next s := by
  show execFrequencyStep d i f s = _
  simp [execFrequencyStep, hf]

theorem exec_pllRelockEnd {s : State} {d i : Nat} (hd : d < 12) (hi : i < 2) (hr : (s.isl d i).relock = true)
    (hl : (s.isl d i).till < s.run.pulse + 1000) : exec (.pllRelockEnd d i) s =
      .next (((s.timeTo (s.isl d i).till).setIsl d i { s.isl d i with relock := false }).startClock d i (s.isl d i).till) := by
  show execPllRelockEnd d i s = _
  simp only [execPllRelockEnd, hd, hi, hr, hl, and_self, if_true]

theorem timeTo_isl (s : State) (n d i : Nat) : (s.timeTo n).isl d i = s.isl d i := by
  obtain ⟨-, -, -, h⟩ := timeTo_keeps s n
  simp only [State.isl, State.die, h]

/-- What is attempted again when a die is lost, and when a window begins. -/
def OpSt.waitsAtHome : OpSt → Bool
  | .snoop _ | .regul _ _ | .held => true
  | .ready _ | .parked _ _ | .walker _ _ | .remote _ _ => false

def OpSt.waitsForWindow : OpSt → Bool
  | .regul _ _ | .held => true
  | .ready _ | .parked _ _ | .walker _ _ | .snoop _ | .remote _ _ => false

theorem exec_dieLost {s : State} {d : Nat} (hd : d < 12) (hx : s.pkg.exDies.testBit d = false) (hl : (s.die d).lost = false) :
    ∃ p, exec (.dieLost d) s = .next (((s.setDie d { s.die d with lost := true }).send (.pfMsix 4)).retry p) ∧
      ∀ o, p o = true ↔ ((∃ k b, o = .regul k b) ∨ o = .held ∨ (True ∧ ∃ l, o = .snoop l)) := by
  refine ⟨OpSt.waitsAtHome, ?_, fun o => by cases o <;> simp [OpSt.waitsAtHome]⟩
  · show execDieLost d s = _
    simp only [execDieLost, bitAt_eq_testBit, hd, hx, Bool.not_false, and_self, if_true, State.loseDie, hl, Bool.false_eq_true, if_false]
    rfl

/-- The state at the start of a window: every device has its budgets, and those held in the last are counted. -/
def State.renewed (s : State) : State :=
  { s with
    run := { s.run with window := false }
    vds := tmap s.vds fun n v =>
      { v with
        regs := [], windowHeld := false
        heldw := if v.windowHeld = true ∨ s.isHeld n = true then (v.heldw + 1) % 2 ^ 32 else v.heldw } }

theorem exec_regulatorWindow {s : State} (h : s.run.window = true) :
    ∃ p, exec .regulatorWindow s = .next ((s.renewed.freeHeld.takeHeldIn OpSt.isRegul).retry p) ∧
      ∀ o, p o = true ↔ ((∃ k b, o = .regul k b) ∨ o = .held ∨ (False ∧ ∃ l, o = .snoop l)) := by
  refine ⟨OpSt.waitsForWindow, ?_, fun o => by cases o <;> simp [OpSt.waitsForWindow]⟩
  · show execRegulatorWindow s = _
    simp only [execRegulatorWindow, h, Bool.not_true, Bool.false_eq_true, if_false, State.renewed, Bool.or_eq_true]
    rfl

theorem renewed_spec (s : State) : s.renewed = { s with run := { s.run with window := false }, vds := s.renewed.vds } ∧
    ∀ n, tget s.renewed.vds n = (tget s.vds n).map fun v =>
      { v with
        regs := [], windowHeld := false
        heldw := if v.windowHeld = true ∨ s.isHeld n = true then (v.heldw + 1) % 2 ^ 32 else v.heldw } :=
  ⟨rfl, fun n => by simp only [State.renewed, tget_tmap]⟩

section
variable (s : State) {d i : Nat} (hd : d < 12) (hi : i < 2)
include hd hi

/-- A pulse by which no die is lost. -/
theorem syncPulse_spec {missed : Nat} (hm : ∀ e, e < 12 → missed.testBit e = true → (s.die e).missed < 9) :
    ∃ u, exec (.syncPulse missed) s = .next u ∧ CountsPulses s.pulsed u ∧
      ∀ e, e < 12 → (u.die e).missed = if missed.testBit e then (s.die e).missed + 1 else 0 := by
  have hdie (e : Nat) : (s.pulsed.die e).missed = (s.die e).missed := by
    obtain ⟨-, -, -, -, h, -⟩ := pulsed_spec s hd hi
    exact (h e).1
  obtain ⟨hc, hmissed⟩ := missPulse_counts missed (upFrom 0 12) s.pulsed upFrom_nodup fun e he hb => by
    rw [hdie]
    exact hm e (by have := mem_upFrom.1 he; omega) hb
  exact ⟨_, exec_syncPulse missed s, hc, fun e he => by rw [hmissed, if_pos (mem_upFrom.2 (by omega)), hdie]⟩

/-- Storage and every other island stay. -/
def State.elsewhere (s : State) (d i : Nat) (u : State) : Prop :=
  u.mem = s.mem ∧ u.scr = s.scr ∧ ∀ e j, (e, j) ≠ (d, i) → j < 2 → u.isl e j = s.isl e j

theorem frequencyStep_spec {f : Nat} (hf : legalMhz f = true) (hx : f ≠ (s.isl d i).mhz) (hr : (s.isl d i).relock = false) :
    ∃ u, exec (.frequencyStep d i f) s = .next u ∧ s.elsewhere d i u ∧ (u.isl d i).mhz = f ∧ (u.isl d i).relock = true ∧
      (u.isl d i).full = 0 ∧ (u.isl d i).cyc = (s.isl d i).cyc + s.clocksNow d i ∧
      s.now ≤ (u.isl d i).till ∧ (u.isl d i).till ≤ s.now + 200 := by
  have hk := setIsl_keeps (s.countClocks d i (s.clocksNow d i)).fresh.2 d i
  refine ⟨_, (exec_frequencyStep_legal hd hi hf hx hr).trans (congrArg _ (setMhz_eq s d i f 0)),
    ⟨(hk _).mem, (hk _).scr, fun e j he hj => isl_setIsl_ne _ _ hi hj he⟩, ?_⟩
  rw [isl_setIsl_self _ _ _ hi]
  exact ⟨rfl, rfl, rfl, rfl, Nat.le_add_right _ _, by dsimp only; omega⟩

theorem pllRelockEnd_spec (hr : (s.isl d i).relock = true) (hl : (s.isl d i).till < s.run.pulse + 1000) :
    ∃ u, exec (.pllRelockEnd d i) s = .next u ∧ (u.isl d i).relock = false ∧ (u.isl d i).mhz = (s.isl d i).mhz ∧
      (u.isl d i).cyc = (s.isl d i).cyc ∧ (u.isl d i).ncyc = (s.isl d i).ncyc ∧ u.now = max s.now (s.isl d i).till ∧
      s.elsewhere d i u := by
  obtain ⟨h1, h2, h3, h4⟩ := relockEnd_isl (s.timeTo (s.isl d i).till) d (s.isl d i).till hi
  rw [timeTo_isl] at h1 h2 h3 h4
  obtain ⟨hmem, hscr, -, -⟩ := timeTo_keeps s (s.isl d i).till
  have hk := (setIsl_keeps (s.timeTo (s.isl d i).till) d i { s.isl d i with relock := false }).trans
    (startClock_keeps _ d i (s.isl d i).till)
  refine ⟨_, exec_pllRelockEnd hd hi hr hl, h1, h2, h3, h4, hk.now.trans (timeTo_now _ _), hk.mem.trans hmem, hk.scr.trans hscr,
    fun e j he hj => ?_⟩
  rw [State.startClock, isl_setIsl_ne _ _ hi hj he, isl_setIsl_ne _ _ hi hj he, timeTo_isl]

end

/-! The checkpoint reserve (01 R18, R38): where its bytes stand, and that writing it writes nothing else. -/

/-- What is written to the reserve may differ, and nothing else of memory: near bytes, and with three expanders, whose
windows have room for their share, the bytes outside the reserve. -/
def NearTo (s : State) (m : List Host.Cell) : Prop :=
  ∀ c : Host.Cell, (c.1 < 0x010000000000 ∨ 3 ≤ s.exps.length ∧ s.inReserve c.1 = false) → (c ∈ m ↔ c ∈ s.mem)

theorem mem_memIns_iff {m : List Host.Cell} {a : Nat} {b : Byte} {c : Host.Cell} (h : c.1 ≠ a) :
    c ∈ memIns m a b ↔ c ∈ m := by
  induction m with
  | nil => simp [memIns]; rintro rfl; exact h rfl
  | cons e t ih =>
    obtain ⟨k, v⟩ := e
    have hab : c ≠ (a, b) := by rintro rfl; exact h rfl
    simp only [memIns]
    split
    · next hk =>
      have hkv : c ≠ (k, v) := by rintro rfl; exact h hk.symm
      simp [hab, hkv]
    · split
      · simp [hab]
      · simp [ih]

theorem mem_foldl_memIns (g : Host.Cell → Nat) {c : Host.Cell} (l : List Host.Cell) :
    ∀ m : List Host.Cell, (∀ e ∈ l, c.1 ≠ g e) → (c ∈ l.foldl (fun m e => memIns m (g e) e.2) m ↔ c ∈ m) := by
  induction l with
  | nil => exact fun _ _ => Iff.rfl
  | cons e l ih =>
    exact fun m h => (ih _ fun e' he' => h e' (List.mem_cons_of_mem _ he')).trans (mem_memIns_iff (h e List.mem_cons_self))

theorem inReserve_near {s : State} {pa : Nat} (h : pa < 0x010000000000) : s.inReserve pa = false := by
  have hf : farOf pa = none := by rw [farOf, if_neg (by omega)]
  rw [State.inReserve, hf]

theorem upFrom_length (n : Nat) : ∀ a, (upFrom a n).length = n := by
  induction n with
  | zero => exact fun _ => rfl
  | succ n ih => exact fun a => by rw [upFrom, List.length_cons, ih]

theorem exps_length_le (s : State) : s.exps.length ≤ 24 := by
  have h := List.length_filter_le (fun e => !bitAt s.pkg.exExp e && !bitAt s.pkg.exDies (8 + e / 6)) (upFrom 0 24)
  rwa [upFrom_length] at h

theorem lt_of_mem_exps {s : State} {e : Nat} (h : e ∈ s.exps) : e < 24 := by
  have := mem_upFrom.1 (List.mem_filter.1 h).1
  omega

theorem reserveAt_far (s : State) (off : Nat) : 0x010000000000 ≤ s.reserveAt off := by
  simp only [State.reserveAt, expBase]
  omega

theorem farOf_window {e o : Nat} (he : e < 24) (ho : o < 0x6000000000) : farOf (expBase e + o) = some (e, o) := by
  have h1 : (expBase e + o - 0x010000000000) / 0x8000000000 = e := by unfold expBase; omega
  have h2 : (expBase e + o - 0x010000000000) % 0x8000000000 = o := by unfold expBase; omega
  have h3 : 0x010000000000 ≤ expBase e + o ∧ expBase e + o < 0x010000000000 + 24 * 0x8000000000 := by unfold expBase; omega
  rw [farOf, if_pos h3, h1, h2]
  exact if_pos ho

/-- An expander's part of the reserve: a share of 1,088 GiB, rounded up or down. -/
theorem reserveGiB_bounds {s : State} {e : Nat} (h : e ∈ s.exps) :
    1088 / s.exps.length ≤ s.reserveGiB e ∧ s.reserveGiB e ≤ 1088 / s.exps.length + 1 := by
  have hn : s.exps.length ≠ 0 := Nat.pos_iff_ne_zero.1 (List.length_pos_of_mem h)
  simp only [State.reserveGiB, if_neg hn, if_neg (not_not_intro h)]
  split <;> omega

/-- The first 1,057 GiB lie in the reserve: three expanders or more have room for them in their parts. -/
theorem inReserve_reserveAt {s : State} {off : Nat} (hn : 3 ≤ s.exps.length) (hoff : off < 1057 * 2 ^ 30) :
    s.inReserve (s.reserveAt off) = true := by
  have hlen := exps_length_le s
  have hu : off / 2 ^ 21 % s.exps.length < s.exps.length := Nat.mod_lt _ (by omega)
  have he : s.exps.getD (off / 2 ^ 21 % s.exps.length) 0 ∈ s.exps := by
    rw [List.getD_eq_getElem?_getD, List.getElem?_eq_getElem hu]
    exact List.getElem_mem hu
  obtain ⟨hlo, hhi⟩ := reserveGiB_bounds he
  have hq : 1088 / s.exps.length ≤ 362 := Nat.le_trans (Nat.div_le_div_left hn (by omega)) (by decide)
  have hshare : off / 2 ^ 21 / s.exps.length < 512 * (1088 / s.exps.length) := by
    have := Nat.div_add_mod' 1088 s.exps.length
    have := Nat.mod_lt 1088 (show 0 < s.exps.length by omega)
    rw [Nat.div_lt_iff_lt_mul (by omega), Nat.mul_assoc]
    omega
  have hfar : s.reserveAt off = expBase (s.exps.getD (off / 2 ^ 21 % s.exps.length) 0) +
      ((384 - s.reserveGiB (s.exps.getD (off / 2 ^ 21 % s.exps.length) 0)) * 2 ^ 30 + off / 2 ^ 21 / s.exps.length * 2 ^ 21 +
        off % 2 ^ 21) := by simp only [State.reserveAt]; omega
  rw [State.inReserve, hfar, farOf_window (lt_of_mem_exps he) (by omega)]
  simp only [he, decide_true, Bool.true_and, decide_eq_true_eq]
  omega

/-- Bytes put into the first 1,057 GiB of the reserve change nothing else. -/
theorem putReserve_near {s : State} (off n : Nat) {l : List Host.Cell} (hl : ∀ c ∈ l, c.1 < 1057 * 2 ^ 30) :
    NearTo s (s.putReserve off n l).mem := by
  intro c hc
  have hout : s.inReserve c.1 = false := hc.elim inReserve_near And.right
  refine (mem_foldl_memIns _ _ _ fun e he => ?_).trans ?_
  · intro h
    rcases hc with hc | ⟨hn, hc⟩
    · have := reserveAt_far s e.1; omega
    · rw [h, inReserve_reserveAt hn (hl e (List.mem_filter.1 he).1)] at hc
      cases hc
  · rw [List.mem_filter]
    simp [hout]

theorem fillReserve_near {s : State} {off n : Nat} (h : off + n ≤ 1057 * 2 ^ 30) : NearTo s (s.fillReserve off n).mem :=
  putReserve_near (s := s.fresh.2) off n fun c hc => by have := mem_fillCells hc; omega

theorem fillReserve_eq (s : State) (off n : Nat) :
    s.fillReserve off n = { s with run := s.fresh.2.run, mem := (s.fillReserve off n).mem } := rfl

theorem NearTo.trans {s t : State} {m : List Host.Cell} (h : NearTo s t.mem) (k : NearTo t m) (ht : t.pkg = s.pkg) : NearTo s m := by
  intro c hc
  have hx : t.exps = s.exps ∧ t.inReserve c.1 = s.inReserve c.1 := by
    cases s; cases t; cases ht; exact ⟨rfl, rfl⟩
  refine (k c ?_).trans (h c hc)
  rwa [hx.1, hx.2]

theorem writeHeader_near (s : State) : NearTo s s.writeHeader.mem := fillReserve_near (by decide)

theorem fillRegion_near (s : State) {k : Nat} (h : k < 2) : NearTo s (s.fillRegion k).mem := by
  obtain rfl | rfl : k = 0 ∨ k = 1 := by omega
  all_goals exact fillReserve_near (by decide)

theorem writeNear_near (s : State) : NearTo s s.writeNear.mem := by
  refine putReserve_near _ _ fun c hc => ?_
  obtain ⟨e, he, rfl⟩ := List.mem_map.1 hc
  have := (List.mem_filter.1 he).2
  simp only [Bool.and_eq_true, decide_eq_true_eq] at this
  simp only [nearRegion]
  omega

/-! The steps of a checkpoint (01 R38 to R40). -/

section
variable {s : State}

theorem changing_iff (s : State) : s.changing = true ↔
    ∃ d x, (d, x) ∈ s.dies ∧ (x.gate = .gating ∨ x.islA.relock = true ∨ x.islB.relock = true) := by
  simp only [State.changing, List.any_eq_true, Prod.exists, Bool.or_eq_true, beq_iff_eq, or_assoc]

theorem trigger_waits (hr : s.pkg.ready = true) (hs : s.pkg.stopped = false) (hc : s.changing = true) :
    s.trigger = { s with pkg := { s.pkg with ckptDue := true } } := by
  simp [State.trigger, hr, hs, hc]

theorem trigger_starts (hr : s.pkg.ready = true) (hs : s.pkg.stopped = false) (hc : s.changing = false) : s.trigger =
    { s with
      mem := s.writeHeader.mem
      pkg := { s.pkg with stopped := true, ckptDue := false, ckpt := { s.pkg.ckpt with valid := false }, ckptStage := 1 }
      run := { s.writeHeader.run with issueQ := [], cur := none } } := by
  rw [State.trigger, if_neg (by simp [hr, hs]), if_neg (by simp [hc])]
  rfl

theorem trigger_refused (h : s.pkg.ready = false ∨ s.pkg.stopped = true) : s.trigger = s := by
  have h : (!s.pkg.ready || s.pkg.stopped) = true := by simpa using h
  rw [State.trigger, if_pos h]

theorem exec_powerFailInput (s : State) : exec .powerFailInput s = .next s.trigger := rfl

theorem exec_checkpoint_idle (h : s.pkg.ckptStage = 0) : exec .managementCheckpointCommand s = .next s.trigger :=
  congrArg _ (if_pos h)

theorem exec_checkpoint_step (h : s.pkg.ckptStage ≠ 0) : exec .managementCheckpointCommand s = .next s.ckptStep :=
  congrArg _ (if_neg h)

theorem ckptStep_over (h : 6 ≤ s.pkg.ckptStage) : s.ckptStep = s := by
  unfold State.ckptStep
  split
  case h_6 => rfl
  all_goals omega

end

/-! The islands of the dies gated (01 R38 step 5). -/

/-- Memory, the package and the dies are as they were. -/
def KeepsPkgDies (s t : State) : Prop := t.mem = s.mem ∧ t.pkg = s.pkg ∧ t.dies = s.dies

theorem KeepsPkgDies.trans {s t u : State} (h : KeepsPkgDies s t) (k : KeepsPkgDies t u) : KeepsPkgDies s u :=
  ⟨k.1.trans h.1, k.2.1.trans h.2.1, k.2.2.trans h.2.2⟩

theorem scrubCob_keeps (s : State) (c : Nat) : KeepsPkgDies s (s.scrubCob c) := by
  simp only [KeepsPkgDies, State.scrubCob, State.scrubCore, State.setCob_mem, State.setCob_pkg, State.setCob_dies,
    State.setCore_mem, State.setCore_pkg, State.setCore_dies, and_self]

theorem scrubCobs_keeps (l : List Nat) : ∀ s : State, KeepsPkgDies s (s.scrubCobs l) := by
  induction l with
  | nil => exact fun _ => ⟨rfl, rfl, rfl⟩
  | cons c l ih => exact fun s => (scrubCob_keeps s c).trans (ih _)

/-- One die's islands gated. -/
def State.gateDie (s : State) (e : Nat) : State := (s.setDie e { s.die e with gate := .gated, l2pins := [] }).blankDie e

theorem gateDies_cons (s : State) (e : Nat) (l : List Nat) : s.gateDies (e :: l) = (s.gateDie e).gateDies l := by
  delta State.gateDies
  rfl

theorem gateDie_spec (s : State) (e : Nat) : (s.gateDie e).mem = s.mem ∧ (s.gateDie e).pkg = s.pkg ∧
    ∀ d, ((s.gateDie e).die d).gate = if d = e then .gated else (s.die d).gate := by
  obtain ⟨kmem, kpkg, kdies⟩ := scrubCobs_keeps (upFrom (24 * e) 24) (s.setDie e { s.die e with gate := .gated, l2pins := [] })
  rw [State.gateDie, State.blankDie, kmem, kpkg]
  refine ⟨rfl, rfl, fun d => ?_⟩
  rw [State.die, kdies, ← State.die, die_setDie]
  split <;> rfl

theorem gateDies_spec (l : List Nat) : ∀ s : State, (s.gateDies l).mem = s.mem ∧ (s.gateDies l).pkg = s.pkg ∧
    ∀ d, (d ∈ l ∨ (s.die d).gate = .gated) → ((s.gateDies l).die d).gate = .gated := by
  induction l with
  | nil => exact fun s => ⟨rfl, rfl, fun d h => h.resolve_left List.not_mem_nil⟩
  | cons e l ih =>
    intro s
    obtain ⟨kmem, kpkg, kgate⟩ := gateDie_spec s e
    obtain ⟨hmem, hpkg, hgate⟩ := ih (s.gateDie e)
    rw [gateDies_cons]
    refine ⟨hmem.trans kmem, hpkg.trans kpkg, fun d h => hgate d ?_⟩
    rw [kgate, List.mem_cons] at *
    by_cases hd : d = e <;> simp_all

theorem mem_keys_of_tget {α : Type} {t : Tab α} {i : Nat} (h : (tget t i).isSome = true) : i ∈ t.map (·.1) := by
  induction t with
  | nil => cases h
  | cons e t ih =>
    obtain ⟨k, v⟩ := e
    rw [tget] at h
    rw [List.map_cons, List.mem_cons]
    split at h
    · exact .inl ‹_›
    · exact .inr (ih h)

/-! Step records (01 R34). -/

theorem stepRecOf_word {r : StepRec} (h1 : r.step < 2 ^ 8) (h2 : r.st < 2 ^ 4) (h3 : r.tries < 2 ^ 3) (h4 : r.time < 2 ^ 32) :
    stepRecOf r.word = { r with result := r.result % 2 ^ 16 } := by
  obtain ⟨step, st, alt, tries, result, time⟩ := r
  dsimp only at h1 h2 h3 h4
  have hw : (StepRec.word ⟨step, st, alt, tries, result, time⟩).toNat =
      step + st * 2 ^ 8 + b2n alt * 2 ^ 12 + tries * 2 ^ 13 + result % 2 ^ 16 * 2 ^ 16 + time * 2 ^ 32 := by
    have : b2n alt ≤ 1 := by cases alt <;> decide
    rw [StepRec.word, BitVec.toNat_ofNat, Nat.mod_eq_of_lt (by dsimp only; omega)]
  simp only [stepRecOf, hw, bits, StepRec.mk.injEq, bitAt]
  cases alt <;> refine ⟨?_, ?_, ?_, ?_, ?_, ?_⟩ <;> simp only [b2n, beq_iff_eq, beq_eq_false_iff_ne] <;> simp <;> omega

@[simp] theorem stepRecOf_zero : stepRecOf 0 = {} := by decide

theorem stepRec_putRec {s : State} {k j : Nat} {r : StepRec} (hk : 1 ≤ k) (hj : 1 ≤ j) (hlen : k ≤ s.pkg.steps.length) :
    (s.putRec k r).stepRec j = if j = k then stepRecOf r.word else s.stepRec j := by
  simp only [State.stepRec, State.putRec, List.getD_eq_getElem?_getD, List.getElem?_set]
  by_cases h : j = k
  · subst h
    rw [if_pos rfl, if_pos rfl, if_pos (by omega), Option.getD_some]
  · rw [if_neg h, if_neg (by omega)]

theorem stepRec_congr {s t : State} (h : t.pkg.steps = s.pkg.steps) (j : Nat) : t.stepRec j = s.stepRec j := by
  rw [State.stepRec, h, State.stepRec]

/-! What depends on the excluded units alone. -/

theorem exps_congr {s t : State} (h : t.pkg.exDies = s.pkg.exDies) (h' : t.pkg.exExp = s.pkg.exExp) : t.exps = s.exps := by
  simp only [State.exps, h, h']

theorem inReserve_congr {s t : State} (h : t.pkg.exDies = s.pkg.exDies) (h' : t.pkg.exExp = s.pkg.exExp) (pa : Nat) :
    t.inReserve pa = s.inReserve pa := by
  unfold State.inReserve State.reserveGiB
  rw [exps_congr h h']

theorem routeTables_congr {s t : State} (h : t.pkg.exDies = s.pkg.exDies) : t.routeTables = s.routeTables := by
  have hinc : t.included = s.included := by funext d; simp only [State.included, h]
  have hlinks : t.links = s.links := by funext d; simp only [State.links, hinc]
  have hdist (n : Nat) : ∀ d, t.distances d n = s.distances d n := by
    induction n with
    | zero => exact fun _ => rfl
    | succ n ih => intro d; simp only [State.distances, State.farther, ih, hlinks]
  simp only [State.routeTables, State.linkToward, hdist, hlinks]

/-! A boot in which the units of a step do not fail (01 R32 to R35). -/

/-- Only the package, the link and the model's own data differ, and no checkpoint. -/
def BootKeeps (s t : State) : Prop := t = { s with pkg := t.pkg, link := t.link, run := t.run } ∧ t.pkg.ckpt = s.pkg.ckpt

theorem BootKeeps.refl (s : State) : BootKeeps s s := ⟨rfl, rfl⟩

theorem BootKeeps.trans {s t u : State} (h : BootKeeps s t) (k : BootKeeps t u) : BootKeeps s u :=
  ⟨by rw [k.1, h.1], k.2.trans h.2⟩

theorem BootKeeps.mem {s t : State} (h : BootKeeps s t) : t.mem = s.mem := (congrArg State.mem h.1).trans rfl
theorem BootKeeps.x {s t : State} (h : BootKeeps s t) : t.x = s.x := (congrArg State.x h.1).trans rfl
theorem BootKeeps.now {s t : State} (h : BootKeeps s t) : t.now = s.now := (congrArg State.now h.1).trans rfl
theorem BootKeeps.agents {s t : State} (h : BootKeeps s t) : t.agents = s.agents := (congrArg State.agents h.1).trans rfl
theorem BootKeeps.vds {s t : State} (h : BootKeeps s t) : t.vds = s.vds := (congrArg State.vds h.1).trans rfl
theorem BootKeeps.grids {s t : State} (h : BootKeeps s t) : t.grids = s.grids := (congrArg State.grids h.1).trans rfl
theorem BootKeeps.teams {s t : State} (h : BootKeeps s t) : t.teams = s.teams := (congrArg State.teams h.1).trans rfl
theorem BootKeeps.pods {s t : State} (h : BootKeeps s t) : t.pods = s.pods := (congrArg State.pods h.1).trans rfl

theorem putRec_keeps (s : State) (k : Nat) (r : StepRec) : BootKeeps s (s.putRec k r) := ⟨rfl, rfl⟩

/-- Nothing is excluded. -/
def Whole (s : State) : Prop := s.pkg.exDies = 0 ∧ s.pkg.exExp = 0 ∧ s.pkg.harvest = 0

theorem Whole.config {s : State} (h : Whole s) : s.config = (0, 0, 0) := by
  obtain ⟨h1, h2, h3⟩ := h
  rw [State.config, h1, h2, h3]

theorem Whole.nDiesOn {s : State} (h : Whole s) : s.nDiesOn = upFrom 0 8 := by
  rw [State.nDiesOn, h.1]; decide

theorem Whole.unitsOk {s : State} (h : Whole s) : s.unitsOk = true := by
  rw [State.unitsOk, State.nDiesOn, State.exps, h.1, h.2.1]; decide

/-- A boot has come to step `k`: the steps before it are DONE by their primary methods, those from it on have not run. -/
structure Booting (s : State) (k : Nat) : Prop where
  len : s.pkg.steps.length = 16
  done : ∀ j, 1 ≤ j → j < k → (s.stepRec j).st = 2 ∧ (s.stepRec j).step = j ∧ (s.stepRec j).tries = 1 ∧
    (s.stepRec j).alt = false ∧ (j ≠ 8 → (s.stepRec j).result = 0)
  rest : ∀ j, k ≤ j → j ≤ 10 → s.stepRec j = {}
  ready : s.pkg.ready = false
  fatal : s.pkg.fatal = false
  whole : Whole s
  home : 7 < k → s.pkg.home = upFrom 0 8 ∧ s.pkg.routes = s.routeTables
  link : 9 < k → s.link.st = 2

theorem planFails_none {p : BootPlan} {k : Nat} (h : p.prim.getD (k - 1) 0 = 0) (u : Nat) :
    planFails p k .primary u = (0, false) := by
  have h0 : (planUnits p k).1 = 0 := by
    have hh : harvestable 0 = 0 := by simp [harvestable, bits, setBitsFrom, bitAt, upFrom]
    simp only [planUnits, h, Nat.zero_min, Nat.zero_and, hh, ite_self]
  simp only [planFails, h0, if_true]

/-- The records of steps that have not failed exclude nothing. -/
theorem Booting.excludes {s : State} {k : Nat} (h : Booting s k) :
    (if k = 7 then { s with pkg := { s.pkg with exDies := s.excluded } } else s) = s := by
  split
  · next h7 =>
    subst h7
    have hr (j : Nat) (h1 : 1 ≤ j) (h7 : j < 7) : (s.stepRec j).result = 0 := (h.done j h1 h7).2.2.2.2 (by omega)
    have hx : s.excluded = s.pkg.exDies := by
      rw [State.excluded, hr 1 (by decide) (by decide), hr 3 (by decide) (by decide), hr 4 (by decide) (by decide), h.whole.1]
      rfl
    rw [hx]
  · rfl

/-- The record of a step run for the first time, by its primary method. -/
def State.firstRec (s : State) (k st result : Nat) : StepRec :=
  { step := k, st, alt := false, tries := 1, result, time := s.now / 1024 % 2 ^ 32 }

theorem stepRecOf_firstRec {s : State} {k st : Nat} (hk : k ≤ 10) (hst : st < 16) (result : Nat) :
    stepRecOf (s.firstRec k st result).word = s.firstRec k st (result % 2 ^ 16) :=
  stepRecOf_word (show k < 2 ^ 8 by omega) hst (show 1 < 2 ^ 3 by decide) (Nat.mod_lt _ (by decide))

/-- A step whose record is empty and whose primary method does not fail, from the start of its work. -/
theorem runStep_done {s : State} {p : BootPlan} {k : Nat} (hb : Booting s k) (h10 : k ≤ 10)
    (hp : p.prim.getD (k - 1) 0 = 0) (hc : p.cut ≠ k) : ∃ slow t, t = s.putRec k (s.firstRec k 1 0) ∧
      s.runStep p k .primary = (.done, (t.stepWork k 0 slow false).2.putRec k
        (s.firstRec k 2 (t.stepWork k 0 slow false).1)) := by
  have hu : ¬(k = 7 ∧ (!s.unitsOk) = true) := by simp [hb.whole.unitsOk]
  have hh : halts k 0 = false := by unfold halts; split <;> rfl
  refine ⟨planSlow p k .primary (s.pkg.tried.getD (k - 1) 0), _, rfl, ?_⟩
  simp only [State.runStep, planFails_none hp, hb.excludes, hb.rest k (Nat.le_refl _) h10, if_neg hu, hc, false_and, if_false, hh,
    Bool.false_eq_true, if_true]
  rfl

/-- A step cut short is RUNNING. -/
theorem runStep_cut {s : State} {p : BootPlan} {k : Nat} (hb : Booting s k) (h1 : 1 ≤ k) (h10 : k ≤ 10)
    (hp : p.prim.getD (k - 1) 0 = 0) (hc : p.cut = k) (hf : p.cutFailed = false) : ∃ t, s.runStep p k .primary = (.cut, t) ∧
      t.pkg.ready = false ∧ t.pkg.fatal = false ∧ (t.stepRec k).st = 1 ∧ (t.stepRec k).tries = 1 := by
  have hu : ¬(k = 7 ∧ (!s.unitsOk) = true) := by simp [hb.whole.unitsOk]
  have hrun : s.runStep p k .primary = (.cut, ((s.putRec k (s.firstRec k 1 0)).putRec k
      (planCut p k .primary false (s.pkg.tried.getD (k - 1) 0) (s.firstRec k 1 0))).putTried k
      (planLeft p k .primary (s.pkg.tried.getD (k - 1) 0)
        (planCut p k .primary false (s.pkg.tried.getD (k - 1) 0) (s.firstRec k 1 0)))) := by
    simp only [State.runStep, planFails_none hp, hb.excludes, hb.rest k (Nat.le_refl _) h10, if_neg hu, hc, true_and, ne_eq,
      reduceCtorEq, not_false_eq_true, if_true, if_false]
    rfl
  have hcut : ∃ n, planCut p k .primary false (s.pkg.tried.getD (k - 1) 0) (s.firstRec k 1 0) = s.firstRec k 1 n := by
    simp only [planCut, hf, Bool.false_and, Bool.false_eq_true, if_false]
    exact ⟨_, rfl⟩
  obtain ⟨n, hn⟩ := hcut
  have hrec : (((s.putRec k (s.firstRec k 1 0)).putRec k (s.firstRec k 1 n)).stepRec k) = s.firstRec k 1 (n % 2 ^ 16) := by
    rw [stepRec_putRec h1 h1 (by simp [State.putRec, hb.len]; omega), if_pos rfl, stepRecOf_firstRec h10 (by decide)]
  rw [hn] at hrun
  exact ⟨_, hrun, hb.ready, hb.fatal, (congrArg StepRec.st hrec).trans rfl, (congrArg StepRec.tries hrec).trans rfl⟩

/-- A step that needs a unit that fails is FATAL. -/
theorem runStep_halted {s : State} {p : BootPlan} {k f : Nat} {alt : Bool} (hb : Booting s k) (h1 : 1 ≤ k) (h10 : k ≤ 10)
    (hp : ∀ u, planFails p k .primary u = (f, alt)) (hc : p.cut ≠ k) (hh : halts k f = true) :
    ∃ t, s.runStep p k .primary = (.halted, t) ∧ t.pkg.ready = false ∧ (t.stepRec k).st = 5 := by
  have hu : ¬(k = 7 ∧ (!s.unitsOk) = true) := by simp [hb.whole.unitsOk]
  have hrun : ∃ (t : State) (n : Nat), s.runStep p k .primary = (.halted, t.putRec k { s.firstRec k 5 n with alt }) ∧ t.pkg.ready = false ∧
      t.pkg.steps.length = 16 := by
    refine ⟨(s.putRec k { s.firstRec k 1 0 with alt }).fresh.2, if unitMask k = 1 then Config.freeNat s.run.free else f,
      ?_, hb.ready, by simp [State.putRec, hb.len]⟩
    simp only [State.runStep, hp, hb.excludes, hb.rest k (Nat.le_refl _) h10, if_neg hu, hc, false_and, if_false, hh, if_true]
    rfl
  obtain ⟨t, n, hrun, hready, hlen⟩ := hrun
  refine ⟨_, hrun, hready, ?_⟩
  rw [stepRec_putRec h1 h1 (by omega), if_pos rfl,
    stepRecOf_word (show k < 2 ^ 8 by omega) (show 5 < 2 ^ 4 by decide) (show 1 < 2 ^ 3 by decide) (Nat.mod_lt _ (by decide))]
  rfl

/-! The work of the steps. -/

/-- A link that trains by its primary method has its full width (01 R32). -/
theorem linkTrained_spec (s : State) : BootKeeps s (s.linkTrained false) ∧ (s.linkTrained false).pkg = s.pkg ∧
    (s.linkTrained false).link.st = 2 := by
  simp only [State.linkTrained, Bool.false_eq_true, if_false]
  split
  · next h => exact ⟨BootKeeps.refl s, rfl, h⟩
  · exact ⟨⟨rfl, rfl⟩, rfl, rfl⟩

/-- What the work of a step other than the restore leaves, where nothing has failed. -/
theorem stepWork_spec (s : State) {k : Nat} (h1 : 1 ≤ k) (h10 : k ≤ 10) (h8 : k ≠ 8) (slow : Nat) (hw : Whole s) :
    ∃ t, s.stepWork k 0 slow false = (0, t) ∧ BootKeeps s t ∧ t.pkg.steps = s.pkg.steps ∧ t.pkg.ready = s.pkg.ready ∧
      t.pkg.fatal = s.pkg.fatal ∧ Whole t ∧
      (k = 7 → t.pkg.home = s.nDiesOn ∧ t.pkg.routes = s.routeTables) ∧
      (k ≠ 7 → t.pkg.home = s.pkg.home ∧ t.pkg.routes = s.pkg.routes) ∧
      (k = 9 → t.link.st = 2) ∧ (k ≠ 9 → t.link = s.link) := by
  obtain ⟨hk, hpkg, hst⟩ := linkTrained_spec s
  obtain ⟨w1, w2, w3⟩ := hw
  have hcases : (k = 1 ∨ k = 2 ∨ k = 3 ∨ k = 4 ∨ k = 10) ∨ k = 5 ∨ k = 6 ∨ k = 7 ∨ k = 9 := by omega
  rcases hcases with (rfl | rfl | rfl | rfl | rfl) | rfl | rfl | rfl | rfl
  case inr.inl =>
    exact ⟨_, rfl, ⟨rfl, rfl⟩, rfl, rfl, rfl, ⟨w1, rfl, w3⟩, by omega, fun _ => ⟨rfl, rfl⟩, by omega, fun _ => rfl⟩
  case inr.inr.inl =>
    exact ⟨_, rfl, ⟨rfl, rfl⟩, rfl, rfl, rfl, ⟨w1, w2, rfl⟩, by omega, fun _ => ⟨rfl, rfl⟩, by omega, fun _ => rfl⟩
  case inr.inr.inr.inl =>
    exact ⟨_, rfl, ⟨rfl, rfl⟩, rfl, rfl, rfl, ⟨w1, w2, w3⟩, fun _ => ⟨rfl, rfl⟩, by omega, by omega, fun _ => rfl⟩
  case inr.inr.inr.inr =>
    refine ⟨_, rfl, hk, ?_, ?_, ?_, ?_, by omega, fun _ => ?_, fun _ => hst, by omega⟩ <;> simp only [Whole, hpkg, w1, w2, w3, and_self]
  all_goals
    exact ⟨_, rfl, ⟨rfl, rfl⟩, rfl, rfl, rfl, ⟨w1, w2, w3⟩, by omega, fun _ => ⟨rfl, rfl⟩, by omega, fun _ => rfl⟩

/-! The restore of step 8 (01 R41): the package, but for the checkpoint, and the link's state are as they were. -/

/-- The package, the link's state and the units of work are as they were. -/
def KeepsUnits (s t : State) : Prop :=
  t.pkg = s.pkg ∧ t.link.st = s.link.st ∧ t.grids = s.grids ∧ t.teams = s.teams ∧ t.pods = s.pods

theorem KeepsUnits.refl (s : State) : KeepsUnits s s := ⟨rfl, rfl, rfl, rfl, rfl⟩

theorem KeepsUnits.trans {s t u : State} (h : KeepsUnits s t) (k : KeepsUnits t u) : KeepsUnits s u :=
  ⟨k.1.trans h.1, k.2.1.trans h.2.1, k.2.2.1.trans h.2.2.1, k.2.2.2.1.trans h.2.2.2.1, k.2.2.2.2.trans h.2.2.2.2⟩

theorem freeImage_keeps (s : State) (m : Nat) : KeepsUnits s (s.freeImage m) := by
  unfold State.freeImage
  dsimp only
  split <;> exact ⟨rfl, rfl, rfl, rfl, rfl⟩

theorem freeImages_keeps (l : List Nat) : ∀ s : State, KeepsUnits s (s.freeImages l) := by
  induction l with
  | nil => exact KeepsUnits.refl
  | cons m l ih => exact fun s => (freeImage_keeps s m).trans (ih _)

theorem unbindImage_keeps (s : State) (m : Nat) : KeepsUnits s (s.unbindImage m) := by
  unfold State.unbindImage
  dsimp only
  split
  · exact freeImage_keeps s m
  · exact ⟨rfl, rfl, rfl, rfl, rfl⟩

theorem unbindImages_keeps (l : List Nat) : ∀ s : State, KeepsUnits s (s.unbindImages l) := by
  induction l with
  | nil => exact KeepsUnits.refl
  | cons m l ih => exact fun s => (unbindImage_keeps s m).trans (ih _)

theorem checkImages_keeps (s : State) : KeepsUnits s s.checkImages := by
  unfold State.checkImages
  dsimp only
  refine (KeepsUnits.trans ?_ (freeImages_keeps _ _)).trans (unbindImages_keeps _ _)
  exact ⟨rfl, rfl, rfl, rfl, rfl⟩

theorem sendSnoop_keeps (s : State) (line : Nat) (b : Bool) : KeepsUnits s (s.sendSnoop line b) := by
  unfold State.sendSnoop
  split <;> exact ⟨rfl, rfl, rfl, rfl, rfl⟩

theorem sendSnoops_keeps (l : List Nat) (b : Bool) : ∀ s : State, KeepsUnits s (l.foldl (fun s k => s.sendSnoop k b) s) := by
  induction l with
  | nil => exact KeepsUnits.refl
  | cons k l ih => exact fun s => (sendSnoop_keeps s k b).trans (ih _)

theorem claimLines_keeps (s : State) (pa n : Nat) : KeepsUnits s (s.claimLines pa n) := by
  unfold State.claimLines
  split
  · exact KeepsUnits.refl s
  · exact (sendSnoops_keeps _ _ s).trans ⟨rfl, rfl, rfl, rfl, rfl⟩

theorem zeroGranule_keeps (s : State) (g : Nat) : KeepsUnits s (s.zeroGranule g) :=
  (claimLines_keeps s (granuleBase g) (2 ^ 30)).trans ⟨rfl, rfl, rfl, rfl, rfl⟩

theorem zeroGranules_keeps (l : List Nat) : ∀ s : State, KeepsUnits s (s.zeroGranules l) := by
  induction l with
  | nil => exact KeepsUnits.refl
  | cons g l ih => exact fun s => (zeroGranule_keeps s g).trans (ih _)

/-- What a checkpoint that is restored leaves of the package, and puts back of grids, teams and pods. -/
theorem restoreFrom_spec (s : State) (c : Ckpt) :
    (s.restoreFrom c).pkg = { s.pkg with ckpt := { c with valid := false } } ∧ (s.restoreFrom c).link.st = s.link.st ∧
      (s.restoreFrom c).grids = c.grids ∧ (s.restoreFrom c).teams = c.teams ∧ (s.restoreFrom c).pods = c.pods := by
  obtain ⟨zpkg, zst, -, -, -⟩ := zeroGranules_keeps (tkeys c.owner fun o => o == 0xFD) s.readNear.writeHeader
  have hcheck (t : State) (hpkg : t.pkg = { s.pkg with ckpt := { c with valid := false } }) (hst : t.link.st = s.link.st)
      (hg : t.grids = c.grids) (ht : t.teams = c.teams) (hp : t.pods = c.pods) :
      t.checkImages.pkg = { s.pkg with ckpt := { c with valid := false } } ∧ t.checkImages.link.st = s.link.st ∧
        t.checkImages.grids = c.grids ∧ t.checkImages.teams = c.teams ∧ t.checkImages.pods = c.pods := by
    obtain ⟨kpkg, kst, kg, kt, kp⟩ := checkImages_keeps t
    exact ⟨kpkg.trans hpkg, kst.trans hst, kg.trans hg, kt.trans ht, kp.trans hp⟩
  unfold State.restoreFrom
  dsimp only
  exact hcheck _ (by dsimp only; rw [zpkg]; rfl) (by dsimp only; rw [zst]; rfl) rfl rfl rfl

theorem restoreStep_pkg (s : State) : (s.restoreStep false).2.pkg = { s.pkg with ckpt := (s.restoreStep false).2.pkg.ckpt } ∧
    (s.restoreStep false).2.link.st = s.link.st := by
  unfold State.restoreStep
  dsimp only
  split
  · exact ⟨rfl, rfl⟩
  · split
    · obtain ⟨hpkg, hst, -⟩ := restoreFrom_spec s s.pkg.ckpt
      exact ⟨by rw [hpkg], hst⟩
    · exact ⟨rfl, rfl⟩

/-! The steps of a boot one after the other. -/

/-- Step `k` done: what was known of the steps before it holds of one more, from how the work of the step changes the state. -/
theorem Booting.next {s t : State} {k result : Nat} (hb : Booting s k) (h1 : 1 ≤ k) (h10 : k ≤ 10) (h8 : k ≠ 8 → result = 0)
    (hsteps : t.pkg.steps = (s.putRec k (s.firstRec k 1 0)).pkg.steps) (hready : t.pkg.ready = false) (hfatal : t.pkg.fatal = false)
    (hwhole : Whole t) (h7 : k = 7 → t.pkg.home = upFrom 0 8 ∧ t.pkg.routes = s.routeTables)
    (h7' : k ≠ 7 → t.pkg.home = s.pkg.home ∧ t.pkg.routes = s.pkg.routes)
    (h9 : k = 9 → t.link.st = 2) (h9' : k ≠ 9 → t.link.st = s.link.st) :
    Booting (t.putRec k (s.firstRec k 2 result)) (k + 1) ∧
      (t.putRec k (s.firstRec k 2 result)).stepRec k = s.firstRec k 2 (result % 2 ^ 16) ∧
      ∀ j, 1 ≤ j → j ≠ k → (t.putRec k (s.firstRec k 2 result)).stepRec j = s.stepRec j := by
  have hlen : t.pkg.steps.length = 16 := by rw [hsteps]; simp [State.putRec, hb.len]
  have hrec (j : Nat) (hj : 1 ≤ j) : (t.putRec k (s.firstRec k 2 result)).stepRec j =
      if j = k then s.firstRec k 2 (result % 2 ^ 16) else s.stepRec j := by
    rw [stepRec_putRec h1 hj (by omega), stepRecOf_firstRec h10 (by decide), stepRec_congr hsteps,
      stepRec_putRec h1 hj (by rw [hb.len]; omega)]
    split <;> rfl
  have hroutes : (t.putRec k (s.firstRec k 2 result)).routeTables = s.routeTables :=
    routeTables_congr (hwhole.1.trans hb.whole.1.symm)
  refine ⟨⟨?_, fun j hj hk => ?_, fun j hj h => ?_, hready, hfatal, hwhole, fun h => ?_, fun h => ?_⟩, ?_, fun j hj hk => ?_⟩
  · rw [State.putRec]; simp [hlen]
  · rw [hrec j hj]
    split
    · next he => subst he; exact ⟨rfl, rfl, rfl, rfl, fun h => by rw [h8 h]; rfl⟩
    · exact hb.done j hj (by omega)
  · rw [hrec j (by omega), if_neg (by omega)]
    exact hb.rest j (by omega) h
  · rw [hroutes]
    by_cases hk : k = 7
    · exact h7 hk
    · rw [← (hb.home (by omega)).1, ← (hb.home (by omega)).2]
      exact h7' hk
  · by_cases hk : k = 9
    · exact h9 hk
    · exact (h9' hk).trans (hb.link (by omega))
  · rw [hrec k h1, if_pos rfl]
  · rw [hrec j hj, if_neg hk]

theorem putRec_whole {s : State} (h : Whole s) (k : Nat) (r : StepRec) : Whole (s.putRec k r) := h

/-- A step other than the restore. -/
theorem runStep_next {s : State} {p : BootPlan} {k : Nat} (hb : Booting s k) (h1 : 1 ≤ k) (h10 : k ≤ 10) (h8 : k ≠ 8)
    (hp : p.prim.getD (k - 1) 0 = 0) (hc : p.cut ≠ k) : ∃ t, s.runStep p k .primary = (.done, t) ∧ Booting t (k + 1) ∧
      BootKeeps s t ∧ ∀ j, 1 ≤ j → j ≠ k → t.stepRec j = s.stepRec j := by
  obtain ⟨slow, b, hbegun, hrun⟩ := runStep_done hb h10 hp hc
  obtain ⟨t, ht, hk, hsteps, hready, hfatal, hwhole, h7, h7', h9, h9'⟩ :=
    stepWork_spec b h1 h10 h8 slow (hbegun ▸ putRec_whole hb.whole _ _)
  rw [ht] at hrun
  subst hbegun
  obtain ⟨hnext, -, hother⟩ := hb.next (t := t) (result := 0) h1 h10 (fun _ => rfl) hsteps (hready.trans hb.ready)
    (hfatal.trans hb.fatal) hwhole (fun h => (h7 h).imp (fun h => h.trans hb.whole.nDiesOn) id) h7' h9 fun h => by rw [h9' h]; rfl
  exact ⟨_, hrun, hnext, ((putRec_keeps s k _).trans hk).trans (putRec_keeps t k _), hother⟩

/-- The restore, from the state that has come to it. -/
def Restored (s t : State) : Prop :=
  ∃ b, BootKeeps s b ∧ Whole b ∧ BootKeeps (b.restoreStep false).2 t ∧ (t.stepRec 8).result = (b.restoreStep false).1 % 2 ^ 16

theorem runStep_restore {s : State} {p : BootPlan} (hb : Booting s 8) (hp : p.prim.getD 7 0 = 0) (hc : p.cut ≠ 8) :
    ∃ t, s.runStep p 8 .primary = (.done, t) ∧ Booting t 9 ∧ Restored s t := by
  obtain ⟨slow, b, hbegun, hrun⟩ := runStep_done hb (by decide) hp hc
  have hwork : b.stepWork 8 0 slow false = b.restoreStep false := rfl
  obtain ⟨hpkg, hst⟩ := restoreStep_pkg b
  have hwb : Whole b := hbegun ▸ putRec_whole hb.whole _ _
  have hwhole : Whole (b.restoreStep false).2 := by rw [Whole, hpkg]; exact hwb
  rw [hwork] at hrun
  obtain ⟨hnext, hrec, -⟩ := hb.next (t := (b.restoreStep false).2) (result := (b.restoreStep false).1) (by decide) (by decide)
    (fun h => absurd rfl h) (by rw [hpkg, hbegun]) (by rw [hpkg, hbegun]; exact hb.ready) (by rw [hpkg, hbegun]; exact hb.fatal)
    hwhole (fun h => by omega) (fun _ => by rw [hpkg, hbegun]; exact ⟨rfl, rfl⟩) (fun h => by omega)
    (fun _ => by rw [hst, hbegun]; rfl)
  exact ⟨_, hrun, hnext, b, hbegun ▸ putRec_keeps s 8 _, hwb, putRec_keeps _ _ _, by rw [hrec]; rfl⟩

/-! A boot from a cold power-up (01 R32 to R35). -/

theorem mode_of_unrun {s : State} {k : Nat} (h : s.stepRec k = {}) (again : List Nat) :
    (if (s.stepRec k).mode = .skip ∧ again.any (dependsOn k) = true then StepMode.primary else (s.stepRec k).mode) = .primary := by
  rw [h]
  exact if_neg fun h => by cases h.1

theorem runSteps_next {s t : State} {p : BootPlan} {again ks : List Nat} {k : Nat} (h : s.stepRec k = {})
    (hr : s.runStep p k .primary = (.done, t)) : s.runSteps p again (k :: ks) = t.runSteps p (k :: again) ks := by
  simp only [State.runSteps, mode_of_unrun h, hr]

theorem runSteps_stop {s t : State} {p : BootPlan} {again ks : List Nat} {k : Nat} {e : BootEnd} (h : s.stepRec k = {})
    (he : e ≠ .done) (hr : s.runStep p k .primary = (e, t)) : s.runSteps p again (k :: ks) = (e, t) := by
  cases e with
  | done => exact absurd rfl he
  | halted => simp only [State.runSteps, mode_of_unrun h, hr]
  | cut => simp only [State.runSteps, mode_of_unrun h, hr]

theorem upFrom_steps {k : Nat} (h : k ≤ 10) : upFrom k (11 - k) = k :: upFrom (k + 1) (11 - (k + 1)) := by
  rw [show 11 - k = (11 - (k + 1)) + 1 by omega, upFrom]

/-- A boot whose steps before one do not fail comes to that step, past the restore if it lies before. -/
theorem runSteps_reaches {s : State} {p : BootPlan} (hs : Booting s 1) {k : Nat} (h1 : 1 ≤ k) (h11 : k ≤ 11)
    (hp : ∀ j, 1 ≤ j → j < k → p.prim.getD (j - 1) 0 = 0) (hc : ∀ j, 1 ≤ j → j < k → p.cut ≠ j) :
    ∃ t again, s.runSteps p [] (upFrom 1 10) = t.runSteps p again (upFrom k (11 - k)) ∧ Booting t k ∧
      (k ≤ 8 → BootKeeps s t) ∧ (8 < k → Restored s t) := by
  induction h1 with
  | refl => exact ⟨s, [], rfl, hs, fun _ => BootKeeps.refl s, fun h => by omega⟩
  | @step k h1 ih =>
    obtain ⟨t, again, hrun, hb, hlow, hhigh⟩ := ih (by omega) (fun j hj h => hp j hj (by omega)) fun j hj h => hc j hj (by omega)
    have hun := hb.rest k (Nat.le_refl _) (by omega)
    by_cases h8 : k = 8
    · subst h8
      obtain ⟨u, hu, hbu, b, hsb, hres⟩ := runStep_restore hb (hp 8 h1 (by omega)) (hc 8 h1 (by omega))
      refine ⟨u, 8 :: again, ?_, hbu, fun h => by omega, fun _ => ⟨b, (hlow (Nat.le_refl _)).trans hsb, hres⟩⟩
      rw [hrun, upFrom_steps (by omega), runSteps_next hun hu]
    · obtain ⟨u, hu, hbu, hk, hother⟩ := runStep_next hb h1 (by omega) h8 (hp k h1 (by omega)) (hc k h1 (by omega))
      refine ⟨u, k :: again, ?_, hbu, fun h => (hlow (by omega)).trans hk, fun h => ?_⟩
      · rw [hrun, upFrom_steps (by omega), runSteps_next hun hu]
      · obtain ⟨b, hsb, hwb, hbt, hres⟩ := hhigh (by omega)
        exact ⟨b, hsb, hwb, hbt.trans hk, by rw [hother 8 (by decide) (Ne.symm h8), hres]⟩

theorem afterReset_booting (s : State) : Booting (s.afterReset true true) 1 := by
  have hrec (j : Nat) : (s.afterReset true true).stepRec j = {} := by
    have h : (List.replicate 16 (0 : DWord)).getD (j - 1) 0 = 0 := by
      rw [List.getD_eq_getElem?_getD, List.getElem?_replicate]
      split <;> rfl
    exact (congrArg stepRecOf h).trans stepRecOf_zero
  exact ⟨rfl, fun j hj h => by omega, fun j _ _ => hrec j, rfl, rfl, ⟨rfl, rfl, rfl⟩, fun h => by omega, fun h => by omega⟩

/-- The state a boot leaves, by how its steps end. -/
def State.bootEnded (t : State) : BootEnd → State
  | .halted => { t with pkg := { t.pkg with fatal := true } }
  | .cut => t
  | .done => t.makeUp

/-- A cold boot that keeps what stood in the far tier. -/
theorem exec_boot_of {s t : State} {p : BootPlan} {e : BootEnd} (hcold : p.cold = true) (hkept : p.kept = true)
    (h : (s.afterReset true true).runSteps p [] (upFrom 1 10) = (e, t)) : exec (.boot p) s = .next (t.bootEnded e) := by
  show execBoot p s = _
  simp only [execBoot, hcold, hkept, h]
  cases e <;> rfl

/-! The package made ready (01 R32 step 10). -/

theorem makeUp_eq {t : State} (hb : Booting t 11) : t.makeUp =
    { t with
      mem := if t.x.owner.isEmpty then t.mem.filter (fun c => t.inReserve c.1) else t.mem
      sideCache := t.makeUp.sideCache, pkg := { t.pkg with ready := true }, dies := t.makeUp.dies, x := t.makeUp.x } ∧
    t.makeUp.dies = ((upFrom 0 12).filter fun d => !bitAt t.pkg.exDies d).map fun d => (d, { gate := .on }) := by
  have ha : (t.stepRec 9).alt = false := (hb.done 9 (by decide) (by decide)).2.2.2.1
  have hl : t.linkTrained false = t := by
    simp only [State.linkTrained, Bool.false_eq_true, if_false, if_pos (hb.link (by decide))]
  rw [State.makeUp, ha, hl]
  split <;> exact ⟨rfl, rfl⟩

theorem makeUp_gate {t : State} (hb : Booting t 11) {d : Nat} (hd : d < 12) : (t.makeUp.die d).gate = .on := by
  have hall : ∀ d, d < 12 →
      (tgetD (((upFrom 0 12).filter fun d => !bitAt 0 d).map fun d => (d, ({ gate := .on } : Die))) d {}).gate = .on := by decide
  rw [State.die, (makeUp_eq hb).2, hb.whole.1]
  exact hall d hd

/-- The package is ready, nothing is excluded, and every step is DONE at its first attempt. -/
def State.Made (u : State) : Prop := u.pkg.ready = true ∧ u.pkg.fatal = false ∧ u.pkg.exDies = 0 ∧ u.pkg.home = upFrom 0 8 ∧
  u.pkg.routes = u.routeTables ∧ u.link.st = 2 ∧ (∀ d, d < 12 → (u.die d).gate = .on) ∧
  ∀ k, 1 ≤ k → k ≤ 10 → (u.stepRec k).st = 2 ∧ (u.stepRec k).step = k ∧ (u.stepRec k).tries = 1

theorem makeUp_made {t : State} (hb : Booting t 11) : t.makeUp.Made := by
  have hpkg : t.makeUp.pkg = { t.pkg with ready := true } := (congrArg State.pkg (makeUp_eq hb).1).trans rfl
  have hlink : t.makeUp.link = t.link := (congrArg State.link (makeUp_eq hb).1).trans rfl
  obtain ⟨hhome, hroutes⟩ := hb.home (by decide)
  refine ⟨by rw [hpkg], by rw [hpkg]; exact hb.fatal, by rw [hpkg]; exact hb.whole.1, by rw [hpkg]; exact hhome, ?_,
    by rw [hlink]; exact hb.link (by decide), fun d hd => makeUp_gate hb hd, fun k h1 h10 => ?_⟩
  · rw [routeTables_congr (s := t) (by rw [hpkg]), hpkg]; exact hroutes
  · rw [stepRec_congr (s := t) (by rw [hpkg])]
    obtain ⟨hst, hstep, htries, -⟩ := hb.done k h1 (by omega)
    exact ⟨hst, hstep, htries⟩

/-- The plan in which no unit fails. -/
def goodPlan : BootPlan := { cold := true, prim := List.replicate 10 0, alt := List.replicate 10 0 }

theorem getD_replicate_zero (n j : Nat) : (List.replicate n 0).getD j 0 = 0 := by
  rw [List.getD_eq_getElem?_getD, List.getElem?_replicate]
  split <;> rfl

/-- A boot in which no unit fails: the restore, and then the package is ready. -/
theorem exec_boot_good (s : State) : ∃ t, exec (.boot goodPlan) s = .next t.makeUp ∧ Booting t 11 ∧
    Restored (s.afterReset true true) t := by
  obtain ⟨t, again, hrun, hb, -, hres⟩ := runSteps_reaches (p := goodPlan) (afterReset_booting s) (show 1 ≤ 11 by decide) (Nat.le_refl _)
    (fun j _ _ => getD_replicate_zero 10 _) fun j h1 _ => by change 0 ≠ j; omega
  exact ⟨t, exec_boot_of rfl rfl hrun, hb, hres (by decide)⟩

/-- A boot cut short in a step. -/
theorem exec_boot_cut (s : State) {k : Nat} (h1 : 1 ≤ k) (h10 : k ≤ 10) : ∃ u, exec (.boot { goodPlan with cut := k }) s = .next u ∧
    u.pkg.ready = false ∧ u.pkg.fatal = false ∧ (u.stepRec k).st = 1 ∧ (u.stepRec k).tries = 1 := by
  obtain ⟨t, again, hrun, hb, -, -⟩ := runSteps_reaches (p := { goodPlan with cut := k }) (afterReset_booting s) h1 (by omega)
    (fun j _ _ => getD_replicate_zero 10 _) fun j _ h => by change k ≠ j; omega
  obtain ⟨u, hu, hspec⟩ := runStep_cut (p := { goodPlan with cut := k }) hb h1 h10 (getD_replicate_zero 10 _) rfl rfl
  rw [upFrom_steps h10, runSteps_stop (hb.rest k (Nat.le_refl _) h10) (by decide) hu] at hrun
  exact ⟨u, exec_boot_of rfl rfl hrun, hspec⟩

/-- The plan in which both methods of a step fail, in the X-die where units can. -/
def failPlan (k : Nat) : BootPlan :=
  let f := if k = 1 ∨ k = 3 then 2 ^ 12 else 1
  let fs := (List.replicate 10 0).set (k - 1) f
  { cold := true, prim := fs, alt := fs }

theorem failPlan_prim {k j : Nat} (h1 : 1 ≤ j) (h : j < k) : (failPlan k).prim.getD (j - 1) 0 = 0 := by
  have hne : k - 1 ≠ j - 1 := by omega
  rw [failPlan, List.getD_eq_getElem?_getD, List.getElem?_set_ne hne, ← List.getD_eq_getElem?_getD]
  exact getD_replicate_zero 10 _

theorem failPlan_fails {k : Nat} (h1 : 1 ≤ k) (h10 : k ≤ 10) (h4 : k ≠ 4) (h5 : k ≠ 5) (h6 : k ≠ 6) :
    ∃ f alt, (∀ u, planFails (failPlan k) k .primary u = (f, alt)) ∧ halts k f = true := by
  have hcases : k = 1 ∨ k = 2 ∨ k = 3 ∨ k = 7 ∨ k = 8 ∨ k = 9 ∨ k = 10 := by omega
  rcases hcases with rfl | rfl | rfl | rfl | rfl | rfl | rfl
  all_goals exact ⟨_, _, fun _ => rfl, by decide⟩

/-- A boot that needs a unit that fails halts. -/
theorem exec_boot_fail (s : State) {k : Nat} (h1 : 1 ≤ k) (h10 : k ≤ 10) (h4 : k ≠ 4) (h5 : k ≠ 5) (h6 : k ≠ 6) :
    ∃ u, exec (.boot (failPlan k)) s = .next u ∧ u.pkg.ready = false ∧ u.pkg.fatal = true ∧ (u.stepRec k).st = 5 := by
  obtain ⟨t, again, hrun, hb, -, -⟩ := runSteps_reaches (p := failPlan k) (afterReset_booting s) h1 (by omega)
    (fun j h1 h => failPlan_prim h1 h) fun j h1 _ => by change 0 ≠ j; omega
  obtain ⟨f, alt, hf, hh⟩ := failPlan_fails h1 h10 h4 h5 h6
  obtain ⟨u, hu, hready, hst⟩ := runStep_halted hb h1 h10 hf (by change 0 ≠ k; omega) hh
  rw [upFrom_steps h10, runSteps_stop (hb.rest k (Nat.le_refl _) h10) (by decide) hu] at hrun
  exact ⟨u.bootEnded .halted, exec_boot_of rfl rfl hrun, hready, rfl, hst⟩

/-- Memory after a boot that restores nothing: what stood in the reserve. -/
theorem makeUp_zeroed {s t b : State} (hb : Booting t 11) (hsb : BootKeeps (s.afterReset true true) b) (hw : Whole b)
    (hbt : BootKeeps b.zeroTiers t) : t.makeUp.agents = [] ∧ t.makeUp.vds = [] ∧
      ∀ c, c ∈ t.makeUp.mem ↔ c ∈ s.mem ∧ 0x010000000000 ≤ c.1 ∧ t.makeUp.inReserve c.1 = true := by
  have heq := (makeUp_eq hb).1
  have hpkg : t.makeUp.pkg = { t.pkg with ready := true } := (congrArg State.pkg heq).trans rfl
  have hx : t.x.owner = [] := by rw [hbt.x]; exact congrArg XDie.owner hsb.x
  have hmem : t.makeUp.mem = t.mem.filter fun c => t.inReserve c.1 := (congrArg State.mem heq).trans (by dsimp only; rw [hx]; rfl)
  have hr (pa : Nat) : t.makeUp.inReserve pa = t.inReserve pa := inReserve_congr (by rw [hpkg]) (by rw [hpkg]) pa
  have hrb (pa : Nat) : b.inReserve pa = t.inReserve pa :=
    inReserve_congr (hw.1.trans hb.whole.1.symm) (hw.2.1.trans hb.whole.2.1.symm) pa
  refine ⟨((congrArg State.agents heq).trans hbt.agents).trans hsb.agents, ((congrArg State.vds heq).trans hbt.vds).trans hsb.vds,
    fun c => ?_⟩
  have htm : t.mem = (s.mem.filter fun c => decide (0x010000000000 ≤ c.1)).filter fun c => b.inReserve c.1 := by
    rw [hbt.mem, State.zeroTiers, hsb.mem]; rfl
  rw [hmem, htm, List.mem_filter, List.mem_filter, List.mem_filter, hr, hrb, decide_eq_true_eq]
  exact ⟨fun ⟨⟨h, _⟩, hin⟩ => ⟨h.1, h.2, hin⟩, fun ⟨hm, hlo, hin⟩ => ⟨⟨⟨hm, hlo⟩, hin⟩, hin⟩⟩

theorem restoreStep_invalid {s : State} (h : s.pkg.ckpt.valid = false) : s.restoreStep false = (0, s.zeroTiers) := by
  simp [State.restoreStep, h]

theorem restoreStep_mismatch {s : State} (h : s.pkg.ckpt.valid = true) (hc : s.pkg.ckpt.config ≠ s.config) :
    s.restoreStep false = (0x0C11, s.zeroTiers) := by
  simp [State.restoreStep, h, hc]

theorem restoreStep_match {s : State} (h : s.pkg.ckpt.valid = true) (hc : s.pkg.ckpt.config = s.config) :
    s.restoreStep false = (0, s.restoreFrom s.pkg.ckpt) := by
  simp [State.restoreStep, h, hc]

/-- The package after a boot: the checkpoint and the record of step 8 as the restore has left them. -/
theorem makeUp_restored {t : State} (hb : Booting t 11) : t.makeUp.pkg.ckpt = t.pkg.ckpt ∧
    (∀ k, t.makeUp.stepRec k = t.stepRec k) ∧
    t.makeUp.grids = t.grids ∧ t.makeUp.teams = t.teams ∧ t.makeUp.pods = t.pods := by
  have heq := (makeUp_eq hb).1
  have hpkg : t.makeUp.pkg = { t.pkg with ready := true } := (congrArg State.pkg heq).trans rfl
  exact ⟨by rw [hpkg], stepRec_congr (by rw [hpkg]), (congrArg State.grids heq).trans rfl, (congrArg State.teams heq).trans rfl,
    (congrArg State.pods heq).trans rfl⟩

/-- Nothing stands but what the reserve held. -/
def State.Zeroed (s u : State) : Prop := u.agents = [] ∧ u.vds = [] ∧
  ∀ c, c ∈ u.mem ↔ c ∈ s.mem ∧ 0x010000000000 ≤ c.1 ∧ u.inReserve c.1 = true

/-- A boot whose restore zeroes memory, with the result of that step. -/
theorem boot_zeroing (s : State) {n : Nat} (hn : n < 2 ^ 16) (h : ∀ b, BootKeeps (s.afterReset true true) b → Whole b → b.restoreStep false = (n, b.zeroTiers)) :
    ∃ u, exec (.boot goodPlan) s = .next u ∧ u.Made ∧ s.Zeroed u ∧ (u.stepRec 8).result = n ∧ u.pkg.ckpt = s.pkg.ckpt := by
  obtain ⟨t, ht, hb, b, hsb, hw, hbt, hres⟩ := exec_boot_good s
  rw [h b hsb hw] at hbt hres
  obtain ⟨hckpt, hrec, -⟩ := makeUp_restored hb
  exact ⟨_, ht, makeUp_made hb, makeUp_zeroed hb hsb hw hbt, by rw [hrec, hres, Nat.mod_eq_of_lt hn], by rw [hckpt, hbt.2]; exact hsb.2⟩

/-- A checkpoint that matches put back. -/
theorem boot_restored (s : State) (hv : s.pkg.ckpt.valid = true) (hc : s.pkg.ckpt.config = (0, 0, 0)) :
    ∃ u, exec (.boot goodPlan) s = .next u ∧ u.Made ∧ (u.stepRec 8).result = 0 ∧ u.pkg.ckpt.valid = false ∧
      u.grids = s.pkg.ckpt.grids ∧ u.teams = s.pkg.ckpt.teams ∧ u.pods = s.pkg.ckpt.pods := by
  obtain ⟨t, ht, hb, b, hsb, hw, hbt, hres⟩ := exec_boot_good s
  have hbc : b.pkg.ckpt = s.pkg.ckpt := hsb.2
  rw [restoreStep_match (by rw [hbc, hv]) (by rw [hbc, hc, hw.config]), hbc] at hbt hres
  obtain ⟨rpkg, -, rg, rt, rp⟩ := restoreFrom_spec b s.pkg.ckpt
  obtain ⟨hckpt, hrec, hg, hte, hp⟩ := makeUp_restored hb
  exact ⟨_, ht, makeUp_made hb, by rw [hrec, hres]; rfl, by rw [hckpt, hbt.2, rpkg], by rw [hg, hbt.grids, rg],
    by rw [hte, hbt.teams, rt], by rw [hp, hbt.pods, rp]⟩

theorem boot_unrestored (s : State) (hv : s.pkg.ckpt.valid = false) :
    ∃ u, exec (.boot goodPlan) s = .next u ∧ u.Made ∧ s.Zeroed u ∧ (u.stepRec 8).result = 0 ∧ u.pkg.ckpt = s.pkg.ckpt :=
  boot_zeroing s (by decide) fun _ hsb _ => restoreStep_invalid (by rw [hsb.2]; exact hv)

theorem boot_mismatched (s : State) (hv : s.pkg.ckpt.valid = true) (hc : s.pkg.ckpt.config ≠ (0, 0, 0)) :
    ∃ u, exec (.boot goodPlan) s = .next u ∧ u.Made ∧ s.Zeroed u ∧ (u.stepRec 8).result = 0x0C11 ∧ u.pkg.ckpt = s.pkg.ckpt :=
  boot_zeroing s (by decide) fun _ hsb hw => restoreStep_mismatch (by rw [hsb.2]; exact hv) (by rw [hsb.2, hw.config]; exact hc)

/-! The later steps of a checkpoint (01 R38). -/

section
variable {s : State}

theorem checkpoint_saves (h : s.pkg.ckptStage = 1) :
    ∃ u, exec .managementCheckpointCommand s = .next u ∧ u.pkg.ckptStage = 2 := by
  refine ⟨_, exec_checkpoint_step (by omega), ?_⟩
  simp only [State.ckptStep, h]

theorem checkpoint_inFlight (h : s.pkg.ckptStage = 2) (hf : s.settleAll.inFlight = true) :
    exec .managementCheckpointCommand s = .next s.settleAll := by
  rw [exec_checkpoint_step (by omega)]
  simp only [State.ckptStep, h, hf, if_true]

theorem checkpoint_contexts (h : s.pkg.ckptStage = 2) (hf : s.settleAll.inFlight = false) :
    ∃ u : State, exec .managementCheckpointCommand s = .next u ∧
      u = { s.settleAll with pkg := { s.settleAll.pkg with ckptStage := 3 }, run := u.run, mem := u.mem } ∧ NearTo s.settleAll u.mem := by
  have hstep : s.ckptStep = { s.settleAll with
      pkg := { s.settleAll.pkg with ckptStage := 3 }
      run := (s.settleAll.fillRegion 0).run
      mem := (s.settleAll.fillRegion 0).mem } := by
    simp only [State.ckptStep, h, hf, Bool.false_eq_true, if_false]
    rfl
  exact ⟨_, (exec_checkpoint_step (by omega)).trans (congrArg _ hstep), rfl, fillRegion_near _ (by decide)⟩

theorem checkpoint_moving (h : s.pkg.ckptStage = 3) (hm : (s.endMoves s.moves).moves ≠ []) :
    exec .managementCheckpointCommand s = .next (s.endMoves s.moves) := by
  have hm : (s.endMoves s.moves).moves.isEmpty = false := by simpa using hm
  rw [exec_checkpoint_step (by omega)]
  simp only [State.ckptStep, h, hm, Bool.false_eq_true, if_false]

theorem checkpoint_gates (h : s.pkg.ckptStage = 3) (hm : (s.endMoves s.moves).moves = []) :
    ∃ u, exec .managementCheckpointCommand s = .next u ∧ u.pkg.ckptStage = 4 ∧ u.mem = (s.endMoves s.moves).mem ∧
      u.pkg.ckpt = (s.endMoves s.moves).writeContexts.pkg.ckpt ∧
      ∀ d, (tget (s.endMoves s.moves).dies d).isSome = true → (u.die d).gate = .gated := by
  obtain ⟨gmem, gpkg, ggate⟩ := gateDies_spec ((s.endMoves s.moves).dies.map (·.1)) (s.endMoves s.moves).writeContexts
  have hm : (s.endMoves s.moves).moves.isEmpty = true := by simpa using hm
  refine ⟨_, exec_checkpoint_step (by omega), ?_⟩
  simp only [State.ckptStep, h, hm, if_true]
  exact ⟨trivial, gmem, congrArg Pkg.ckpt gpkg, fun d hd => ggate d (.inl (mem_keys_of_tget hd))⟩

theorem checkpoint_near (h : s.pkg.ckptStage = 4) : ∃ u, exec .managementCheckpointCommand s = .next u ∧ u.pkg.ckptStage = 5 ∧
    u.pkg.ckpt.cache = s.sideCache ∧ NearTo s u.mem := by
  refine ⟨_, exec_checkpoint_step (by omega), ?_⟩
  simp only [State.ckptStep, h]
  exact ⟨trivial, rfl, (fillRegion_near s (by decide)).trans (writeNear_near _) rfl⟩

theorem checkpoint_header (h : s.pkg.ckptStage = 5) : ∃ u, exec .managementCheckpointCommand s = .next u ∧ u.pkg.ckptStage = 6 ∧
    u.pkg.ckpt.valid = true ∧ u.pkg.ckpt.config = s.config ∧ u.pkg.ckpt.time = s.now ∧ u.pkg.ckpt.owner = s.x.owner ∧
    NearTo s u.mem := by
  refine ⟨_, exec_checkpoint_step (by omega), ?_⟩
  simp only [State.ckptStep, h]
  exact ⟨trivial, trivial, rfl, rfl, rfl, writeHeader_near s⟩

end

/-- Settles O48: each clause is what one step of the clocks, of a boot or of a checkpoint leaves. -/
theorem clocksAndBoot : Obligations.ClocksAndBoot := by
  unfold Obligations.ClocksAndBoot
  refine ⟨fun s d i hd hi => ?_, fun s => ?_⟩
  · intro x elsewhere waits
    refine ⟨fun missed hm => ?_, clocksLeft_relock, exec_dieLost hd, fun f h1 h2 h3 hx hr => ?_, fun f hf => ?_, fun hr hl => ?_, fun hw => ?_⟩
    · obtain ⟨u, hu, hc, hmissed⟩ := syncPulse_spec s hd hi hm
      have hisl := hc.isl d i
      obtain ⟨cmem, cscr, cnow, crun, clost⟩ := hc
      obtain ⟨hnow, hpulse, hmem, hscr, hdie, hmhz, hdone, hgo, hend⟩ := pulsed_spec s hd hi
      rw [← hisl] at hmhz hdone hgo hend
      exact ⟨u, hu, by rw [crun, hpulse, cnow, hnow], by rw [crun, hpulse], cmem.trans hmem, cscr.trans hscr, hmhz, hdone, hgo,
        hend, hmissed d hd, (clost d).1.trans (hdie d).2⟩
    · exact frequencyStep_spec s hd hi ((legalMhz_iff f).2 ⟨h1, h2, h3⟩) hx hr
    · exact exec_frequencyStep_illegal (Bool.eq_false_iff.2 fun h => by have := (legalMhz_iff f).1 h; omega)
    · exact pllRelockEnd_spec s hd hi hr hl
    · obtain ⟨p, hp, hwaits⟩ := exec_regulatorWindow hw
      exact ⟨s.renewed, p, hp, hwaits, renewed_spec s⟩
  · intro good made near zeroed
    refine ⟨fun hv => ?_, fun hv => ?_, fun k h1 h10 => exec_boot_cut s h1 h10,
      fun k h1 h10 h4 h5 h6 _ => exec_boot_fail s h1 h10 h4 h5 h6, fun hr hs => ⟨fun h0 => ?_, fun hc => ?_, fun hc => ?_⟩, fun h => ?_,
      checkpoint_saves, fun h => ⟨checkpoint_inFlight h, checkpoint_contexts h⟩, fun h => ⟨checkpoint_moving h, fun hm => ?_⟩,
      checkpoint_near, checkpoint_header⟩
    · obtain ⟨u, hu, hmade, hzero, hres, -⟩ := boot_unrestored s hv
      exact ⟨u, hu, hmade, hzero, hres⟩
    · by_cases hc : s.pkg.ckpt.config = (0, 0, 0)
      · obtain ⟨u, hu, hmade, hres⟩ := boot_restored s hv hc
        exact ⟨u, hu, hmade, fun h => absurd hc h, fun _ => hres⟩
      · obtain ⟨u, hu, hmade, hzero, hres, hckpt⟩ := boot_mismatched s hv hc
        exact ⟨u, hu, hmade, fun _ => ⟨hzero, hres, hckpt⟩, fun h => absurd h hc⟩
    · rw [exec_checkpoint_idle h0, exec_powerFailInput]
    · rw [exec_powerFailInput, trigger_waits hr hs ((changing_iff s).2 hc)]
    · have hc : s.changing = false := Bool.eq_false_iff.2 fun h => by
        obtain ⟨d, x, hx, h⟩ := (changing_iff s).1 h
        obtain ⟨h1, h2, h3⟩ := hc d x hx
        simp [h1, h2, h3] at h
      refine ⟨_, (exec_powerFailInput s).trans (congrArg _ (trigger_starts hr hs hc)), rfl, rfl, rfl, rfl, rfl, rfl, writeHeader_near s⟩
    · refine ⟨by rw [exec_powerFailInput, trigger_refused h], fun hstage => ?_⟩
      by_cases h0 : s.pkg.ckptStage = 0
      · rw [exec_checkpoint_idle h0, trigger_refused h]
      · rw [exec_checkpoint_step h0, ckptStep_over (hstage.resolve_left h0)]
    · obtain ⟨u, hu, hstage, hmem, hckpt, hgate⟩ := checkpoint_gates h hm
      exact ⟨u, hu, hstage, hmem, by rw [hckpt]; rfl, by rw [hckpt]; rfl, by rw [hckpt]; rfl, by rw [hckpt]; rfl, hgate⟩

end Sys2Proof.Machine

namespace Sys2Proof.Machine

/-! Granules freed and frame requests withdrawn (08 R202, R206): only requests of agents change. -/

/-- Grids are as they were, and every agent that stands stood before, with the same identity. -/
def NoNewAgents (s t : State) : Prop :=
  t.grids = s.grids ∧ ∀ j b, tget t.agents j = some b → ∃ a, tget s.agents j = some a ∧ b.id = a.id

theorem NoNewAgents.refl (s : State) : NoNewAgents s s := ⟨rfl, fun _ b hb => ⟨b, hb, rfl⟩⟩

theorem NoNewAgents.trans {s t u : State} (h : NoNewAgents s t) (k : NoNewAgents t u) : NoNewAgents s u := by
  refine ⟨k.1.trans h.1, fun j c hc => ?_⟩
  obtain ⟨b, hb, hcb⟩ := k.2 j c hc
  obtain ⟨a, ha, hba⟩ := h.2 j b hb
  exact ⟨a, ha, hcb.trans hba⟩

theorem NoNewAgents.absent {s t : State} (h : NoNewAgents s t) {j : Nat} (hj : tget s.agents j = none) : tget t.agents j = none := by
  cases hb : tget t.agents j with
  | none => rfl
  | some b =>
    obtain ⟨a, ha, -⟩ := h.2 j b hb
    cases hj.symm.trans ha

theorem noteFreedIf_eq (s : State) (b : Bool) (p : Pool) : s.noteFreedIf b p = { s with agents := (s.noteFreedIf b p).agents } := by
  cases b <;> rfl

theorem noteFreed_noNew (s : State) (p : Pool) : NoNewAgents s (s.noteFreed p) := by
  refine ⟨rfl, fun j b hb => ?_⟩
  rw [State.noteFreed, tget_tmap] at hb
  obtain ⟨a, ha, rfl⟩ := Option.map_eq_some_iff.1 hb
  refine ⟨a, ha, ?_⟩
  split
  · split <;> rfl
  · rfl

theorem noteFreedIf_noNew (s : State) (b : Bool) (p : Pool) : NoNewAgents s (s.noteFreedIf b p) := by
  cases b
  · exact .refl s
  · exact noteFreed_noNew s p

/-- An agent without a request is as it was. -/
theorem noteFreedIf_agent {s : State} {i : Nat} {a : Agent} (b : Bool) (p : Pool) (h : tget s.agents i = some a)
    (hf : a.pend.freq = none) : tget (s.noteFreedIf b p).agents i = some a := by
  cases b
  · exact h
  · rw [State.noteFreedIf, if_pos rfl, State.noteFreed, tget_tmap, h]
    simp [hf]

theorem dropReq_eq (s : State) (i : Nat) : s.dropReq i = { s with agents := (s.dropReq i).agents } := by
  unfold State.dropReq
  split
  · rfl
  · split
    · rfl
    · exact noteFreedIf_eq _ _ _

/-- An agent without its frame request. -/
def Agent.noReq (a : Agent) : Agent := { a with pend := { a.pend with freq := none } }

theorem dropReq_agent {s : State} {i : Nat} {a : Agent} (h : tget s.agents i = some a) :
    tget (s.dropReq i).agents i = some a.noReq := by
  unfold State.dropReq
  simp only [h]
  cases hf : a.pend.freq with
  | none =>
    have : a.noReq = a := by rw [Agent.noReq, ← hf]
    rw [this]
    exact h
  | some r => exact noteFreedIf_agent _ _ (tget_tset_self _ _ _) rfl

theorem setAgent_noNew {s : State} {i : Nat} {a b : Agent} (h : tget s.agents i = some a) (hb : b.id = a.id) :
    NoNewAgents s (s.setAgent i b) := by
  refine ⟨rfl, fun j c hc => ?_⟩
  rw [State.setAgent_agents, tget_tset] at hc
  split at hc
  · cases hc
    subst j
    exact ⟨a, h, hb⟩
  · exact ⟨c, hc, rfl⟩

theorem dropReq_noNew (s : State) (i : Nat) : NoNewAgents s (s.dropReq i) := by
  unfold State.dropReq
  split
  · exact .refl s
  · next a ha =>
    split
    · exact .refl s
    · refine .trans ?_ (noteFreedIf_noNew _ _ _)
      exact setAgent_noNew ha rfl

/-! What the ends of units leave of agents and grids (05 R126, 06 R144, 15 R411). -/

/-- Agents and grids are as they were. -/
def KeepsRuns (s t : State) : Prop := t.agents = s.agents ∧ t.grids = s.grids

theorem KeepsRuns.trans {s t u : State} (h : KeepsRuns s t) (k : KeepsRuns t u) : KeepsRuns s u :=
  ⟨k.1.trans h.1, k.2.trans h.2⟩

theorem leaveQueues_keeps (s : State) (i : Nat) : KeepsRuns s (s.leaveQueues i) := ⟨rfl, rfl⟩
theorem sweepBufs_keeps (s : State) : KeepsRuns s s.sweepBufs := ⟨rfl, rfl⟩

theorem leaveAll_keeps (ids : List Nat) : ∀ s : State, KeepsRuns s (s.leaveAll ids) := by
  induction ids with
  | nil => exact fun _ => ⟨rfl, rfl⟩
  | cons i ids ih => exact fun s => (leaveQueues_keeps s i).trans (ih _)

theorem endEntries_keeps (es : List MEnt) : ∀ s : State, KeepsRuns s (s.endEntries es) := by
  induction es with
  | nil => exact fun _ => ⟨rfl, rfl⟩
  | cons e es ih =>
    intro s
    unfold State.endEntries
    refine (leaveQueues_keeps s e.id).trans ?_
    dsimp only
    split
    · split
      · exact .trans ⟨rfl, rfl⟩ (ih _)
      · exact ih _
    · exact ih _

theorem KeepsRuns.noNew {s t : State} (h : KeepsRuns s t) : NoNewAgents s t :=
  ⟨h.2, fun _ b hb => ⟨b, h.1 ▸ hb, rfl⟩⟩

/-- What a grid has failed with is kept, and every agent. -/
def KeepsFailures (s t : State) : Prop := t.agents = s.agents ∧
  ∀ g f, (tget s.grids g).map (·.failed) = some f → (tget t.grids g).map (·.failed) = some f

theorem KeepsFailures.refl (s : State) : KeepsFailures s s := ⟨rfl, fun _ _ h => h⟩

theorem KeepsFailures.trans {s t u : State} (h : KeepsFailures s t) (k : KeepsFailures t u) : KeepsFailures s u :=
  ⟨k.1.trans h.1, fun g f hf => k.2 g f (h.2 g f hf)⟩

theorem KeepsRuns.failures {s t : State} (h : KeepsRuns s t) : KeepsFailures s t := ⟨h.1, fun _ _ hf => h.2 ▸ hf⟩

/-- A grid written with the failure it has. -/
theorem KeepsFailures.of_tset {s t : State} {g : Nat} {x : Grid} (hagents : t.agents = s.agents) (hgrids : t.grids = tset s.grids g x)
    (h : x.failed = (s.grid g).failed) : KeepsFailures s t := by
  refine ⟨hagents, fun k f hf => ?_⟩
  rw [hgrids, tget_tset]
  split
  · subst k
    obtain ⟨y, hy, rfl⟩ := Option.map_eq_some_iff.1 hf
    rw [Option.map_some, h, State.grid, tgetD, hy, Option.getD_some]
  · exact hf

theorem gridCheck_keepsFailures (s : State) (g : Nat) : KeepsFailures s (s.gridCheck g) := by
  unfold State.gridCheck
  dsimp only
  split
  · exact .of_tset rfl rfl rfl
  · exact .refl s

theorem podCheck_keepsFailures (s : State) (p : Nat) : KeepsFailures s (s.podCheck p) := by
  unfold State.podCheck
  split
  · exact .refl s
  · dsimp only
    split
    · exact .refl s
    · refine .trans ?_ (gridCheck_keepsFailures _ _)
      exact .of_tset rfl rfl rfl

theorem teamCheck_keepsFailures (s : State) (t : Nat) : KeepsFailures s (s.teamCheck t) := by
  unfold State.teamCheck
  split
  · exact .refl s
  · split
    · exact .refl s
    · refine .trans ?_ (podCheck_keepsFailures _ _)
      exact KeepsRuns.failures ⟨rfl, rfl⟩

theorem teamChecks_keepsFailures (ts : List Nat) : ∀ s : State, KeepsFailures s (s.teamChecks ts) := by
  induction ts with
  | nil => exact .refl
  | cons t ts ih => exact fun s => (teamCheck_keepsFailures s t).trans (ih _)

theorem podChecks_keepsFailures (ps : List Nat) : ∀ s : State, KeepsFailures s (s.podChecks ps) := by
  induction ps with
  | nil => exact .refl
  | cons p ps ih => exact fun s => (podCheck_keepsFailures s p).trans (ih _)

theorem leaveSlot_keepsFailures (s : State) (g : Nat) : KeepsFailures s (s.leaveSlot g) := by
  unfold State.leaveSlot
  dsimp only
  split
  · exact .of_tset rfl rfl rfl
  · split <;> exact .of_tset rfl rfl rfl

/-! Agents removed (12 R337). -/

theorem deleteAgent_noNew (s : State) (i : Nat) : NoNewAgents s { s with agents := tdel s.agents i } := by
  refine ⟨rfl, fun j b hb => ?_⟩
  by_cases hj : j = i
  · rw [hj, tget_tdel_self] at hb
    cases hb
  · exact ⟨b, (tget_tdel_ne _ hj).symm.trans hb, rfl⟩

theorem removeAgent_noNew (s : State) (i : Nat) : NoNewAgents s (s.removeAgent i) ∧ tget (s.removeAgent i).agents i = none := by
  unfold State.removeAgent
  split
  · next h => exact ⟨.refl s, h⟩
  · next a _ =>
    have hrest : ∀ u : State, NoNewAgents u (((u.leaveAll (i :: a.pend.ops.map fun o : Op => o.id)).endEntries a.pend.mq).noteFreedIf
        (!a.pos.out && !a.granules.isEmpty) (poolOf i a)) := fun u =>
      ((leaveAll_keeps _ u).trans (endEntries_keeps _ _)).noNew.trans (noteFreedIf_noNew _ _ _)
    exact ⟨((dropReq_noNew s i).trans (deleteAgent_noNew _ i)).trans (hrest _), (hrest _).absent (tget_tdel_self _ _)⟩

theorem removeAgents_noNew (ids : List Nat) : ∀ s : State,
    NoNewAgents s (s.removeAgents ids) ∧ ∀ i ∈ ids, tget (s.removeAgents ids).agents i = none := by
  induction ids with
  | nil => exact fun s => ⟨.refl s, fun _ h => nomatch h⟩
  | cons i ids ih =>
    intro s
    obtain ⟨hone, hgone⟩ := removeAgent_noNew s i
    obtain ⟨hrest, hall⟩ := ih (s.removeAgent i)
    refine ⟨hone.trans hrest, fun k hk => ?_⟩
    rcases List.mem_cons.1 hk with rfl | hk
    · exact hrest.absent hgone
    · exact hall k hk

theorem mem_of_tget {α : Type} {t : Tab α} {i : Nat} {x : α} (h : tget t i = some x) : (i, x) ∈ t := by
  induction t with
  | nil => cases h
  | cons e t ih =>
    obtain ⟨k, v⟩ := e
    rw [tget] at h
    split at h
    · cases h
      subst k
      exact List.mem_cons_self
    · exact List.mem_cons_of_mem _ (ih h)

/-! The end of a grid that fails (05 R126, R131). -/

/-- The agents of a grid. -/
def State.agentsOf (s : State) (g : Nat) : List Nat := (s.agents.filter fun (_, a) => a.id.grid == g).map (·.1)

theorem mem_agentsOf {s : State} {g i : Nat} {a : Agent} (h : tget s.agents i = some a) (hg : a.id.grid = g) : i ∈ s.agentsOf g :=
  List.mem_map.2 ⟨(i, a), List.mem_filter.2 ⟨mem_of_tget h, beq_iff_eq.2 hg⟩, rfl⟩

/-- Once its agents are gone and its failure is noted, the rest of the end of a grid keeps both. -/
theorem endGrid_keepsFailures (s : State) (g status cause : Nat) (pc : DWord) :
    KeepsFailures ((s.removeAgents (s.agentsOf g)).setGrid g
      { s.grid g with placed := true, failed := some ((s.grid g).failed.getD (status, cause, pc)) }) (s.endGrid g status cause pc) := by
  unfold State.endGrid
  refine .trans ?_ (gridCheck_keepsFailures _ _)
  refine .trans ?_ (podChecks_keepsFailures _ _)
  refine .trans ?_ (teamChecks_keepsFailures _ _)
  refine .trans ?_ (sweepBufs_keeps _).failures
  refine .trans ?_ (leaveSlot_keepsFailures _ _)
  exact KeepsRuns.failures ⟨rfl, rfl⟩

theorem endGrid_agents (s : State) (g status cause : Nat) (pc : DWord) {j : Nat} {b : Agent}
    (h : tget (s.endGrid g status cause pc).agents j = some b) : b.id.grid ≠ g := by
  intro hg
  obtain ⟨hnew, hgone⟩ := removeAgents_noNew (s.agentsOf g) s
  rw [(endGrid_keepsFailures s g status cause pc).1, State.setGrid_agents] at h
  obtain ⟨a, ha, hid⟩ := hnew.2 j b h
  cases h.symm.trans (hgone j (mem_agentsOf ha (hid ▸ hg)))

theorem endGrid_failed (s : State) (g status cause : Nat) (pc : DWord) :
    (tget (s.endGrid g status cause pc).grids g).map (·.failed) = some (some ((s.grid g).failed.getD (status, cause, pc))) :=
  (endGrid_keepsFailures s g status cause pc).2 g _ (by rw [State.setGrid_grids, tget_tset_self, Option.map_some])

/-! Where a fault goes (05 R131, R134, 07 R173). -/

/-- An agent that has left every wait it was in. -/
def Agent.waitless (a : Agent) : Agent :=
  { a with pend := { a.pend with
      own := a.pend.own.filter (·.late), ct := none, freq := none, rejoin := none, fence := none, talloc := none, mig := none, wake := false } }

theorem leaveWaits_agent {s : State} {i : Nat} {a : Agent} (h : tget s.agents i = some a) :
    tget (s.leaveWaits i).agents i = some a.waitless := by
  have hq : tget ((s.dropReq i).leaveQueues i).agents i = some a.noReq := dropReq_agent h
  unfold State.leaveWaits
  simp only [hq]
  exact tget_tset_self _ _ _

theorem leaveWaits_storage (s : State) (i : Nat) : (s.leaveWaits i).mem = s.mem ∧ (s.leaveWaits i).scr = s.scr := by
  have hmem : (s.dropReq i).mem = s.mem := (congrArg State.mem (dropReq_eq s i)).trans rfl
  have hscr : (s.dropReq i).scr = s.scr := (congrArg State.scr (dropReq_eq s i)).trans rfl
  unfold State.leaveWaits
  dsimp only
  split <;> exact ⟨hmem, hscr⟩

section
variable {s : State} {i : Nat} {a : Agent} {f : FaultInfo} (h : tget s.agents i = some a)
include h

theorem raise_of_noVector (hv : (s.grid a.id.grid).vector = none) :
    s.raise i f = (s.setCause a.id.vd 3).endGrid a.id.grid 8 f.cause f.pc := by
  simp only [State.raise, h, hv]

theorem raise_of_undeclared {v : Nat × Nat} (hv : (s.grid a.id.grid).vector = some v) {e : TrapEnt} {es : List TrapEnt}
    (he : a.flt.entries = e :: es) (hd : e.declared = false) : s.raise i f = s.endGrid a.id.grid 8 f.cause f.pc := by
  simp only [State.raise, h, hv, he, hd, Bool.not_false, Bool.true_or, if_true]

theorem raise_of_deep {v : Nat × Nat} (hv : (s.grid a.id.grid).vector = some v) (hd : 255 ≤ a.depth) :
    s.raise i f = s.endGrid a.id.grid 8 f.cause f.pc := by
  simp only [State.raise, h, hv, hd, decide_true, Bool.or_true, if_true]

/-- The trap of an agent that may take one is entered from the state in which it waits for nothing. -/
theorem raise_of_trap {v : Nat × Nat} (hv : (s.grid a.id.grid).vector = some v)
    (he : ∀ e es, a.flt.entries = e :: es → e.declared = true) (hd : a.depth < 255) :
    s.raise i f = ((s.leaveWaits i).setAgent i
      { a.waitless with flt := { a.flt with trapping := true, due := some f } }).tryTrap i := by
  unfold State.raise
  simp only [h, hv, leaveWaits_agent h, Option.getD_some]
  refine if_neg ?_
  cases hentries : a.flt.entries with
  | nil => simp [hd]
  | cons e es => simp [he e es hentries, hd]

end

/-- Settles O32: the outcomes of a fault are the branches of `raise`; a grid that ends has lost its agents before its units are
examined, and their examination keeps its failure. -/
theorem faultsAreTaken : Obligations.FaultsAreTaken := by
  unfold Obligations.FaultsAreTaken
  intro s i a f h g
  refine ⟨raise_of_noVector h, fun v hv => ⟨fun e es he hd => raise_of_undeclared h hv he hd,
    fun he => ⟨raise_of_deep h hv, fun hd => ?_⟩⟩, fun st c pc => ⟨fun j b hb => endGrid_agents s g st c pc hb, endGrid_failed s g st c pc⟩⟩
  obtain ⟨hmem, hscr⟩ := leaveWaits_storage s i
  exact ⟨_, _, raise_of_trap h hv he hd, tget_tset_self _ _ _, rfl, rfl, rfl, hmem, hscr⟩

end Sys2Proof.Machine

namespace Sys2Proof.Machine

/-! Slices (06 R154 to R156). -/

section
variable {s : State} {vd ctx cob : Nat} {x : Slice} (hx : tget s.slices (cobKey vd ctx cob) = some x)
include hx

theorem sliceCycleLimit_counted (hlen : x.len ≠ 0) (hw : s.workOn vd ctx cob = true) (h : 1800 * x.len ≤ x.clocks) :
    exec (.sliceCycleLimit vd ctx cob) s = .next (s.endSlice vd ctx cob) := by
  show execSliceCycleLimit vd ctx cob s = _
  simp only [execSliceCycleLimit, hx]
  exact if_pos ⟨hlen, h, hw⟩

theorem sliceCycleLimit_counting (h : x.clocks < 1800 * x.len) : exec (.sliceCycleLimit vd ctx cob) s = .next s := by
  show execSliceCycleLimit vd ctx cob s = _
  simp only [execSliceCycleLimit, hx]
  exact if_neg fun hc => Nat.not_le.2 h hc.2.1

theorem sliceWallLimit_passed (hlen : x.len ≠ 0) (hw : s.workOn vd ctx cob = true) (h : x.clocks < 1800 * x.len)
    (hwall : x.start + 200 * x.len ≤ s.now) : exec (.sliceWallLimit vd ctx cob) s = .next ((s.setVd vd { s.vd vd with
      forfeit := min ((s.vd vd).forfeit + (1800 * x.len - x.clocks) / 1800) (2 ^ 32 - 1),
      slices := ((s.vd vd).slices + 1) % 2 ^ 32 }).endSlice vd ctx cob) := by
  show execSliceWallLimit vd ctx cob s = _
  simp only [execSliceWallLimit, hx]
  exact if_pos ⟨hlen, hwall, h, hw⟩

end

section
variable {s : State} {vd ctx cob : Nat}

theorem endSlice_uncontended (h : s.contended vd ctx cob = false) :
    s.endSlice vd ctx cob = { s with slices := tset s.slices (cobKey vd ctx cob) ⟨0, s.now, (s.vd vd).slice⟩ } := by
  simp only [State.endSlice, h, Bool.false_and, Bool.false_eq_true, if_false]

theorem endSlice_contended (h : s.contended vd ctx cob = true) (hq : tget s.preReqs (cobKey vd ctx cob) = none) :
    s.endSlice vd ctx cob = { (s.preempt vd ctx cob false) with slices := tdel s.slices (cobKey vd ctx cob) } := by
  simp only [State.endSlice, h, hq, Option.isNone_none, Bool.and_self, if_true]

theorem startSlice_first (h : tget s.slices (cobKey vd ctx cob) = none) :
    (s.startSlice vd ctx cob).slices = tset s.slices (cobKey vd ctx cob) ⟨0, s.now, (s.vd vd).slice⟩ := by
  simp only [State.startSlice, State.setCob_slices, h, Option.isSome_none, Bool.and_false, Bool.false_eq_true, if_false]
  rfl

end

/-! The watchdog (06 R158, R159). -/

/-- What a cause that is raised leaves as it is: it is noted in the device, and a message may go out. -/
theorem setCause_eq (s : State) (vd i : Nat) :
    s.setCause vd i = { s with vds := (s.setCause vd i).vds, run := (s.setCause vd i).run } := by
  unfold State.setCause
  dsimp only
  split
  · rfl
  · split
    · rfl
    · split <;> rfl

/-- Its grid's watchdog has told the agent, which takes the fault at its next boundary. -/
def Agent.dogged (a : Agent) : Agent := { a with flt := { a.flt with wdog := true } }

section
variable {s : State} {g : Nat} {G : Grid} (hg : tget s.grids g = some G) (hlimit : (s.vd G.vd).wdog ≠ 0)
include hg

theorem watchdogExpiry_counting (h : G.wdog / 65536 < 1000 * (s.vd G.vd).wdog) : exec (.watchdogExpiry g) s = .next s := by
  show execWatchdogExpiry g s = _
  simp only [execWatchdogExpiry, hg]
  exact if_pos (.inr h)

include hlimit

theorem watchdogExpiry_noVector (h : 1000 * (s.vd G.vd).wdog ≤ G.wdog / 65536) (hv : G.vector = none) :
    exec (.watchdogExpiry g) s =
      .next ((((s.setGrid g { G with wdog := 0 }).setCause G.vd 6).setCause G.vd 3).endGrid g 8 0x15 0) := by
  show execWatchdogExpiry g s = _
  simp only [execWatchdogExpiry, hg, hlimit, Nat.not_lt.2 h, hv, or_self, if_false, Option.isNone_none, if_true]

theorem watchdogExpiry_vector (h : 1000 * (s.vd G.vd).wdog ≤ G.wdog / 65536) (hv : G.vector ≠ none) :
    exec (.watchdogExpiry g) s = .next { ((s.setGrid g { G with wdog := 0 }).setCause G.vd 6) with
      agents := tmap s.agents fun _ a =>
        if a.id.grid = g ∧ (a.pos.out = false ∨ ((tget s.pods a.id.pod).any fun x => s.saving a.id.pod x) = true)
        then a.dogged else a } := by
  have hsome : G.vector.isNone = false := Option.isNone_eq_false_iff.2 (Option.isSome_iff_ne_none.2 hv)
  show execWatchdogExpiry g s = _
  simp only [execWatchdogExpiry, hg, hlimit, Nat.not_lt.2 h, hsome, or_self, if_false, Bool.false_eq_true]
  rw [setCause_eq]
  simp only [Bool.or_eq_true, Bool.not_eq_true']
  rfl

end

/-! Pre-emption requests (07 R177 to R179). -/

theorem mem_podsOn {s : State} {vd ctx cob p : Nat} : p ∈ s.podsOn vd ctx cob ↔
    ∃ x, (p, x) ∈ s.pods ∧ x.vd = vd ∧ x.ctx = ctx ∧ x.cob = cob ∧ x.out = false := by
  simp only [State.podsOn, List.mem_map, List.mem_filter, Bool.and_eq_true, beq_iff_eq, Bool.not_eq_true', and_assoc]
  constructor
  · rintro ⟨⟨q, x⟩, hx, hvd, hctx, hcob, hout, rfl⟩
    exact ⟨x, hx, hvd, hctx, hcob, hout⟩
  · rintro ⟨x, hx, hvd, hctx, hcob, hout⟩
    exact ⟨(p, x), hx, hvd, hctx, hcob, hout, rfl⟩

/-- A request has told the agent, which takes cause 0x20 at its next boundary. -/
def Agent.told (a : Agent) : Agent :=
  { a with sched := { a.sched with covered := true }, flt := { a.flt with pre := true } }

section
variable {s : State} {vd ctx cob : Nat}

theorem preemptionRequest_held (hst : (s.vd vd).st = .held) (hcmd : (s.vd vd).cmd = true)
    (hpod : ∃ e, e ∈ s.pods ∧ e.2.vd = vd ∧ e.2.ctx = ctx ∧ e.2.cob = cob ∧ e.2.out = false) :
    exec (.preemptionRequest vd ctx cob) s = .next (s.preempt vd ctx cob true) := by
  obtain ⟨⟨p, x⟩, hp⟩ := hpod
  have hon : (s.podsOn vd ctx cob).isEmpty = false :=
    List.isEmpty_eq_false_iff.2 (List.ne_nil_of_mem (mem_podsOn.2 ⟨x, hp⟩))
  show execPreemptionRequest vd ctx cob s = _
  simp only [execPreemptionRequest, hst, hcmd, hon, Bool.not_false, and_self, if_true]

theorem preemptionRequest_other (h : (s.vd vd).st ≠ .held ∨ (s.vd vd).cmd = false) :
    exec (.preemptionRequest vd ctx cob) s = .next s := by
  show execPreemptionRequest vd ctx cob s = _
  refine if_neg fun hc => ?_
  obtain ⟨hst, hcmd, -⟩ := hc
  rcases h with h | h
  · exact h hst
  · cases h.symm.trans hcmd

/-- Work with a trap vector is told, and none of it is saved at once. -/
theorem preempt_of_vectors (whole : Bool) (hq : tget s.preReqs (cobKey vd ctx cob) = none)
    (hv : ∀ p x, tget s.pods p = some x → (s.grid x.grid).vector ≠ none) : s.preempt vd ctx cob whole =
      { s with
        preReqs := tset s.preReqs (cobKey vd ctx cob) ⟨(s.isl (dieOfCob cob) (islandOfCob cob)).cyc, whole, false, []⟩
        agents := tmap s.agents fun n a => if n ∈ (s.coveredBy vd ctx cob).map (·.1) then a.told else a } := by
  simp only [State.preempt, hq, Option.isSome_none, Bool.false_eq_true, if_false, List.contains_iff_mem]
  rw [List.filter_eq_nil_iff.2]
  · rfl
  · intro p _
    cases hp : tget s.pods p with
    | none => exact Bool.false_ne_true
    | some x => exact fun h => hv p x hp (Option.isNone_iff_eq_none.1 h)

theorem mem_coveredBy {e : Nat × Agent} : e ∈ s.coveredBy vd ctx cob ↔
    e ∈ s.agents ∧ e.2.id.vd = vd ∧ e.2.id.ctx = ctx ∧ e.2.pos.out = false ∧
      (e.2.id.seq = true → cobOfCore e.2.pos.core = cob) ∧
      (e.2.id.seq = false → ∃ t, tget s.teams e.2.id.team = some t ∧ t.holds = true ∧ cobOfCore t.core = cob) := by
  simp only [State.coveredBy, List.mem_filter, Bool.and_eq_true, beq_iff_eq, Bool.not_eq_true', and_assoc]
  cases e.2.id.seq with
  | true => simp
  | false => cases tget s.teams e.2.id.team <;> simp

theorem allPsaved_iff : s.allPsaved vd ctx cob = true ↔ ∀ e, e ∈ s.coveredBy vd ctx cob → e.2.sched.psaved ≠ none := by
  simp only [State.allPsaved, List.all_eq_true, Option.isSome_iff_ne_none]

section
variable {q : PreReq} (hq : tget s.preReqs (cobKey vd ctx cob) = some q)
include hq

theorem budgetEnd_saving (h : q.saving = true) : exec (.preemptionBudgetEnd vd ctx cob) s = .next s := by
  show execPreemptionBudgetEnd vd ctx cob s = _
  simp only [execPreemptionBudgetEnd, hq, h, if_true]

theorem budgetEnd_cooperative (h : q.saving = false) (hd : s.allPsaved vd ctx cob = true) :
    exec (.preemptionBudgetEnd vd ctx cob) s = .next (s.saveCob vd ctx cob false) := by
  show execPreemptionBudgetEnd vd ctx cob s = _
  simp only [execPreemptionBudgetEnd, hq, h, hd, if_true, Bool.false_eq_true, if_false]

theorem budgetEnd_forced (h : q.saving = false) (hd : ¬ s.allPsaved vd ctx cob = true)
    (ht : q.start + 50000 ≤ (s.isl (dieOfCob cob) (islandOfCob cob)).cyc) :
    exec (.preemptionBudgetEnd vd ctx cob) s = .next (s.saveCob vd ctx cob true) := by
  show execPreemptionBudgetEnd vd ctx cob s = _
  simp only [execPreemptionBudgetEnd, hq, h, hd, ht, if_true, Bool.false_eq_true, if_false]

theorem budgetEnd_running (h : q.saving = false) (hd : ¬ s.allPsaved vd ctx cob = true)
    (ht : (s.isl (dieOfCob cob) (islandOfCob cob)).cyc < q.start + 50000) :
    exec (.preemptionBudgetEnd vd ctx cob) s = .next s := by
  show execPreemptionBudgetEnd vd ctx cob s = _
  simp only [execPreemptionBudgetEnd, hq, h, hd, Nat.not_le.2 ht, Bool.false_eq_true, if_false]

end

/-! The end of a save (07 R182, R185). -/

/-- A save that is written: its units are ready from now. -/
def State.saveWritten (s : State) (vd ctx cob : Nat) (q : PreReq) : State :=
  let saved (n : Nat) : Prop := n ∈ q.pods ∧ (s.pods.any fun e => e.1 == n && e.2.out) = true
  { s with
    preReqs := tdel s.preReqs (cobKey vd ctx cob)
    slices := tdel s.slices (cobKey vd ctx cob)
    teams := tmap s.teams fun _ t => if t.place = .saved ∧ saved t.pod then { t with since := s.now } else t
    pods := tmap s.pods fun n x => if saved n then { x with since := s.now } else x }

theorem mem_savedPods {ps : List Nat} {n : Nat} : n ∈ (s.pods.filter fun e => ps.contains e.1 && e.2.out).map (·.1) ↔
    n ∈ ps ∧ (s.pods.any fun e => e.1 == n && e.2.out) = true := by
  simp only [List.mem_map, List.mem_filter, Bool.and_eq_true, List.contains_iff_mem, List.any_eq_true, beq_iff_eq]
  constructor
  · rintro ⟨e, ⟨he, hp, ho⟩, rfl⟩
    exact ⟨hp, e, he, rfl, ho⟩
  · rintro ⟨hp, e, he, rfl, ho⟩
    exact ⟨e, ⟨he, hp, ho⟩, rfl⟩

section
variable {q : PreReq} (hq : tget s.preReqs (cobKey vd ctx cob) = some q)
include hq

theorem saveComplete_unsaved (h : q.saving = false) : exec (.saveComplete vd ctx cob) s = .next s := by
  show execSaveComplete vd ctx cob s = _
  simp only [execSaveComplete, hq, h, Bool.not_false, if_true]

theorem saveComplete_saved (h : q.saving = true) : exec (.saveComplete vd ctx cob) s =
    .next (if (s.saveWritten vd ctx cob q).workOn vd ctx cob then (s.saveWritten vd ctx cob q).startSlice vd ctx cob
      else s.saveWritten vd ctx cob q) := by
  show execSaveComplete vd ctx cob s = _
  simp only [execSaveComplete, hq, h, Bool.not_true, Bool.false_eq_true, if_false, List.contains_iff_mem, Bool.and_eq_true,
    beq_iff_eq, mem_savedPods, and_comm (b := _ = Place.saved)]
  rfl

end
end

/-- Settles O57: each event is one branch of its meaning; a request to work with a trap vector finds no unit to save at once, and
of the save that is written only the times of its units and its own entries differ. -/
theorem slicesAndSaves : Obligations.SlicesAndSaves := by
  unfold Obligations.SlicesAndSaves
  refine ⟨fun s vd ctx cob => ⟨fun x hx hlen hw => ⟨sliceCycleLimit_counted hx hlen hw, sliceCycleLimit_counting hx,
      fun h hwall => ⟨_, rfl, sliceWallLimit_passed hx hlen hw h hwall⟩⟩, endSlice_uncontended, endSlice_contended,
      fun g G hg hlimit => ⟨watchdogExpiry_counting hg, fun h => ⟨watchdogExpiry_noVector hg hlimit h, fun hv =>
        ⟨_, watchdogExpiry_vector hg hlimit h hv, rfl, fun n => by simp only [tget_tmap, Agent.dogged]⟩⟩⟩, startSlice_first⟩,
    fun s vd ctx cob => ⟨preemptionRequest_held, preemptionRequest_other, fun whole hq hv => ?_, fun _ => mem_coveredBy, fun q hq => ?_⟩⟩
  · dsimp only
    rw [preempt_of_vectors whole hq hv]
    exact ⟨rfl, fun n => by simp only [tget_tmap, Agent.told]⟩
  · refine ⟨fun h hd => budgetEnd_cooperative hq h (allPsaved_iff.2 hd), fun h hd => budgetEnd_forced hq h (mt allPsaved_iff.1 hd),
      fun h hd => budgetEnd_running hq h (mt allPsaved_iff.1 hd), budgetEnd_saving hq, saveComplete_unsaved hq,
      fun h => ⟨s.saveWritten vd ctx cob q, saveComplete_saved hq h, rfl, fun n => ?_, fun n => ?_⟩⟩
    all_goals simp only [State.saveWritten, tget_tmap]

end Sys2Proof.Machine

namespace Sys2Proof.Machine

/-! The order of keys (06 R138). -/

theorem lexLt_asymm : ∀ {a b : List Nat}, lexLt a b = true → lexLt b a = false := by
  intro a
  induction a with
  | nil => exact fun h => nomatch h
  | cons x xs ih =>
    intro b h
    cases b with
    | nil => rfl
    | cons y ys =>
      simp only [lexLt, Bool.or_eq_true, decide_eq_true_eq, Bool.and_eq_true, beq_iff_eq] at h
      simp only [lexLt, Bool.or_eq_false_iff, decide_eq_false_iff_not, Bool.and_eq_false_imp, beq_iff_eq]
      rcases h with h | ⟨rfl, h⟩
      · exact ⟨by omega, fun he => absurd he (by omega)⟩
      · exact ⟨Nat.lt_irrefl x, fun _ => ih h⟩

/-- Among keys of one length, one that is behind a second that is behind a third is behind the third. -/
theorem lexLt_trans_false : ∀ {a b c : List Nat}, b.length = a.length → c.length = a.length →
    lexLt b a = false → lexLt c b = false → lexLt c a = false := by
  intro a
  induction a with
  | nil => intro b c _ hc _ _; cases List.length_eq_zero_iff.1 hc; rfl
  | cons x xs ih =>
    intro b c hb hc hba hcb
    obtain ⟨y, ys, rfl⟩ := List.exists_cons_of_length_eq_add_one hb
    obtain ⟨z, zs, rfl⟩ := List.exists_cons_of_length_eq_add_one hc
    simp only [List.length_cons, Nat.add_right_cancel_iff] at hb hc
    simp only [lexLt, Bool.or_eq_false_iff, decide_eq_false_iff_not, Bool.and_eq_false_imp, beq_iff_eq] at hba hcb ⊢
    refine ⟨by omega, fun he => ?_⟩
    have hy : y = x := by omega
    exact ih hb hc (hba.2 hy) (hcb.2 (he.trans hy.symm))

/-- The entries stand in the order of their keys. -/
def InOrder (l : List (List Nat × Entry)) : Prop := l.Pairwise fun a b => lexLt b.1 a.1 = false

theorem mem_insEntry {e x : List Nat × Entry} {l : List (List Nat × Entry)} : x ∈ insEntry e l ↔ x = e ∨ x ∈ l := by
  induction l with
  | nil => simp only [insEntry, List.mem_cons]
  | cons y ys ih =>
    simp only [insEntry]
    split
    · exact List.mem_cons
    · rw [List.mem_cons, ih, List.mem_cons, or_left_comm]

theorem insEntry_inOrder {n : Nat} {e : List Nat × Entry} {l : List (List Nat × Entry)} (he : e.1.length = n)
    (hl : ∀ x ∈ l, x.1.length = n) (h : InOrder l) : InOrder (insEntry e l) := by
  induction l with
  | nil => exact List.pairwise_singleton _ _
  | cons y ys ih =>
    obtain ⟨hy, hys⟩ := List.pairwise_cons.1 h
    obtain ⟨hylen, hyslen⟩ := List.forall_mem_cons.1 hl
    simp only [insEntry]
    split
    · next hlt =>
      have hye : lexLt y.1 e.1 = false := lexLt_asymm hlt
      exact List.pairwise_cons.2 ⟨List.forall_mem_cons.2 ⟨hye, fun z hz =>
        lexLt_trans_false (hylen.trans he.symm) ((hyslen z hz).trans he.symm) hye (hy z hz)⟩, h⟩
    · next hlt =>
      refine List.pairwise_cons.2 ⟨fun z hz => ?_, ih hyslen hys⟩
      rcases mem_insEntry.1 hz with rfl | hz
      · exact Bool.eq_false_iff.2 hlt
      · exact hy z hz

/-- Entries put one after the other at their places: all of them, in order. -/
theorem foldl_insEntry {n : Nat} (es : List (List Nat × Entry)) : ∀ l : List (List Nat × Entry), (∀ x ∈ es, x.1.length = n) →
    (∀ x ∈ l, x.1.length = n) → InOrder l → InOrder (es.foldl (fun l e => insEntry e l) l) ∧
      ∀ x, x ∈ es.foldl (fun l e => insEntry e l) l ↔ x ∈ es ∨ x ∈ l := by
  induction es with
  | nil => exact fun l _ _ h => ⟨h, fun x => by simp only [List.foldl_nil, List.not_mem_nil, false_or]⟩
  | cons e es ih =>
    intro l hes hl h
    obtain ⟨he, hes⟩ := List.forall_mem_cons.1 hes
    have hins : ∀ x ∈ insEntry e l, x.1.length = n := fun x hx => (mem_insEntry.1 hx).elim (fun h => h ▸ he) (hl x)
    obtain ⟨horder, hmem⟩ := ih (insEntry e l) hes hins (insEntry_inOrder he hl h)
    refine ⟨horder, fun x => ?_⟩
    rw [List.foldl_cons, hmem, mem_insEntry, List.mem_cons, or_left_comm, or_assoc]

/-! The ready order (06 R138, R139). -/

/-- The grids of a device with units to place, and its units that return, with their keys. -/
def State.freshEntries (s : State) (vd : Nat) : List (List Nat × Entry) := s.grids.filterMap fun (g, G) =>
  if G.vd = vd ∧ !G.placed ∧ (G.st = .ready ∨ G.st = .running) then some (gridKey G G.readyAt, Entry.fresh g) else none
def State.backEntries (s : State) (vd : Nat) : List (List Nat × Entry) := s.pods.filterMap fun (n, x) =>
  if x.vd = vd ∧ s.mayReturn n x then some (gridKey (s.grid x.grid) (s.backTime n x), Entry.back n) else none

theorem mem_freshEntries {s : State} {vd : Nat} {e : List Nat × Entry} : e ∈ s.freshEntries vd ↔
    ∃ g G, (g, G) ∈ s.grids ∧ (G.vd = vd ∧ G.placed = false ∧ (G.st = .ready ∨ G.st = .running)) ∧
      (gridKey G G.readyAt, Entry.fresh g) = e := by
  simp only [State.freshEntries, List.mem_filterMap, Prod.exists, Option.ite_none_right_eq_some, Option.some.injEq,
    Bool.not_eq_true']

theorem mem_backEntries {s : State} {vd : Nat} {e : List Nat × Entry} : e ∈ s.backEntries vd ↔
    ∃ n x, (n, x) ∈ s.pods ∧ (x.vd = vd ∧ s.mayReturn n x = true) ∧
      (gridKey (s.grid x.grid) (s.backTime n x), Entry.back n) = e := by
  simp only [State.backEntries, List.mem_filterMap, Prod.exists, Option.ite_none_right_eq_some, Option.some.injEq]

theorem readyOrder_spec (s : State) (vd : Nat) : InOrder (s.readyOrder vd) ∧
    ∀ e, e ∈ s.readyOrder vd ↔ e ∈ s.freshEntries vd ∨ e ∈ s.backEntries vd := by
  have hlen : ∀ e ∈ s.freshEntries vd ++ s.backEntries vd, e.1.length = 4 := by
    intro e he
    rcases List.mem_append.1 he with he | he
    · obtain ⟨g, G, -, -, rfl⟩ := mem_freshEntries.1 he
      rfl
    · obtain ⟨n, x, -, -, rfl⟩ := mem_backEntries.1 he
      rfl
  obtain ⟨horder, hmem⟩ := foldl_insEntry _ [] hlen (fun _ h => nomatch h) .nil
  refine ⟨horder, fun e => (hmem e).trans ?_⟩
  rw [List.mem_append, or_iff_left List.not_mem_nil]

/-- A grid stands in the ready order exactly while it has units to place. -/
theorem mem_readyOrder_fresh {s : State} {vd : Nat} {k : List Nat} {g : Nat} : (k, Entry.fresh g) ∈ s.readyOrder vd ↔
    ∃ G, (g, G) ∈ s.grids ∧ G.vd = vd ∧ G.placed = false ∧ (G.st = .ready ∨ G.st = .running) ∧ k = gridKey G G.readyAt := by
  rw [(readyOrder_spec s vd).2, mem_freshEntries, mem_backEntries]
  constructor
  · rintro (⟨g, G, hG, ⟨hvd, hplaced, hst⟩, h⟩ | ⟨n, x, -, -, h⟩)
    · cases h
      exact ⟨G, hG, hvd, hplaced, hst, rfl⟩
    · cases h
  · rintro ⟨G, hG, hvd, hplaced, hst, rfl⟩
    exact .inl ⟨g, G, hG, ⟨hvd, hplaced, hst⟩, rfl⟩

theorem mem_readyOrder_back {s : State} {vd n : Nat} {x : Pod} (hx : (n, x) ∈ s.pods) (hvd : x.vd = vd)
    (h : s.mayReturn n x = true) : (gridKey (s.grid x.grid) (s.backTime n x), Entry.back n) ∈ s.readyOrder vd :=
  ((readyOrder_spec s vd).2 _).2 (.inr (mem_backEntries.2 ⟨n, x, hx, ⟨hvd, h⟩, rfl⟩))

/-! Placing (06 R139). -/

section
variable {s : State}

theorem placementPass_schedules {vd : Nat} (h : s.schedules vd = true) : exec (.placementPass vd) s =
    .next (((s.lookGrids (s.unlooked vd)).sweepRows).placeFirst (((s.lookGrids (s.unlooked vd)).sweepRows).readyOrder vd)) := by
  show execPlacementPass vd s = _
  exact if_pos h

theorem placementPass_idle {vd : Nat} (h : s.schedules vd = false) : exec (.placementPass vd) s = .next s := by
  show execPlacementPass vd s = _
  exact if_neg (Bool.eq_false_iff.1 h)

theorem placeFirst_fits {t : State} {k : List Nat} {e : Entry} {es : List (List Nat × Entry)} (h : s.placeEntry e = some t) :
    s.placeFirst ((k, e) :: es) = t := by
  simp only [State.placeFirst, h]

theorem placeFirst_unfit {k : List Nat} {e : Entry} {es : List (List Nat × Entry)} (h : s.placeEntry e = none) :
    s.placeFirst ((k, e) :: es) = if (s.grid (s.gridAt e)).blocking then s.noteTried (s.gridAt e)
      else (s.noteTried (s.gridAt e)).placeFirst es := by
  simp only [State.placeFirst, h]

theorem noteTried_first {g : Nat} {G : Grid} (hg : tget s.grids g = some G) (h : G.tried = none) :
    s.noteTried g = s.setGrid g { G with tried := some s.now } := by
  simp only [State.noteTried, hg, h, Option.isNone_none, if_true]

theorem issuable_acqWait {i : Nat} {a : Agent} (h : (s.grid a.id.grid).acqWait = true) : s.issuable i a = false := by
  simp only [State.issuable, h, Bool.not_true, Bool.and_false, Bool.false_and]

section
variable {g t0 : Nat} {G : Grid} (hg : tget s.grids g = some G) (ht : G.tried = some t0)
include hg ht

theorem blockingGridTimeout_passed (he : ∃ e, e ∈ s.readyOrder G.vd ∧ s.gridAt e.2 = g) (h : t0 + 10000 ≤ s.now) :
    exec (.blockingGridTimeout g) s = .next (s.setGrid g { G with blocking := true }) := by
  have hany : ((s.readyOrder G.vd).any fun e => s.gridAt e.2 == g) = true := by
    simpa only [List.any_eq_true, beq_iff_eq] using he
  show execBlockingGridTimeout g s = _
  simp only [execBlockingGridTimeout, hg, ht, h, hany, decide_true, Bool.and_self, if_true]

theorem blockingGridTimeout_running (h : s.now < t0 + 10000) : exec (.blockingGridTimeout g) s = .next s := by
  show execBlockingGridTimeout g s = _
  simp only [execBlockingGridTimeout, hg, ht, Nat.not_le.2 h, decide_false, Bool.false_and, Bool.false_eq_true, if_false]

end

/-! Child wait (06 R146). -/

theorem childWait_spec {n : Nat} {x : Team} (h : s.childWait n x = true) : x.holds = true ∧
    (∃ e, e ∈ s.grids ∧ e.2.parent = some x.grid ∧ e.2.pteam = n) ∧
    ∀ e, e ∈ s.teamAgents n → ∃ c, e.2.pend.ct = some c ∧ c.hit = none := by
  simp only [State.childWait, Bool.and_eq_true, List.any_eq_true, List.all_eq_true, beq_iff_eq] at h
  obtain ⟨⟨⟨hholds, hchild⟩, -⟩, hwait⟩ := h
  refine ⟨hholds, hchild, fun e he => ?_⟩
  have hct := (hwait e he).1
  cases hc : e.2.pend.ct with
  | none => rw [hc] at hct; cases hct
  | some c => exact ⟨c, rfl, by simpa [hc] using hct⟩

theorem childWaitSwap_first {t : State} {n : Nat} {x : Team} (hx : tget s.teams n = some x) (hw : s.childWait n x = true)
    (hh : s.helps n x = true) (hops : ∀ i a, (i, a) ∈ s.teamAgents n → a.pend.ops = [])
    (hcopies : ∀ e, e ∈ s.copies → e.2.team ≠ n)
    (hfirst : ∀ e, e ∈ s.teams → s.childWait e.1 e.2 = true → s.helps e.1 e.2 = true →
      e.1 = n ∨ s.childWaitFrom n ≤ s.childWaitFrom e.1)
    (ht : s.swapTeam n x = some t) : exec (.childWaitSwap n) s = .next t := by
  have hcand : (n, x) ∈ s.teams.filter fun e => s.childWait e.1 e.2 && s.helps e.1 e.2 :=
    List.mem_filter.2 ⟨mem_of_tget hx, by simp only [hw, hh, Bool.and_self]⟩
  have hstill : ((s.teamAgents n).all fun e => e.2.pend.ops.isEmpty) = true :=
    List.all_eq_true.2 fun e he => by rw [hops e.1 e.2 he]; rfl
  have hcopy : (s.copies.any fun e => e.2.team == n) = false :=
    List.any_eq_false.2 fun e he => by simpa using hcopies e he
  show execChildWaitSwap n s = _
  simp only [execChildWaitSwap, hx]
  rw [if_pos]
  · simp only [ht]
  · refine ⟨List.any_eq_true.2 ⟨_, hcand, beq_self_eq_true n⟩, List.all_eq_true.2 fun e he => ?_, ?_⟩
    · obtain ⟨hmem, he⟩ := List.mem_filter.1 he
      obtain ⟨hew, heh⟩ := Bool.and_eq_true_iff.1 he
      simpa using hfirst e hmem hew heh
    · exact Bool.and_eq_true_iff.2 ⟨hstill, by rw [hcopy]; rfl⟩

theorem childWaitSwap_none {n : Nat} {x : Team} (hx : tget s.teams n = some x)
    (h : ∀ e, e ∈ s.teams → e.1 = n → s.childWait e.1 e.2 = false) : exec (.childWaitSwap n) s = .next s := by
  have hcand : ((s.teams.filter fun e => s.childWait e.1 e.2 && s.helps e.1 e.2).any fun e => e.1 == n) = false := by
    refine List.any_eq_false.2 fun e he hn => ?_
    obtain ⟨hmem, he⟩ := List.mem_filter.1 he
    cases (h e hmem (beq_iff_eq.1 hn)).symm.trans (Bool.and_eq_true_iff.1 he).1
  show execChildWaitSwap n s = _
  simp only [execChildWaitSwap, hx]
  exact if_neg fun hc => Bool.false_ne_true (hcand.symm.trans hc.1)

end

/-! The end of a launch (05 R126 to R128). -/

theorem ofBytes_append (a b : List Byte) : ofBytes (a ++ b) = ofBytes a + 256 ^ a.length * ofBytes b := by
  induction a with
  | nil => simp [ofBytes]
  | cons x a ih =>
    rw [List.cons_append, ofBytes, ih, ofBytes, List.length_cons, Nat.pow_succ', Nat.mul_add, Nat.mul_assoc, Nat.add_assoc]

theorem ofBytes_completionBytes (e : Nat × Nat × DWord) (time teams : Nat) : ofBytes (completionBytes e time teams) =
    (e.1 + 256 * (e.2.1 % 256)) % 2 ^ 64 + 2 ^ 64 * (time % 2 ^ 64) + 2 ^ 128 * e.2.2.toNat + 2 ^ 192 * (teams % 2 ^ 32) := by
  have hpc := e.2.2.isLt
  simp only [completionBytes, ofBytes_append, ofBytes_bytesOf, List.length_append, bytesOf_length]
  omega

section
variable {s : State} {G : Grid}

/-- No failure is noted, and its release scope, where it has one, is not INVALID. -/
def State.endsWell (s : State) (G : Grid) : Prop := G.failed = none ∧
  ¬ (G.lrec.rel = true ∧ 6 ≤ G.lrec.rscope ∧ (s.scope G.vd G.lrec.ctx G.lrec.rscope).st = .invalid)

theorem endOf_well (h : s.endsWell G) : s.endOf G = (1, 0, 0) := by
  obtain ⟨hf, hs⟩ := h
  simp only [State.endOf, hf]
  exact if_neg hs

theorem endOf_failed {st c : Nat} {pc : DWord} (h : G.failed = some (st, c, pc)) :
    s.endOf G = if st = 8 then (8, c, pc) else (st, 0, 0) := by
  simp only [State.endOf, h]
  split
  · next h8 => rw [h8]
  · rfl

theorem endOf_invalid (hf : G.failed = none) (h : ¬ s.endsWell G) : s.endOf G = (7, 0, 0) := by
  simp only [State.endOf, hf]
  exact if_pos (Classical.not_not.1 fun hs => h ⟨hf, hs⟩)

/-- The units of a launch, its children and, where it releases, what its accesses left have ended, and its release may be made. -/
def State.launchOver (s : State) (g : Nat) (G : Grid) : Prop :=
  (∀ e, e ∈ s.grids → e.2.parent ≠ some g) ∧ (∀ e, e ∈ s.pods → e.2.grid ≠ g) ∧
    (G.lrec.rel = true → ∀ e, e ∈ s.agents → e.2.id.grid ≠ g) ∧ s.releaseWaits G = false

/-- What a launch that ends adds to, with its amounts. -/
def State.endAdds (s : State) (G : Grid) : List (Nat × Nat) := if (s.endOf G).1 = 1 then G.lrec.sigs else [G.lrec.fail]

/-- Where it writes its record and its counters. -/
def State.endPlaces (s : State) (G : Grid) : Places × State :=
  s.placesFor G.vd G.lrec.ctx G.own ((G.lrec.done, 32) :: (s.endAdds G).map fun a => (a.1, 8))

/-- The record and the counters written at their places, the failure told, and the launch gone. -/
def State.endLaunch (s1 : State) (g : Nat) (G : Grid) (e : Nat × Nat × DWord) (adds : List (Nat × Nat))
    (ls : List (Option (List (Loc × Nat)))) : State :=
  let t1 := s1.leaveSlot g
  let t2 := match ls.head? with
    | some (some l) => t1.writeChunks l (completionBytes e t1.now G.good)
    | _ => t1
  let t3 := t2.addAt ((ls.drop 1).zip (adds.map (·.2)))
  let t4 := if e.1 ≠ 1 ∧ ls.getD 1 none ≠ none then t3.setCause G.vd 2 else t3
  { t4 with grids := tdel t4.grids g }

section
variable {g : Nat} (hst : G.st = .ending) (hg : tget s.grids g = some G)
include hst

theorem launchOver_iff : s.launchOver g G ↔ ¬ (G.st ≠ .ending ∨ (s.grids.any (fun e => e.2.parent == some g) ||
    s.pods.any (fun e => e.2.grid == g) || (G.lrec.rel && s.agents.any fun e => e.2.id.grid == g)) = true ∨
    s.releaseWaits G = true) := by
  simp only [hst, ne_eq, not_true_eq_false, false_or, not_or, Bool.not_eq_true, Bool.or_eq_false_iff, List.any_eq_false,
    Bool.and_eq_false_imp, beq_iff_eq, State.launchOver, and_assoc]

include hg

theorem launchEnd_busy (h : ¬ s.launchOver g G) : exec (.launchEnd g) s = .next s := by
  show execLaunchEnd g s = _
  simp only [execLaunchEnd, hg]
  exact if_pos (Classical.not_not.1 (mt (launchOver_iff hst).2 h))

section
variable {p : Places} {s1 : State} (hover : s.launchOver g G) (hp : s.endPlaces G = (p, s1))
include hover hp

theorem launchEnd_waits (hw : p.waits = true) :
    exec (.launchEnd g) s = .next (s1.setGrid g { s1.grid g with own := p.own }) := by
  show execLaunchEnd g s = _
  simp only [State.endPlaces, State.endAdds] at hp
  simp only [execLaunchEnd, hg, hp, hw, if_true]
  exact if_neg ((launchOver_iff hst).1 hover)

theorem launchEnd_ends (hw : p.waits = false) :
    exec (.launchEnd g) s = .next (s1.endLaunch g G (s.endOf G) (s.endAdds G) p.at_) := by
  show execLaunchEnd g s = _
  simp only [State.endPlaces, State.endAdds] at hp
  simp only [execLaunchEnd, hg, hp, hw, Bool.false_eq_true, if_false, Option.isSome_iff_ne_none]
  exact (if_neg ((launchOver_iff hst).1 hover)).trans rfl

end
end
end

/-- Settles O58: the ready order is an insertion of keys of one length, which keeps every entry and the order; a launch that is over
writes at the places it finds, or waits for them. -/
theorem placementAndEnd : Obligations.PlacementAndEnd := by
  unfold Obligations.PlacementAndEnd
  refine ⟨fun s t vd => ⟨placementPass_schedules, placementPass_idle, (readyOrder_spec s vd).1, fun _ _ => mem_readyOrder_fresh,
      fun _ _ _ => placeFirst_fits, fun _ _ _ h => ⟨fun hb => ?_, fun hb => ?_⟩, fun _ _ => noteTried_first,
      fun _ _ => issuable_acqWait, fun _ => rfl, fun _ _ hx => ?_, fun _ _ hx hvd h => ⟨_, mem_readyOrder_back (mem_of_tget hx) hvd h⟩,
      fun _ _ _ hg he ht => ⟨blockingGridTimeout_passed hg ht he, blockingGridTimeout_running hg ht⟩,
      fun _ _ hx => ⟨childWaitSwap_first hx, childWait_spec, childWaitSwap_none hx⟩⟩,
    fun s s1 g G hg hst => ⟨endOf_well, fun _ _ _ => endOf_failed, endOf_invalid, ofBytes_completionBytes,
      fun _ hover hp => launchEnd_ends hst hg hover hp, fun _ hover hp => launchEnd_waits hst hg hover hp, launchEnd_busy hst hg⟩⟩
  · rw [placeFirst_unfit h, if_pos hb]
  · rw [placeFirst_unfit h, hb]
    exact if_neg Bool.false_ne_true
  · simp only [State.gridAt, hx]

end Sys2Proof.Machine

namespace Sys2Proof.Machine

/-! Issue of a sequencer (15 R430). -/

/-- A sequencer context issuable for six clocks, and a table that lists it twice. -/
def sixClocksSeq : Agent := { id := { seq := true }, sched := { age := 6 } }
def twiceListed : State := { dies := [(0, { gate := .on })], agents := [(0, sixClocksSeq), (0, sixClocksSeq)] }

theorem twiceListed_issuable : twiceListed.issuable 0 sixClocksSeq = true := by decide +kernel

/-- The two entries count as two contexts, so the first issues a clock early. -/
theorem sequencerIssue_twiceListed : ∃ u : State, exec (.sequencerIssue 0) twiceListed = .next u ∧ u.run.issueQ = [0] := by
  show ∃ u : State, execSequencerIssue 0 twiceListed = .next u ∧ u.run.issueQ = [0]
  exact ⟨_, rfl, rfl⟩

/-- Refutes O56: nothing in the statement keeps the table of agents from listing one agent twice. An agent so listed is the only one
that is issuable, and yet counts as two contexts that have to issue within the eighth clock, so the first of them issues at age 6,
where the statement has the sequencer wait. -/
theorem not_issueOfGroups : ¬ Obligations.IssueOfGroups := by
  unfold Obligations.IssueOfGroups
  intro h
  obtain ⟨-, -, -, hseq, -⟩ := h twiceListed 0 0 (by decide) (by decide)
  obtain ⟨hstay, -⟩ := hseq 0 0 sixClocksSeq List.mem_cons_self ⟨rfl, rfl, rfl, twiceListed_issuable⟩ (by decide) fun e he _ => by
    simpa [twiceListed] using he
  obtain ⟨u, hu, hq⟩ := sequencerIssue_twiceListed
  cases hu.symm.trans (hstay (by decide))
  cases hq

end Sys2Proof.Machine

namespace Sys2Proof.Machine

/-! What an access of the part's own leaves as it is on its way to memory (02 R48, 03 R76, 08 R216 to R220): of agents it
changes none. -/

/-- Nothing but the slices, the devices' counts, the held translations, the snoops and the model's own data differ. -/
def OnWay (s t : State) : Prop :=
  t = { s with sideCache := t.sideCache, run := t.run, vds := t.vds, tlb := t.tlb, link := t.link }

theorem OnWay.trans {s t u : State} (h : OnWay s t) (k : OnWay t u) : OnWay s u := by
  unfold OnWay at *
  rw [k, h]

theorem OnWay.agents {s t : State} (h : OnWay s t) : t.agents = s.agents := (congrArg State.agents h).trans rfl

theorem Passes.onWay {s t : State} (h : Passes s t) : OnWay s t := by
  unfold Passes at h
  unfold OnWay
  rw [h]

theorem sendSnoop_onWay (s : State) (line : Nat) (inval : Bool) : OnWay s (s.sendSnoop line inval) := by
  unfold State.sendSnoop
  split <;> rfl

theorem letIn_onWay {s t : State} {vd site n : Nat} (h : s.letIn vd site n = some t) : OnWay s t := by
  unfold State.letIn at h
  dsimp only at h
  split at h
  · cases h; rfl
  · split at h
    · cases h; rfl
    · cases h

theorem markHeld_onWay (s : State) (vd : Nat) : OnWay s (s.markHeld vd) := by
  unfold State.markHeld
  split <;> rfl

theorem regulate_onWay (vd : Nat) (wr : Bool) (locs : List (Loc × Nat)) : ∀ s : State, OnWay s (s.regulate vd wr locs).2 := by
  induction locs with
  | nil => exact fun _ => rfl
  | cons e locs ih =>
    intro s
    obtain ⟨l, n⟩ := e
    cases l with
    | scr c o => exact ih s
    | mem pa =>
      have hpass := (accessMem_passes s (some vd) pa n wr).onWay
      unfold State.regulate
      dsimp only
      split
      · exact hpass.trans (ih _)
      · split
        · exact hpass.trans (ih _)
        · split
          · next hlet => exact (hpass.trans (letIn_onWay hlet)).trans (ih _)
          · exact markHeld_onWay s vd

theorem atHome_onWay (s : State) (vd : Nat) (wr : Bool) (locs : List (Loc × Nat)) : OnWay s (s.atHome vd wr locs).2 := by
  have hreg := regulate_onWay vd wr locs s
  unfold State.atHome
  split
  · exact sendSnoop_onWay _ _ _
  · split <;> next heq => rwa [heq] at hreg

/-- Places accessed one after the other. -/
theorem foldl_onWay {f : State → Loc × Nat → State} (h : ∀ s e, OnWay s (f s e)) (locs : List (Loc × Nat)) :
    ∀ s : State, OnWay s (locs.foldl f s) := by
  induction locs with
  | nil => exact fun _ => rfl
  | cons e locs ih => exact fun s => (h s e).trans (ih _)

theorem passAll_onWay (s : State) (vd : Nat) (counted wr : Bool) (locs : List (Loc × Nat)) : OnWay s (s.passAll vd counted wr locs) :=
  foldl_onWay (fun s e => by
    obtain ⟨l, n⟩ := e
    cases l with
    | mem pa => exact (passMem_passes s vd counted pa n wr).onWay
    | scr c o => rfl) locs s

theorem atWalk_onWay (s : State) (locs : List (Loc × Nat)) : OnWay s (s.atWalk locs).2 := by
  unfold State.atWalk
  split
  · exact sendSnoop_onWay _ _ _
  · refine foldl_onWay (fun s e => ?_) locs s
    obtain ⟨l, n⟩ := e
    cases l with
    | mem pa => exact (accessMem_passes s none pa n false).onWay
    | scr c o => rfl

theorem useWalk_onWay (s : State) (vd ctx va : Nat) (acs : Acs) (w : Walk) : OnWay s (s.useWalk vd ctx va acs w).2 := by
  unfold State.useWalk
  split
  · rfl
  · split
    · rfl
    · split
      · rfl
      · unfold State.tlbPut
        split <;> rfl

theorem useFresh_onWay (s : State) (vd ctx va : Nat) (acs : Acs) : OnWay s (s.useFresh vd ctx va acs).2 := by
  have hwalk := atWalk_onWay s (s.walkReads vd ctx va)
  unfold State.useFresh
  split
  · next heq => rwa [heq] at hwalk
  · next heq =>
    rw [heq] at hwalk
    exact hwalk.trans (useWalk_onWay _ _ _ _ _ _)

theorem translate_onWay (s : State) (vd ctx va : Nat) (acs : Acs) : OnWay s (s.translate vd ctx va acs).2 := by
  have hfresh : OnWay s s.fresh.2 := rfl
  unfold State.translate
  split
  · split
    · exact useWalk_onWay _ _ _ _ _ _
    · dsimp only
      split
      · exact hfresh.trans (useWalk_onWay _ _ _ _ _ _)
      · exact hfresh.trans (useFresh_onWay _ _ _ _ _)
  · exact useFresh_onWay _ _ _ _ _

theorem resolvePage_onWay (s : State) (vd ctx va n : Nat) (acs : Acs) : OnWay s (s.resolvePage vd ctx va n acs).2 := by
  have h := translate_onWay s vd ctx va acs
  unfold State.resolvePage
  split
  · next heq => rwa [heq] at h
  · next heq => rwa [heq] at h
  · next heq => rwa [heq] at h
  · next heq =>
    rw [heq] at h
    split <;> exact h

theorem resolve_onWay (s : State) (vd ctx va n : Nat) (acs : Acs) : OnWay s (s.resolve vd ctx va n acs).2 := by
  have h := resolvePage_onWay s vd ctx va (min n (4096 - va % 4096)) acs
  unfold State.resolve
  dsimp only
  split <;> next heq =>
    rw [heq] at h
    split
    · exact h
    · exact h.trans (resolvePage_onWay _ _ _ _ _ _)

theorem ownPlaces_onWay (s : State) (vd ctx va n : Nat) (acs : Acs) (counted : Bool) :
    OnWay s (s.ownPlaces vd ctx va n acs counted).2 := by
  have h := resolve_onWay s vd ctx va n acs
  unfold State.ownPlaces
  split
  · rfl
  · split
    · next heq => rwa [heq] at h
    · next heq => rwa [heq] at h
    · next heq => rwa [heq] at h
    · next l t heq =>
      rw [heq] at h
      have hhome := h.trans (atHome_onWay t vd (acs == .w) l)
      split
      · split <;> next hat => rwa [hat] at hhome
      · split
        · exact h.trans (sendSnoop_onWay _ _ _)
        · exact h.trans (passAll_onWay _ _ _ _ _)

theorem readVa_onWay (s : State) (vd ctx va n : Nat) : OnWay s (s.readVa vd ctx va n).2 := by
  have h := ownPlaces_onWay s vd ctx va n .r true
  unfold State.readVa
  split <;> next heq => rwa [heq] at h

/-- A write wakes only an agent with an armed wait (09 R248). -/
theorem writeChunks_agent {i : Nat} {a : Agent} (hct : a.pend.ct = none) (locs : List (Loc × Nat)) : ∀ (s : State) (bs : List Byte),
    tget s.agents i = some a → tget (s.writeChunks locs bs).agents i = some a := by
  induction locs with
  | nil => exact fun _ _ h => h
  | cons e locs ih =>
    refine fun s bs h => ih _ _ ?_
    have hput : (s.putBytes e.1 (bs.take e.2)).agents = s.agents := by cases e.1 <;> rfl
    rw [State.write_eq, State.written, tget_tmap, hput, h, Option.map_some, wakeAgent, hct]

theorem writeVa_agent {s : State} {i : Nat} {a : Agent} (h : tget s.agents i = some a) (hct : a.pend.ct = none)
    (vd ctx va : Nat) (bs : List Byte) (counted : Bool) : tget (s.writeVa vd ctx va bs counted).2.agents i = some a := by
  have hway := (ownPlaces_onWay s vd ctx va bs.length .w counted).agents
  unfold State.writeVa
  rw [← hway] at h
  split
  · next heq => rwa [heq] at h
  · next heq => rwa [heq] at h
  · next heq => exact writeChunks_agent hct _ _ _ (by rwa [heq] at h)

/-! An access of an agent's own that has performed. -/

/-- An agent with these accesses of its own. -/
def Agent.withOwn (a : Agent) (l : List Own) : Agent := { a with pend := { a.pend with own := l } }

theorem setOwns_agent {s : State} {i : Nat} {a : Agent} (h : tget s.agents i = some a) (l : List Own) :
    tget (s.setOwns i l).agents i = some (a.withOwn l) := by
  unfold State.setOwns
  split
  · next hl =>
    rw [State.ownsOf, h] at hl
    rw [h, ← hl, Agent.withOwn]
  · simp only [tmod, h]
    exact tget_tset_self _ _ _

/-- With an access performed, its agent has one less; the access did not change the agent itself. -/
theorem ownOf_agent {α : Type} {s t : State} {i va n : Nat} {wr : Bool} {r : Got α × State} {x : α} {a : Agent}
    (hs : tget s.agents i = some a) (hr : tget r.2.agents i = some a) (h : s.ownOf i va n wr r = (.ok x, t)) :
    tget t.agents i = some (a.withOwn (ownDone a.pend.own va n wr)) := by
  obtain ⟨y, t'⟩ := r
  have howns : s.ownsOf i = a.pend.own := by rw [State.ownsOf, hs]
  simp only [State.ownOf, howns] at h
  cases hdead : ownDead a.pend.own va n wr with
  | some c => simp [State.ownTry, hdead] at h
  | none =>
    cases y with
    | ok z =>
      simp only [State.ownTry, hdead, Prod.mk.injEq] at h
      rw [← h.2]
      exact setOwns_agent hr _
    | fail c b ad => simp [State.ownTry, hdead] at h
    | wait st => simp [State.ownTry, hdead] at h

/-! Granules for a trap frame (07 R168 step 4, 08 R198, R201). -/

/-- What stands in a table after a value is put, and what stood before: only the values at that key differ. -/
theorem mem_of_mem_tset {α : Type} {t : Tab α} {i : Nat} {x : α} {e : Nat × α} (h : e ∈ tset t i x) : e = (i, x) ∨ e ∈ t := by
  induction t with
  | nil => exact .inl (List.mem_singleton.1 h)
  | cons d t ih =>
    obtain ⟨k, v⟩ := d
    rw [tset] at h
    split at h
    · exact (List.mem_cons.1 h).imp id (List.mem_cons_of_mem _)
    · split at h
      · exact List.mem_cons.1 h
      · rcases List.mem_cons.1 h with rfl | h
        · exact .inr List.mem_cons_self
        · exact (ih h).imp id (List.mem_cons_of_mem _)

theorem mem_tset_of_mem {α : Type} {t : Tab α} {i : Nat} {x y : α} (hy : tget t i = some y) {e : Nat × α} (h : e ∈ t) :
    e = (i, y) ∨ e ∈ tset t i x := by
  induction t with
  | nil => cases h
  | cons d t ih =>
    obtain ⟨k, v⟩ := d
    rw [tget] at hy
    rw [tset]
    split at hy
    · next hk =>
      cases hy
      rw [if_pos hk, hk]
      exact (List.mem_cons.1 h).imp id (List.mem_cons_of_mem _)
    · next hk =>
      rw [if_neg hk]
      split
      · exact .inr (List.mem_cons_of_mem _ h)
      · rcases List.mem_cons.1 h with rfl | h
        · exact .inr List.mem_cons_self
        · exact (ih hy h).imp id (List.mem_cons_of_mem _)

theorem mem_tset_self {α : Type} (t : Tab α) (i : Nat) (x : α) : (i, x) ∈ tset t i x := mem_of_tget (tget_tset_self t i x)

/-- The granules of a pool that one entry of the table of agents uses. -/
def granulesIn (p : Pool) (e : Nat × Agent) : List Nat :=
  (if !e.2.pos.out && poolOf e.1 e.2 == p then e.2.granules else []) ++
    (match e.2.pend.freq with
     | some r => if r.pool == p then r.held else []
     | none => [])

/-- Nothing by which frames are found differs: who and where an agent is, its resident frames, its frame request. -/
def SameFrames (a b : Agent) : Prop :=
  b.id = a.id ∧ b.pos = a.pos ∧ b.arch.frames = a.arch.frames ∧ b.pend.freq = a.pend.freq

theorem SameFrames.poolOf {a b : Agent} (h : SameFrames a b) (i : Nat) : poolOf i b = poolOf i a := by
  obtain ⟨hid, hpos, -, -⟩ := h
  rw [Machine.poolOf, hid, hpos, Machine.poolOf]

theorem SameFrames.granulesIn {a b : Agent} (h : SameFrames a b) (p : Pool) (i : Nat) : granulesIn p (i, b) = granulesIn p (i, a) := by
  have hpool := h.poolOf i
  obtain ⟨-, hpos, hframes, hfreq⟩ := h
  simp only [Machine.granulesIn, hpool, hpos, Agent.granules, hframes, hfreq]

theorem usedGran_eq (s : State) (p : Pool) : s.usedGran p = s.agents.flatMap (granulesIn p) := rfl

theorem freeGran_setAgent {s : State} {i : Nat} {a b : Agent} (h : tget s.agents i = some a) (hb : SameFrames a b) (p : Pool) :
    (s.setAgent i b).freeGran p = s.freeGran p := by
  have hused (g : Nat) : g ∈ (s.setAgent i b).usedGran p ↔ g ∈ s.usedGran p := by
    simp only [usedGran_eq, List.mem_flatMap, State.setAgent_agents]
    constructor
    · rintro ⟨e, he, hg⟩
      rcases mem_of_mem_tset he with rfl | he
      · exact ⟨(i, a), mem_of_tget h, hb.granulesIn p i ▸ hg⟩
      · exact ⟨e, he, hg⟩
    · rintro ⟨e, he, hg⟩
      rcases mem_tset_of_mem (x := b) h he with rfl | he
      · exact ⟨(i, b), mem_tset_self _ _ _, (hb.granulesIn p i).symm ▸ hg⟩
      · exact ⟨e, he, hg⟩
  simp only [State.freeGran]
  refine List.filter_congr fun g _ => ?_
  simp only [List.contains_eq_mem, hused]

theorem blockedIn_setAgent {s : State} {i : Nat} {b : Agent} {p : Pool} (h : s.blockedIn p = []) (hb : b.pend.freq = none) :
    (s.setAgent i b).blockedIn p = [] := by
  unfold State.blockedIn at *
  rw [List.filterMap_eq_nil_iff] at *
  intro e he
  rcases mem_of_mem_tset he with rfl | he
  · simp only [hb]
  · exact h e he

/-- A request of an agent that has none is served at once where no other is blocked and the pool has the granules. -/
theorem frameReq_served {s : State} {i : Nat} {a : Agent} {p : Pool} {want : Nat} {args : List Nat} (hf : a.pend.freq = none)
    (hb : s.blockedIn p = []) (hw : want ≤ (s.freeGran p).length) (own : Bool) : s.frameReq i a p want own args = none := by
  unfold State.frameReq
  simp only [hf]
  refine if_pos ?_
  simp only [hb, List.isEmpty_nil, Bool.true_and, decide_eq_true_eq]
  omega

/-- Nothing differs but the model's own data. -/
def OnlyRun (s t : State) : Prop := t = { s with run := t.run }

theorem pickGran_spec (n : Nat) : ∀ (s : State) (avail : List Nat),
    (pickGran s avail n).1.length = n ∧ OnlyRun s (pickGran s avail n).2 := by
  induction n with
  | zero => exact fun _ _ => ⟨rfl, rfl⟩
  | succ n ih =>
    intro s avail
    obtain ⟨hlen, hrun⟩ := ih s.fresh.2 (avail.filter fun x => x != avail.getD (s.fresh.1 % avail.length) 0)
    refine ⟨congrArg (· + 1) hlen, ?_⟩
    have hfresh : OnlyRun s s.fresh.2 := rfl
    unfold OnlyRun at *
    rw [hfresh] at hrun
    exact hrun

theorem takeGran_spec {s : State} {i : Nat} {a : Agent} (h : tget s.agents i = some a) (p : Pool) (n : Nat) :
    (s.takeGran i p n).1.length = n ∧ OnlyRun (s.setAgent i a.noReq) (s.takeGran i p n).2 := by
  simp only [State.takeGran, h]
  exact pickGran_spec n _ _

/-! Handler mode entered (07 R168, 05 R134). -/

section
variable {s : State} {i : Nat} {a : Agent} {f : FaultInfo} {entry dem : Nat}

/-- A sequencer pool that cannot hold the trap frame is a double fault. -/
theorem pushTrap_noRoom (hseq : a.id.seq = true) (hw : (s.freeGran (poolOf i a)).length < ceilDiv dem 16) :
    s.pushTrap i a f entry dem = s.endGrid a.id.grid 8 f.cause f.pc := by
  unfold State.pushTrap
  simp only [hseq, hw, decide_true, Bool.and_true, if_true]

/-- A frame request that is served at once pushes the trap frame. -/
theorem pushTrap_room (h : tget s.agents i = some a) (hf : a.pend.freq = none) (hb : s.blockedIn (poolOf i a) = [])
    (hw : ceilDiv dem 16 ≤ (s.freeGran (poolOf i a)).length) :
    ∃ (u : Nat) (r : DWord) (gran : List Nat), gran.length = ceilDiv dem 16 ∧
      let b := a.enterHandler f entry (newFrame u dem r false true 0 gran)
      tget (s.pushTrap i a f entry dem).agents i = some b ∧
      (s.pushTrap i a f entry dem).mem = s.mem ∧ (s.pushTrap i a f entry dem).scr = s.scr := by
  have hreq : s.frameReq i a (poolOf i a) (ceilDiv dem 16) false [] = none := frameReq_served hf hb hw false
  have hroom : (a.id.seq && decide ((s.freeGran (poolOf i a)).length < ceilDiv dem 16)) = false := by
    rw [decide_eq_false (by omega), Bool.and_false]
  have hno : a.noReq = a := by rw [Agent.noReq, ← hf]
  obtain ⟨hlen, htake⟩ := takeGran_spec h (poolOf i a) (ceilDiv dem 16)
  rw [hno] at htake
  unfold State.pushTrap
  simp only [hroom, hreq, Bool.false_eq_true, if_false]
  generalize s.takeGran i (poolOf i a) (ceilDiv dem 16) = q at hlen htake
  obtain ⟨gran, t⟩ := q
  dsimp only at hlen htake
  unfold OnlyRun at htake
  have hagent : tget t.newId.2.fresh.2.agents i = some a := by
    show tget t.agents i = some a
    rw [htake]
    exact tget_tset_self _ _ _
  simp only [hagent]
  refine ⟨_, _, gran, hlen, tget_tset_self _ _ _, ?_, ?_⟩
  · show t.mem = s.mem
    rw [htake]; rfl
  · show t.scr = s.scr
    rw [htake]; rfl

end

/-- The record and the state of 07 R169 written to the trap save area. -/
def State.writeTrapArea (s : State) (i : Nat) (a : Agent) (f : FaultInfo) : Got Unit × State :=
  s.ownOf i (s.spillBase a) 256 true (s.writeVa a.id.vd a.id.ctx (s.spillBase a) (trapArea s a f))

/-- An agent whose save area is written, with the trap registers set (07 R168 steps 2 and 3). -/
def Agent.areaWritten (a : Agent) (base : Nat) (f : FaultInfo) : Agent :=
  (a.withOwn (ownDone a.pend.own base 256 true)).setTrapRegs f

theorem areaWritten_sameFrames (a : Agent) (base : Nat) (f : FaultInfo) (l : List Own) :
    SameFrames (a.withOwn l) (a.areaWritten base f) := ⟨rfl, rfl, rfl, rfl⟩

theorem exec_trapEntry (s : State) (i : Nat) : exec (.trapEntry i) s = .next (s.tryTrap i) := rfl

/-- An agent whose trap can be entered: nothing but parked accesses of it is outstanding, and no frame request (07 R168). -/
structure Enters (s : State) (i : Nat) (a : Agent) (f : FaultInfo) (entry dem : Nat) : Prop where
  here : tget s.agents i = some a
  trapping : a.flt.trapping = true
  due : a.flt.due = some f
  quiet : a.quiet = true
  placed : a.pos.out = false
  noReq : a.pend.freq = none
  noArm : a.pend.ct = none
  vector : (s.grid a.id.grid).vector = some (entry, dem)

section
variable {s t : State} {i : Nat} {a : Agent} {f : FaultInfo} {entry dem : Nat} (h : Enters s i a f entry dem)
include h

theorem tryTrap_unwritten {c ad : Nat} {r : Bool} (hw : s.writeTrapArea i a f = (.fail c r ad, t)) :
    s.tryTrap i = t.endGrid a.id.grid 8 f.cause f.pc := by
  unfold State.writeTrapArea at hw
  simp [State.tryTrap, h.here, h.trapping, h.due, h.quiet, h.placed, h.noReq, h.vector, hw]

theorem writeTrapArea_agent (hw : s.writeTrapArea i a f = (.ok (), t)) :
    tget t.agents i = some (a.withOwn (ownDone a.pend.own (s.spillBase a) 256 true)) :=
  ownOf_agent h.here (writeVa_agent h.here h.noArm _ _ _ _ _) hw

theorem tryTrap_written (hw : s.writeTrapArea i a f = (.ok (), t)) :
    s.tryTrap i = (t.setAgent i (a.areaWritten (s.spillBase a) f)).pushTrap i (a.areaWritten (s.spillBase a) f) f entry dem := by
  have hagent := writeTrapArea_agent h hw
  unfold State.writeTrapArea at hw
  simp [State.tryTrap, h.here, h.trapping, h.due, h.quiet, h.placed, h.noReq, h.vector, hw, hagent, Agent.areaWritten]

/-- Where the save area has been written, the agent's pool is as it was. -/
theorem freeGran_areaWritten (hw : s.writeTrapArea i a f = (.ok (), t)) (p : Pool) :
    (t.setAgent i (a.areaWritten (s.spillBase a) f)).freeGran p = t.freeGran p :=
  freeGran_setAgent (writeTrapArea_agent h hw) (areaWritten_sameFrames _ _ _ _) p

theorem trapEntry_noRoom (hw : s.writeTrapArea i a f = (.ok (), t)) (hseq : a.id.seq = true)
    (hg : (t.freeGran (poolOf i a)).length < ceilDiv dem 16) :
    ∃ u : State, exec (.trapEntry i) s = .next (u.endGrid a.id.grid 8 f.cause f.pc) ∧ u.mem = t.mem := by
  rw [← freeGran_areaWritten h hw] at hg
  refine ⟨_, ?_, State.setAgent_mem t i (a.areaWritten (s.spillBase a) f)⟩
  rw [exec_trapEntry, tryTrap_written h hw]
  exact congrArg Host.Outcome.next (pushTrap_noRoom (a := a.areaWritten (s.spillBase a) f) hseq hg)

/-- Handler mode entered with the frame `u` given the granules `gran`. -/
theorem trapEntry_enters (hw : s.writeTrapArea i a f = (.ok (), t)) (hb : t.blockedIn (poolOf i a) = [])
    (hg : ceilDiv dem 16 ≤ (t.freeGran (poolOf i a)).length) :
    ∃ (v : State) (u : Nat) (r : DWord) (gran : List Nat), exec (.trapEntry i) s = .next v ∧ gran.length = ceilDiv dem 16 ∧
      tget v.agents i =
        some ((a.areaWritten (s.spillBase a) f).enterHandler f entry (newFrame u dem r false true 0 gran)) ∧
      v.mem = t.mem ∧ v.scr = t.scr := by
  rw [← freeGran_areaWritten h hw] at hg
  obtain ⟨u, r, gran, hlen, hagent, hmem, hscr⟩ := pushTrap_room
    (s := t.setAgent i (a.areaWritten (s.spillBase a) f)) (a := a.areaWritten (s.spillBase a) f) (f := f) (entry := entry)
    (tget_tset_self t.agents i _) h.noReq (blockedIn_setAgent hb h.noReq) hg
  exact ⟨_, u, r, gran, by rw [exec_trapEntry, tryTrap_written h hw], hlen, hagent, hmem, hscr⟩

end

/-! The trap save area (05 R133, 07 R169). -/

theorem areaNat_append_left {xs ys : List Byte} {off n : Nat} (h : off + n ≤ xs.length) :
    areaNat (xs ++ ys) off n = areaNat xs off n := by
  rw [areaNat, List.drop_append_of_le_length (by omega), List.take_append_of_le_length (by rw [List.length_drop]; omega), areaNat]

theorem areaNat_append_right {xs ys : List Byte} {off n : Nat} (h : xs.length ≤ off) :
    areaNat (xs ++ ys) off n = areaNat ys (off - xs.length) n := by
  rw [areaNat, List.drop_append, List.drop_eq_nil_of_le h, List.nil_append, areaNat]

theorem bytesOf_take {m : Nat} : ∀ {n x : Nat}, m ≤ n → (bytesOf x n).take m = bytesOf x m := by
  induction m with
  | zero => exact fun _ => rfl
  | succ m ih =>
    intro n x h
    obtain ⟨k, rfl⟩ := Nat.exists_eq_add_of_lt h
    exact congrArg (_ :: ·) (ih (by omega))

theorem bytesOf_drop (k : Nat) : ∀ {n x : Nat}, (bytesOf x n).drop k = bytesOf (x / 256 ^ k) (n - k) := by
  induction k with
  | zero => intro n x; simp
  | succ k ih =>
    intro n x
    cases n with
    | zero => simp [bytesOf]
    | succ n => rw [bytesOf, List.drop_succ_cons, ih, Nat.pow_succ', Nat.div_div_eq_div_mul, Nat.add_sub_add_right]

/-- Bytes of a number are the number shifted and cut off. -/
theorem areaNat_bytesOf {x n k m : Nat} (h : k + m ≤ n) : areaNat (bytesOf x n) k m = x / 256 ^ k % 256 ^ m := by
  rw [areaNat, bytesOf_drop, bytesOf_take (by omega), ofBytes_bytesOf]

theorem areaNat_bytesOf_whole (x n : Nat) : areaNat (bytesOf x n) 0 n = x % 256 ^ n := by
  rw [areaNat_bytesOf (by omega), Nat.pow_zero, Nat.div_one]

theorem areaNat_replicate_zero (n off m : Nat) : areaNat (List.replicate n 0) off m = 0 := by
  rw [areaNat, List.drop_replicate, List.take_replicate]
  induction min m (n - off) with
  | zero => rfl
  | succ k ih => rw [List.replicate_succ, ofBytes, ih]; rfl

theorem length_flatMap_upFrom {g : Nat → List Byte} {w : Nat} (hg : ∀ k, (g k).length = w) (n : Nat) :
    ∀ a, ((upFrom a n).flatMap g).length = w * n := by
  induction n with
  | zero => exact fun _ => rfl
  | succ n ih => intro a; rw [upFrom, List.flatMap_cons, List.length_append, hg, ih, Nat.mul_succ, Nat.add_comm]

/-- Inside element `k` of a list of elements of `w` bytes. -/
theorem areaNat_flatMap_upFrom {g : Nat → List Byte} {w j m : Nat} (hg : ∀ k, (g k).length = w) (h : j + m ≤ w) {n : Nat} :
    ∀ {a k : Nat}, k < n → areaNat ((upFrom a n).flatMap g) (w * k + j) m = areaNat (g (a + k)) j m := by
  induction n with
  | zero => intro a k hk; omega
  | succ n ih =>
    intro a k hk
    rw [upFrom, List.flatMap_cons]
    cases k with
    | zero => rw [Nat.mul_zero, Nat.zero_add, areaNat_append_left (by rw [hg]; exact h)]; rfl
    | succ k =>
      rw [areaNat_append_right (by rw [hg, Nat.mul_succ]; omega), hg, show w * (k + 1) + j - w = w * k + j by rw [Nat.mul_succ]; omega,
        ih (by omega), show a + 1 + k = a + (k + 1) by omega]

theorem upFrom_eq_range' (n : Nat) : ∀ a, upFrom a n = List.range' a n := by
  induction n with
  | zero => exact fun _ => rfl
  | succ n ih => intro a; rw [upFrom, ih, List.range'_succ]

theorem upFrom_zero_eq_range (n : Nat) : upFrom 0 n = List.range n := by rw [upFrom_eq_range', List.range_eq_range']

/-- The bitmap of the numbers below `n` that satisfy a test, as `trapArea` sums it. -/
def bitmap (p : Nat → Bool) (n : Nat) : Nat := (upFrom 0 n).foldl (fun m k => m + b2n (p k) * 2 ^ k) 0

theorem bitmap_succ (p : Nat → Bool) (n : Nat) : bitmap p (n + 1) = 2 ^ n * b2n (p n) + bitmap p n := by
  rw [bitmap, upFrom_zero_eq_range, List.range_succ, List.foldl_append, ← upFrom_zero_eq_range, Nat.add_comm, Nat.mul_comm]
  rfl

theorem bitmap_lt (p : Nat → Bool) (n : Nat) : bitmap p n < 2 ^ n := by
  induction n with
  | zero => exact Nat.one_pos
  | succ n ih =>
    have hb : b2n (p n) ≤ 1 := by cases p n <;> decide
    have := Nat.mul_le_mul_left (2 ^ n) hb
    rw [bitmap_succ, Nat.pow_succ]
    omega

theorem testBit_bitmap (p : Nat → Bool) {n k : Nat} (h : k < n) : (bitmap p n).testBit k = p k := by
  induction n with
  | zero => omega
  | succ n ih =>
    rw [bitmap_succ, Nat.testBit_two_pow_mul_add _ (bitmap_lt p n)]
    split
    · next hk => exact ih hk
    · next hk =>
      obtain rfl : k = n := by omega
      rw [Nat.sub_self]
      cases p k <;> rfl

section
variable (s : State) (a : Agent) (f : FaultInfo)

/-- The trap record before INDEX. -/
def trapHead : List Byte :=
  bytesOf (f.cause + 256 * b2n f.repl + 512 * b2n f.eng + 1024 * b2n a.pos.away + 2048 * b2n a.id.seq) 4
    ++ (bytesOf (s.teamN a.id.team) 4 ++ (bytesOf f.pc.toNat 8 ++ (bytesOf f.addr.toNat 8 ++ (bytesOf f.iword.toNat 8
    ++ (bytesOf (a.pos.core + a.pos.lane * 2 ^ 11 + a.pos.slot * 2 ^ 15 + a.id.tid * 2 ^ 20) 4
    ++ (bytesOf (a.id.vd + 256 * a.id.ctx) 4 ++ bytesOf (s.spillBase a + 64) 8))))))

/-- Element `k` of INDEX. -/
def indexBytes (k : Nat) : List Byte := bytesOf (f.index.getD k 0) 4

/-- Entry `n` of the queue snapshot. -/
def entryBytes (n : Nat) : List Byte :=
  bytesOf (if (a.arch.queue.getD n {}).pend.isSome then 0 else (a.arch.queue.getD n {}).val.toNat) 4

/-- Predicates, loops and pending entries, then the guard of the microprogram. -/
def flagBytes : List Byte :=
  bytesOf (a.arch.preds.toNat + 256 * a.arch.loops.length + 65536 * bitmap (fun n => (a.arch.queue.getD n {}).pend.isSome) 16) 8
    ++ bytesOf (if a.arch.mac.isSome then a.macGuard else f.guard) 8

/-- Entry `k` of the loop stack. -/
def loopBytes (k : Nat) : List Byte :=
  match a.arch.loops[k]? with
  | some l => bytesOf (l.start.toNat % 2 ^ 57) 8 ++ bytesOf l.len 4 ++ bytesOf l.count.toNat 4
  | none => List.replicate 16 0

theorem trapArea_eq : trapArea s a f = trapHead s a f ++ ((upFrom 0 4).flatMap (indexBytes f) ++
    ((upFrom 0 16).flatMap (entryBytes a) ++ (flagBytes a f ++ ((upFrom 0 4).flatMap (loopBytes a) ++ List.replicate 48 0)))) := by
  simp only [trapArea, trapHead, flagBytes, List.append_assoc]
  rfl

theorem trapHead_length : (trapHead s a f).length = 48 := by simp only [trapHead, List.length_append, bytesOf_length]

theorem indexBytes_length (k : Nat) : (indexBytes f k).length = 4 := bytesOf_length _ _

theorem entryBytes_length (n : Nat) : (entryBytes a n).length = 4 := bytesOf_length _ _

theorem flagBytes_length : (flagBytes a f).length = 16 := by simp only [flagBytes, List.length_append, bytesOf_length]

theorem loopBytes_length (k : Nat) : (loopBytes a k).length = 16 := by
  unfold loopBytes
  split
  · simp only [List.length_append, bytesOf_length]
  · exact List.length_replicate

theorem trapArea_length : (trapArea s a f).length = 256 := by
  simp only [trapArea_eq, List.length_append, trapHead_length, length_flatMap_upFrom (indexBytes_length f),
    length_flatMap_upFrom (entryBytes_length a), flagBytes_length, length_flatMap_upFrom (loopBytes_length a), List.length_replicate]

variable {off n k m : Nat}

theorem trapArea_head (h : off + n ≤ 48) : areaNat (trapArea s a f) off n = areaNat (trapHead s a f) off n := by
  rw [trapArea_eq, areaNat_append_left (by rwa [trapHead_length])]

theorem trapArea_index (hk : k < 4) : areaNat (trapArea s a f) (0x30 + 4 * k) 4 = areaNat (indexBytes f k) 0 4 := by
  have hin := areaNat_flatMap_upFrom (indexBytes_length f) (j := 0) (m := 4) (by omega) (n := 4) (a := 0) hk
  have hlen := length_flatMap_upFrom (indexBytes_length f) 4 0
  rw [Nat.zero_add] at hin
  rw [← hin, trapArea_eq, areaNat_append_right (by rw [trapHead_length]; omega), trapHead_length,
    areaNat_append_left (by omega), show 0x30 + 4 * k - 48 = 4 * k + 0 by omega]

theorem trapArea_past_index (h : 64 ≤ off) : areaNat (trapArea s a f) off n =
    areaNat ((upFrom 0 16).flatMap (entryBytes a) ++ (flagBytes a f ++ ((upFrom 0 4).flatMap (loopBytes a) ++ List.replicate 48 0))) (off - 64) n := by
  have hlen := length_flatMap_upFrom (indexBytes_length f) 4 0
  rw [trapArea_eq, areaNat_append_right (by rw [trapHead_length]; omega), trapHead_length, areaNat_append_right (by omega), hlen,
    show off - 48 - 4 * 4 = off - 64 by omega]

theorem trapArea_entry (hk : k < 16) : areaNat (trapArea s a f) (0x40 + 4 * k) 4 = areaNat (entryBytes a k) 0 4 := by
  have hin := areaNat_flatMap_upFrom (entryBytes_length a) (j := 0) (m := 4) (by omega) (n := 16) (a := 0) hk
  have hlen := length_flatMap_upFrom (entryBytes_length a) 16 0
  rw [Nat.zero_add] at hin
  rw [← hin, trapArea_past_index _ _ _ (by omega), areaNat_append_left (by omega), show 0x40 + 4 * k - 64 = 4 * k + 0 by omega]

theorem trapArea_past_queue (h : 128 ≤ off) : areaNat (trapArea s a f) off n =
    areaNat (flagBytes a f ++ ((upFrom 0 4).flatMap (loopBytes a) ++ List.replicate 48 0)) (off - 128) n := by
  have hlen := length_flatMap_upFrom (entryBytes_length a) 16 0
  rw [trapArea_past_index _ _ _ (by omega), areaNat_append_right (by omega), hlen, show off - 64 - 4 * 16 = off - 128 by omega]

theorem trapArea_flags (hoff : 128 ≤ off) (h : off + n ≤ 144) :
    areaNat (trapArea s a f) off n = areaNat (flagBytes a f) (off - 128) n := by
  rw [trapArea_past_queue _ _ _ hoff, areaNat_append_left (by rw [flagBytes_length]; omega)]

theorem trapArea_past_flags (h : 144 ≤ off) : areaNat (trapArea s a f) off n =
    areaNat ((upFrom 0 4).flatMap (loopBytes a) ++ List.replicate 48 0) (off - 144) n := by
  rw [trapArea_past_queue _ _ _ (by omega), areaNat_append_right (by rw [flagBytes_length]; omega), flagBytes_length,
    show off - 128 - 16 = off - 144 by omega]

theorem trapArea_loop (hk : k < 4) {j : Nat} (hj : j + m ≤ 16) :
    areaNat (trapArea s a f) (0x90 + j + 16 * k) m = areaNat (loopBytes a k) j m := by
  have hin := areaNat_flatMap_upFrom (loopBytes_length a) hj (n := 4) (a := 0) hk
  have hlen := length_flatMap_upFrom (loopBytes_length a) 4 0
  rw [Nat.zero_add] at hin
  rw [← hin, trapArea_past_flags _ _ _ (by omega), areaNat_append_left (by omega), show 0x90 + j + 16 * k - 144 = 16 * k + j by omega]

theorem trapArea_tail (h : 208 ≤ off) : areaNat (trapArea s a f) off n = 0 := by
  have hlen := length_flatMap_upFrom (loopBytes_length a) 4 0
  rw [trapArea_past_flags _ _ _ (by omega), areaNat_append_right (by omega), areaNat_replicate_zero]

end

/-- The trap record before INDEX, field by field (05 R133). -/
theorem trapArea_record (s : State) (a : Agent) (f : FaultInfo) (hcause : f.cause < 256) (hcore : a.pos.core < 2 ^ 11)
    (hlane : a.pos.lane < 16) (hslot : a.pos.slot < 32) (htid : a.id.tid < 1024) (hvd : a.id.vd < 64) (hctx : a.id.ctx < 16)
    (hteam : s.teamN a.id.team < 2 ^ 32) (hbase : s.spillBase a + 64 < 2 ^ 64) :
    let bs := trapArea s a f
    areaNat bs 0 4 = f.cause + (if f.repl then 256 else 0) + (if f.eng then 512 else 0) + (if a.pos.away then 1024 else 0)
      + (if a.id.seq then 2048 else 0) ∧
    areaNat bs 4 4 = s.teamN a.id.team ∧ areaNat bs 8 8 = f.pc.toNat ∧ areaNat bs 0x10 8 = f.addr.toNat ∧
    areaNat bs 0x18 8 = f.iword.toNat ∧
    areaNat bs 0x20 4 = a.pos.core + a.pos.lane * 2 ^ 11 + a.pos.slot * 2 ^ 15 + a.id.tid * 2 ^ 20 ∧
    areaNat bs 0x24 4 = a.id.vd + a.id.ctx * 2 ^ 8 ∧ areaNat bs 0x28 8 = s.spillBase a + 64 := by
  have hpc := f.pc.isLt
  have haddr := f.addr.isLt
  have hiword := f.iword.isLt
  have hflag (b : Bool) (n : Nat) : n * b2n b = if b then n else 0 := by cases b <;> simp [b2n]
  have hle (b : Bool) (n : Nat) : (if b then n else 0) ≤ n := by cases b <;> simp
  have h256 := hle f.repl 256
  have h512 := hle f.eng 512
  have h1024 := hle a.pos.away 1024
  have h2048 := hle a.id.seq 2048
  refine ⟨?_, ?_, ?_, ?_, ?_, ?_, ?_, ?_⟩ <;>
    simp only [trapArea_head, Nat.reduceAdd, Nat.reduceLeDiff, trapHead, areaNat_append_left, areaNat_append_right, bytesOf_length,
      Nat.reduceSub, areaNat_bytesOf, Nat.le_refl, Nat.pow_zero, Nat.div_one, hflag] <;> omega

/-- The word at 0x80: predicates, loops and pending entries (07 R169). -/
theorem trapArea_flagWord (s : State) (a : Agent) (f : FaultInfo) (hloops : a.arch.loops.length ≤ 4) :
    let bs := trapArea s a f
    areaNat bs 0x80 1 = a.arch.preds.toNat ∧ areaNat bs 0x81 1 = a.arch.loops.length ∧
    areaNat bs 0x82 2 = bitmap (fun n => (a.arch.queue.getD n {}).pend.isSome) 16 ∧ areaNat bs 0x84 4 = 0 := by
  have hpreds := a.arch.preds.isLt
  have hpend := bitmap_lt (fun n => (a.arch.queue.getD n {}).pend.isSome) 16
  refine ⟨?_, ?_, ?_, ?_⟩ <;>
    simp only [trapArea_flags, Nat.reduceAdd, Nat.reduceLeDiff, flagBytes, areaNat_append_left, bytesOf_length, Nat.reduceSub,
      areaNat_bytesOf, Nat.reducePow] <;> omega

/-- The word at 0x88: the guard of the microprogram in progress, or that of the fault (07 R169). -/
theorem trapArea_guard (s : State) (a : Agent) (f : FaultInfo) :
    areaNat (trapArea s a f) 0x88 8 = (if a.arch.mac.isSome then a.macGuard else f.guard) % 2 ^ 64 := by
  simp only [trapArea_flags, Nat.reduceAdd, Nat.reduceLeDiff, flagBytes, areaNat_append_right, bytesOf_length, Nat.reduceSub,
    areaNat_bytesOf, Nat.reducePow, Nat.div_one, Nat.le_refl]

theorem macGuard_eq {a : Agent} {m : MacRun} (h : a.arch.mac = some m) : a.macGuard = m.gp.toNat + if m.gn then 8 else 0 := by
  simp only [Agent.macGuard, h]
  cases m.gn <;> rfl

/-- An entry of the loop stack (07 R169). -/
theorem trapArea_loopEntry (s : State) (a : Agent) (f : FaultInfo) {k : Nat} {l : Loop} (hk : k < 4) (hl : a.arch.loops[k]? = some l) :
    let bs := trapArea s a f
    areaNat bs (0x90 + 16 * k) 8 = l.start.toNat % 2 ^ 57 ∧ areaNat bs (0x98 + 16 * k) 4 = l.len % 2 ^ 32 ∧
    areaNat bs (0x9C + 16 * k) 4 = l.count.toNat := by
  have hcount := l.count.isLt
  have hstart := trapArea_loop s a f hk (j := 0) (m := 8) (by omega)
  have hlen := trapArea_loop s a f hk (j := 8) (m := 4) (by omega)
  have hcnt := trapArea_loop s a f hk (j := 12) (m := 4) (by omega)
  simp only [loopBytes, hl, Nat.reduceAdd, Nat.reduceLeDiff, List.append_assoc, areaNat_append_left, areaNat_append_right, bytesOf_length,
    Nat.reduceSub, areaNat_bytesOf, Nat.le_refl, Nat.pow_zero, Nat.div_one] at hstart hlen hcnt
  exact ⟨by omega, by omega, by omega⟩

theorem trapArea_noLoop (s : State) (a : Agent) (f : FaultInfo) {k : Nat} (hk : k < 4) (hl : a.arch.loops[k]? = none) :
    areaNat (trapArea s a f) (0x90 + 16 * k) 16 = 0 := by
  have h := trapArea_loop s a f hk (j := 0) (m := 16) (by omega)
  simp only [loopBytes, hl, areaNat_replicate_zero] at h
  exact h

/-- Settles O33: entering a trap goes through one write of the save area, which changes nothing of the agent but its own accesses, and
one frame request, which the free granules serve at once; the save area is a list of fields, each found past those before it. -/
theorem trapEntry : Obligations.TrapEntry := by
  unfold Obligations.TrapEntry
  refine ⟨?_, ?_⟩
  · intro s t i a f entry dem here trapping due quiet placed noReq noArm vector
    have h : Enters s i a f entry dem := ⟨here, trapping, due, quiet, placed, noReq, noArm, vector⟩
    refine ⟨fun c r ad hw => ?_, fun hw hseq hg => trapEntry_noRoom h hw hseq hg, fun hw hb hg => ?_⟩
    · rw [exec_trapEntry, tryTrap_unwritten h hw]
    · obtain ⟨v, u, r, gran, hexec, hlen, hagent, hmem, hscr⟩ := trapEntry_enters h hw hb hg
      exact ⟨v, _, _, hexec, hagent, hmem, hscr, rfl, rfl, rfl, rfl, rfl, hlen, rfl, rfl, rfl, rfl, rfl⟩
  · intro s a f bs q hcause hcore hlane hslot htid hvd hctx hteam hbase hloops
    obtain ⟨hflags, hteamN, hpc, haddr, hiword, hwhere, hwho, hqueue⟩ :=
      trapArea_record s a f hcause hcore hlane hslot htid hvd hctx hteam hbase
    obtain ⟨hpreds, hdepth, hpend, hzero⟩ := trapArea_flagWord s a f hloops
    refine ⟨trapArea_length s a f, hflags, hteamN, hpc, haddr, hiword, hwhere, hwho, hqueue, fun k hk => ?_, fun n hn => ?_, hpreds, hdepth,
      fun n hn => ?_, hzero, fun hm => ?_, fun m hm => ?_, fun k l hl => ?_, fun k hk hl => trapArea_noLoop s a f hk hl,
      trapArea_tail s a f (by omega)⟩
    · exact (trapArea_index s a f hk).trans (areaNat_bytesOf_whole _ _)
    · have hval := (q n).val.isLt
      rw [trapArea_entry s a f hn, entryBytes, areaNat_bytesOf_whole, Nat.mod_eq_of_lt]
      split <;> omega
    · rw [hpend, testBit_bitmap _ hn]
    · rw [trapArea_guard, hm]
      rfl
    · rw [trapArea_guard, hm, Option.isSome_some, if_pos rfl, macGuard_eq hm]
      have := m.gp.isLt
      split <;> omega
    · have hk : k < a.arch.loops.length := (List.getElem?_eq_some_iff.1 hl).1
      exact trapArea_loopEntry s a f (by omega) hl

/-! Returning from a trap (07 R171, 11 R301). -/

/-- The topmost trap frame lies below the frames that are none. -/
theorem framesAbove_trap {a : Agent} {xs fs : List Frame} {g : Frame} (h : a.arch.frames = xs ++ g :: fs)
    (hxs : ∀ x, x ∈ xs → x.trf = false) (hg : g.trf = true) : (framesAbove a fun _ t => t) = some xs.length := by
  have hnone : (xs.map fun f => (f.hf, f.trf)).findIdx? (fun x => x.2) = none :=
    List.findIdx?_eq_none_iff.2 fun p hp => by
      obtain ⟨x, hx, rfl⟩ := List.mem_map.1 hp
      exact hxs x hx
  rw [framesAbove, h, List.map_append, List.map_cons, List.append_assoc, List.findIdx?_append, hnone, List.cons_append,
    List.findIdx?_cons, if_pos hg, Option.map_some, List.length_map, Nat.zero_add]
  rfl

/-- An agent with these resident frames. -/
def Agent.withFrames (a : Agent) (fs : List Frame) : Agent := { a with arch := { a.arch with frames := fs } }

/-- Resident frames popped down to a resident one: the rest of the chain is as it was. -/
theorem popFrames_resident {s : State} {i : Nat} {a : Agent} {xs fs : List Frame} (h : a.arch.frames = xs ++ fs) (hfs : fs ≠ [])
    (hf : a.pend.freq = none) (args : List Nat) :
    ∃ u : State, s.popFrames i a xs.length args = .ok (a.withFrames fs) u ∧ u.mem = s.mem ∧ u.scr = s.scr := by
  have hout : xs.length - a.arch.frames.length = 0 := by rw [h, List.length_append]; omega
  have hdrop : a.arch.frames.drop xs.length = fs := by rw [h, List.drop_left]
  have hno : (a.withFrames fs).noReq = a.withFrames fs := by rw [Agent.noReq, show (none : Option FReq) = (a.withFrames fs).pend.freq from hf.symm]
  obtain ⟨f, fs', rfl⟩ := List.exists_cons_of_ne_nil hfs
  let b := !(a.arch.frames.take xs.length).isEmpty || a.pend.freq.any fun r => !r.held.isEmpty
  refine ⟨(s.setAgent i (a.withFrames (f :: fs')).noReq).noteFreedIf b (poolOf i a), ?_, by rw [noteFreedIf_eq]; rfl, by rw [noteFreedIf_eq]; rfl⟩
  have hagent : tget ((s.setAgent i (a.withFrames (f :: fs')).noReq).noteFreedIf b (poolOf i a)).agents i = some (a.withFrames (f :: fs')).noReq :=
    noteFreedIf_agent _ _ (tget_tset_self _ _ _) rfl
  unfold Agent.noReq Agent.withFrames at hagent hno ⊢
  unfold State.popFrames
  simp only [hout, hdrop, List.drop_zero, List.take_zero, evictedBytes, List.map_nil, List.sum_nil, Nat.sub_zero]
  rw [hagent, Option.getD_some, hno]

/-- Where the agent is in no settle wait there is none to examine. -/
theorem settleStep_of_unsettled {s : State} {i : Nat} {a : Agent} (h : tget s.agents i = some a) (hs : a.pend.settle = false) :
    s.settleStep i = s := by
  simp only [State.settleStep, h, hs, Bool.not_false, Bool.true_or, if_true]

theorem parked_eq_nil {a : Agent} (h : (a.pend.ops.all fun o => !o.st.isParked) = true) :
    (a.pend.ops.filter fun o => o.st.isParked) = [] := by
  rw [List.filter_eq_nil_iff]
  intro o ho
  have := List.all_eq_true.1 h o ho
  simpa using this

/-- Without a parked access every entry of the queue is the word of the snapshot (07 R171 step 2). -/
theorem restoreQueue_unparked {a : Agent} (h : (a.pend.ops.all fun o => !o.st.isParked) = true) (pend : Tab (Nat × Nat)) (bs : List Byte) :
    restoreQueue a pend bs = (List.range 16).map fun n => { val := BitVec.ofNat 32 (areaNat bs (0x40 + 4 * n) 4) } := by
  have hop {o : Nat} {x : Op} (hx : a.op o = some x) : x.st.isParked = false := by
    have := List.all_eq_true.1 h x (List.mem_of_find?_eq_some hx)
    simpa using this
  rw [restoreQueue, upFrom_zero_eq_range]
  refine List.map_congr_left fun n _ => ?_
  cases tget pend n with
  | none => rfl
  | some p =>
    obtain ⟨o, k⟩ := p
    cases hx : a.op o with
    | none => simp only [hx, Bool.and_false, Bool.false_eq_true, if_false]
    | some x => simp only [hx, hop hx, Bool.and_false, Bool.false_eq_true, if_false]

theorem restoreLoops_eq (bs : List Byte) : restoreLoops bs = (List.range (min 4 (areaNat bs 0x80 4 / 256 % 8))).map fun k =>
    ⟨BitVec.ofNat 64 (areaNat bs (0x90 + 16 * k) 8 % 2 ^ 57), areaNat bs (0x98 + 16 * k) 4,
      BitVec.ofNat 32 (areaNat bs (0x9C + 16 * k) 4)⟩ := by
  rw [restoreLoops, upFrom_zero_eq_range]
  rfl

section
variable (a : Agent) (e : TrapEnt) (es : List TrapEnt) (bs : List Byte)

/-- Untagged, and without loops in the save area, the agent resumes at the instruction the trap registers name. -/
theorem leaveHandler_untagged (hv : a.arch.trappc.toNat < 2 ^ 57) (hl : areaNat bs 0x80 4 / 256 % 8 = 0) :
    let b := a.leaveHandler e es bs
    b.arch.pc = a.arch.trappc ∧ b.arch.mac = none ∧ b.arch.loops = [] := by
  have htag : bitAt a.arch.trappc.toNat 62 = false := by
    rw [bitAt, Nat.div_eq_of_lt (by omega)]
    rfl
  have hloops : restoreLoops bs = [] := by rw [restoreLoops_eq, hl]; rfl
  simp only [Agent.leaveHandler, htag, hloops, Bool.false_eq_true, if_false, bodyEnd]
  exact ⟨trivial, trivial, trivial⟩

/-- Tagged, it resumes at the operation of a microprogram, with the loop stack and the guard of the save area (11 R301). -/
theorem leaveHandler_tagged (hv : a.arch.trappc.toNat / 2 ^ 62 = 1) :
    let b := a.leaveHandler e es bs
    b.arch.pc.toNat = a.arch.trappc.toNat % 2 ^ 57 ∧ b.arch.loops = restoreLoops bs ∧
    ∃ m, b.arch.mac = some m ∧ m.j = a.arch.trappc.toNat / 2 ^ 57 % 32 ∧ m.gp.toNat = areaNat bs 0x88 1 % 8 ∧
      m.gn = (areaNat bs 0x88 1).testBit 3 ∧ m.check = true := by
  have htag : bitAt a.arch.trappc.toNat 62 = true := by rw [bitAt, hv]; rfl
  simp only [Agent.leaveHandler, htag, if_true]
  exact ⟨by rw [BitVec.toNat_ofNat]; omega, trivial, _, rfl, rfl, BitVec.toNat_ofNat _ _, bitAt_eq_testBit _ _, rfl⟩

end

/-- The trap save area read back. -/
def State.readTrapArea (s : State) (i : Nat) (a : Agent) : Got (List Byte) × State :=
  s.ownOf i (s.spillBase a) 256 false (s.readVa a.id.vd a.id.ctx (s.spillBase a) 256)

/-- The agent in the handler once the save area is read: its frames from the trap frame upward are popped. -/
def Agent.areaRead (a : Agent) (base : Nat) (fs : List Frame) : Agent :=
  (a.withOwn (ownDone a.pend.own base 256 false)).withFrames fs

/-- An address at which `rtt` may resume: untagged or tagged once, and a multiple of 8 (11 R301). -/
def resumable (v : Nat) : Prop := ¬ (2 ^ 57 ≤ v ∧ bits v 62 2 ≠ 1) ∧ v % 8 = 0

theorem bits_tag (v : DWord) : bits v.toNat 62 2 = v.toNat / 2 ^ 62 := by
  have := v.isLt
  exact Nat.mod_eq_of_lt (by omega)

theorem resumable_of {v : DWord} (h : v.toNat < 2 ^ 57 ∨ v.toNat / 2 ^ 62 = 1) (h8 : v.toNat % 8 = 0) : resumable v.toNat := by
  refine ⟨fun ⟨hle, htag⟩ => ?_, h8⟩
  rw [bits_tag] at htag
  omega

section
variable {s t : State} {i : Nat} {a : Agent} {e : TrapEnt} {es : List TrapEnt} (he : a.flt.entries = e :: es)
include he

theorem rttFx_badTag (hv : 2 ^ 57 ≤ a.arch.trappc.toNat) (ht : a.arch.trappc.toNat / 2 ^ 62 ≠ 1) :
    rttFx s i a = .fault (faultAt s a 0x0B a.arch.trappc.toNat) := by
  rw [← bits_tag] at ht
  simp only [rttFx, he]
  exact if_pos ⟨hv, ht⟩

theorem rttFx_misaligned (hv : a.arch.trappc.toNat < 2 ^ 57 ∨ a.arch.trappc.toNat / 2 ^ 62 = 1) (h8 : a.arch.trappc.toNat % 8 ≠ 0) :
    rttFx s i a = .fault (faultAt s a 0x0A a.arch.trappc.toNat) := by
  simp only [rttFx, he, bits_tag]
  rw [if_neg (by omega), if_pos h8]

theorem rttFx_unreadable (hv : resumable a.arch.trappc.toNat) {c ad : Nat} {r : Bool} (hr : s.readTrapArea i a = (.fail c r ad, t)) :
    rttFx s i a = .moved (t.endGrid a.id.grid 8 e.cause e.pc) := by
  unfold State.readTrapArea at hr
  simp only [rttFx, he]
  rw [if_neg hv.1, if_neg (not_not_intro hv.2), hr]

theorem rttFx_returns (here : tget s.agents i = some a) (hv : resumable a.arch.trappc.toNat) {bs : List Byte}
    (hr : s.readTrapArea i a = (.ok bs, t)) (hops : (a.pend.ops.all fun o => !o.st.isParked) = true) (hf : a.pend.freq = none)
    (hsettle : e.settle = false) {xs fs : List Frame} {g : Frame} (hframes : a.arch.frames = xs ++ g :: fs)
    (hxs : ∀ x, x ∈ xs → x.trf = false) (hg : g.trf = true) (hfs : fs ≠ []) :
    ∃ u : State, rttFx s i a = .moved u ∧ tget u.agents i = some ((a.areaRead (s.spillBase a) fs).leaveHandler e es bs) ∧
      u.mem = t.mem ∧ u.scr = t.scr := by
  have hagent : tget t.agents i = some (a.withOwn (ownDone a.pend.own (s.spillBase a) 256 false)) :=
    ownOf_agent here (by rw [(readVa_onWay _ _ _ _ _).agents]; exact here) hr
  have habove : (framesAbove (a.withOwn (ownDone a.pend.own (s.spillBase a) 256 false)) fun _ t => t) = some xs.length :=
    framesAbove_trap hframes hxs hg
  obtain ⟨u, hpop, hmem, hscr⟩ := popFrames_resident (s := t) (i := i) (a := a.withOwn (ownDone a.pend.own (s.spillBase a) 256 false))
    (xs := xs ++ [g]) (hframes.trans (List.append_cons xs g fs)) hfs hf []
  rw [List.length_append, List.length_singleton] at hpop
  have hparked : (((a.areaRead (s.spillBase a) fs).leaveHandler e es bs).pend.ops.filter fun o => o.st.isParked) = [] := parked_eq_nil hops
  have hthere : tget (u.setAgent i ((a.areaRead (s.spillBase a) fs).leaveHandler e es bs)).agents i =
    some ((a.areaRead (s.spillBase a) fs).leaveHandler e es bs) := tget_tset_self _ _ _
  refine ⟨u.setAgent i ((a.areaRead (s.spillBase a) fs).leaveHandler e es bs), ?_, hthere, hmem, hscr⟩
  unfold State.readTrapArea at hr
  simp only [rttFx, he]
  rw [if_neg hv.1, if_neg (not_not_intro hv.2), hr]
  simp only [hagent, Option.getD_some, habove, hpop]
  unfold Agent.areaRead at *
  simp only [hparked, List.map_nil, State.replay]
  rw [settleStep_of_unsettled hthere hsettle]

end

/-- Settles O34: the address checks and the read of the save area are the branches of `rtt`; where they pass, the frames above the
trap frame are popped with it, and without a parked access nothing is left to replay. -/
theorem returnFromTrap : Obligations.ReturnFromTrap := by
  unfold Obligations.ReturnFromTrap
  intro h s t i a e es hs he v rd
  have hin : a.inHandler = true := by rw [Agent.inHandler, he]; rfl
  refine ⟨fun hv ht => ?_, fun hv h8 => ?_, fun hv h8 c r ad hr => ?_,
    fun hv h8 bs xs g fs hr hops hf hsettle hframes hxs hg hfs => ?_⟩
  · exact issue_fault hs rfl (fun _ => hin) (rttFx_badTag he hv ht)
  · exact issue_fault hs rfl (fun _ => hin) (rttFx_misaligned he hv h8)
  · exact issue_moved hs rfl (fun _ => hin) (rttFx_unreadable he (resumable_of hv h8) hr)
  · obtain ⟨u, hfx, hagent, hmem, hscr⟩ :=
      rttFx_returns he hs.here (resumable_of hv h8) hr hops hf hsettle hframes hxs hg hfs
    refine ⟨u, _, issue_moved hs rfl (fun _ => hin) hfx, hagent, hmem, hscr, rfl, restoreQueue_unparked hops _ _, rfl, rfl,
      fun hv hl => leaveHandler_untagged _ e es bs hv hl, fun hv => ?_⟩
    obtain ⟨hpc, hloops, hmac⟩ := leaveHandler_tagged (a.areaRead (s.spillBase a) fs) e es bs hv
    refine ⟨hpc, ?_, fun k hk => ?_, hmac⟩
    · rw [hloops, restoreLoops_eq, List.length_map, List.length_range]
    · rw [hloops, restoreLoops_eq] at hk ⊢
      rw [List.length_map, List.length_range] at hk
      rw [List.getElem?_map, List.getElem?_range hk]
      rfl

end Sys2Proof.Machine
